-- ==== Sys2Proof/Word.lean ====
section
/-! DEFINITION. Word.lean: the machine word, the byte and the sparse table type. -/

namespace Sys2Proof

/-- A register, an address while it is computed, a 64-bit memory word (R12, R13). -/
abbrev Word := BitVec 64

/-- A 32-bit word: an instruction word, an F32 or an I32 (R163, R87). -/
abbrev Word32 := BitVec 32

/-- The smallest unit of memory (R12). -/
abbrev Byte := BitVec 8

/-- A sparse table: keys strictly rising, no entry equal to what an unlisted key reads as. -/
abbrev SMap (α : Type) := List (Nat × α)

end Sys2Proof
end

