-- ==== Sys2Proof/Syntax.lean ====
section
/-! DEFINITION. Syntax.lean: the commands the block takes, one constructor per row of the opcode table, and the plain data they carry. -/

namespace Sys2Proof

/-- A queue: PCIe function (0 the PF, n + 1 the VF of partition n, R17) and queue number. -/
structure QRef where
  fn : Fin 33
  q : Fin 64
deriving DecidableEq, Repr

/-- A command: the queue and the submission slot that names it while the slot is reserved (R340). -/
structure CmdRef where
  fn : Fin 33
  q : Fin 64
  slot : BitVec 16
deriving DecidableEq, Repr

/-- An exposed tile: logical brick and tile number (R17). -/
structure TileRef where
  brick : Fin 64
  tile : Fin 96
deriving DecidableEq, Repr

/-- What executes an instruction (R160): an Anvil core, a Smith core, or a thread group of a tile. -/
inductive Agent where
  | anvil (core : Fin 128)
  | smith (t : TileRef)
  | group (t : TileRef) (g : Fin 8)
deriving DecidableEq, Repr

/-- A credit counter: of a tile (CC0 to CC7) or of a Yard unit (R192, R196). -/
inductive WinRef where
  | tile (t : TileRef) (i : Fin 8)
  | yard (unit : Fin 256) (i : Fin 8)
deriving DecidableEq, Repr

/-- MAJ 0x02–0x06 (Table 5.4). -/
inductive ImmOp where
  | addi | andi | ori | xori | slti
deriving DecidableEq, Repr

/-- MAJ 0x10–0x15 (Table 5.4). -/
inductive BrOp where
  | beq | bne | blt | bge | bltu | bgeu
deriving DecidableEq, Repr

/-- LOP 0x02–0x05 (Table 5.9). -/
inductive LongOp where
  | addil | andil | oril | xoril
deriving DecidableEq, Repr

/-- FN 0x008–0x00B (Table 5.10). -/
inductive MaskOp where
  | mland | mlor | mlxor | mlandn
deriving DecidableEq, Repr

/-- FN 0x010–0x015 (Table 5.10). -/
inductive IntCmp where
  | mceq | mcne | mclt | mcge | mcltu | mcgeu
deriving DecidableEq, Repr

/-- FN 0x018–0x01B (Table 5.10). -/
inductive FloatCmp where
  | mfeq | mflt | mfle | mfun
deriving DecidableEq, Repr

/-- What a controller finds as it scrubs a line (R234). -/
inductive ScrubResult where
  | clean | corrected | uncorrectable
deriving DecidableEq, Repr

/-- A domain with power states: a physical brick, or the memory side of a Mortar region q · 16 + j (Table 8.11). -/
inductive PDom where
  | brick (p : Fin 72)
  | region (r : Fin 64)
deriving DecidableEq, Repr

/-- A unit that leaves service (Table 16.9). -/
inductive HwUnit where
  | tile (t : TileRef)
  | quarter (q : Fin 256)
  | brick (p : Fin 72)
  | anvil (g : Fin 32)
  | fsite (s : Fin 24)
  | dsite (s : Fin 40)
  | port (p : Fin 36)
  | engine (e : Fin 9)
deriving DecidableEq, Repr

/-- Header of a BMP request (Table 12.11): the source address and port, VER and SEQ. -/
structure BmpHdr where
  src : BitVec 144
  ver : Byte
  seq : BitVec 32
deriving DecidableEq, Repr

/-- The image slots of Table 9.1. -/
inductive Slot where
  | a | b | factory
deriving DecidableEq, Repr

/-- The kinds of a RESET message (Table 12.12). -/
inductive ResetMsg where
  | cold
  | warm
  | partition (n : Fin 32)
  | job (tag : BitVec 16) (scope : BitVec 2)
deriving DecidableEq, Repr

/-- The places of Table 12.4. -/
inductive Sensor where
  | quarter (p : Fin 72) (u : Fin 4)
  | region (r : Fin 64)
  | anvil (d : Fin 4)
  | fstack (s : Fin 24)
  | dsite (s : Fin 40)
  | conv (i : Fin 16)
deriving DecidableEq, Repr

/-- A domain with a second-stage regulator of its own (R27, R31). -/
inductive RegDom where
  | quarter (p : Fin 72) (u : Fin 4)
  | region (r : Fin 64)
  | anvil (d : Fin 4)
deriving DecidableEq, Repr

/-- A unit that fails self-test (Table 13.3). -/
inductive TestFail where
  | tile (p : Fin 72) (u : Fin 4) (phys : Fin 25)
  | quarter (p : Fin 72) (u : Fin 4)
  | brick (p : Fin 72)
  | wires (p : Fin 72) (faultyIn faultyOut : Nat)
  | anvil (core : Fin 128)
  | mortar
  | island (i : Fin 18)
  | engine (e : Fin 9)
deriving DecidableEq, Repr

/-- What a lane learns at training (R358): its own place, and the partner's identity. -/
structure LaneInfo where
  port : Fin 36
  lane : Fin 8
  ppkg : BitVec 16
  pport : BitVec 6
  plane : BitVec 3
  isSwitch : Bool
deriving DecidableEq, Repr

/-- A link: the lanes of one port with one partner port (R358). -/
structure LinkRef where
  port : Fin 36
  ppkg : BitVec 16
  pport : BitVec 6
deriving DecidableEq, Repr

/-- A fabric packet (Table 11.2). -/
structure Packet where
  dst : BitVec 16
  src : BitVec 16
  jobtag : BitVec 16
  kind : BitVec 6
  vc : BitVec 2
  stream : BitVec 16
  sseq : BitVec 16
  tid : BitVec 16
  addr : BitVec 48
  opinfo : Word
  data : List Byte
deriving DecidableEq, Repr

/-- Where a register access comes from (R230, Table 16.12): the PF or a VF BAR0, or a view reached through the register space. -/
inductive View where
  | fn (f : Fin 33)
  | space (part : Option (Fin 32))
deriving DecidableEq, Repr

/-- One constructor per row of spec/opcode_table.json; the operands are what the row's rules read from outside the block. -/
inductive Instr where
  /-- KERNEL (R348). -/
  | kernel (c : CmdRef)
  /-- MOVE (R249). -/
  | moveCmd (c : CmdRef)
  /-- COPY_IN (R345). -/
  | copyIn (c : CmdRef)
  /-- COPY_OUT (R345). -/
  | copyOut (c : CmdRef)
  /-- FILL (R255). -/
  | fill (c : CmdRef)
  /-- PREFETCH (R256). -/
  | prefetch (c : CmdRef)
  /-- ADVISE (R260). -/
  | advise (c : CmdRef)
  /-- RESUME (R254). -/
  | resume (c : CmdRef)
  /-- STEP (R275). -/
  | step (c : CmdRef)
  /-- ADMIT (R273). -/
  | admitItems (c : CmdRef)
  /-- RETIRE (R274). -/
  | retire (c : CmdRef)
  /-- SIGNAL (R346). -/
  | signal (c : CmdRef)
  /-- WAIT (R346). -/
  | waitCmd (c : CmdRef)
  /-- WAIT_POLL (R346). -/
  | waitPoll (c : CmdRef)
  /-- FENCE (R346). -/
  | fenceCmd (c : CmdRef)
  /-- NOP (R346). -/
  | nop (c : CmdRef)
  /-- CANCEL (R294). -/
  | cancel (c : CmdRef)
  /-- CANCEL_MARK_ARRIVAL (R295). -/
  | cancelMarkArrival (c : CmdRef) (u : Option TileRef)
  /-- DUMP (R465). -/
  | dump (c : CmdRef)
  /-- DUMP_FIRE (R466). -/
  | dumpFire (c : CmdRef)
  /-- MARK (R464). -/
  | mark (c : CmdRef)
  /-- BARRIER (R373). -/
  | barrier (c : CmdRef)
  /-- SNAPSHOT (R377). -/
  | snapshot (c : CmdRef)
  /-- SNAPSHOT_DRAIN_COMPLETE (R377). -/
  | snapshotDrainComplete (c : CmdRef)
  /-- DOORBELL (R339). -/
  | doorbell (q : QRef) (v : Word)
  /-- ACCEPTANCE (R340). -/
  | acceptance (q : QRef)
  /-- COMPLETION_RECORD_WRITE (R342). -/
  | completionRecordWrite (c : CmdRef)
  /-- Q_CFG_WRITE (R338). -/
  | qCfgWrite (q : QRef) (v : Word)
  /-- Q_RESET (R428). -/
  | qReset (q : QRef)
  /-- PART_CTL_RESET (R325). -/
  | partCtlReset (n : Fin 32)
  /-- PARTITION_RESET_COMPLETE (R326). -/
  | partitionResetComplete (n : Fin 32)
  /-- PART_CTL_RESUME (R327). -/
  | partCtlResume (n : Fin 32)
  /-- PART_ASTART (R332). -/
  | partAstart (n : Fin 32) (v : Word)
  /-- FLR (R356). -/
  | flr (f : Fin 33)
  /-- BAR2_ACCESS (R337). -/
  | bar2Access (f : Fin 33) (off : Word) (wr : Option (List Byte)) (len : Nat)
  /-- COURSE_COMMAND_START (R53). -/
  | courseCommandStart (t : TileRef)
  /-- STATIONARY_LOAD (R66). -/
  | stationaryLoad (t : TileRef)
  /-- SHADOW_EXCHANGE (R67). -/
  | shadowExchange (t : TileRef) (k : Fin 4)
  /-- VECTOR_ADMISSION (R55). -/
  | vectorAdmission (t : TileRef) (k : Fin 4) (upset : List (Nat × Word32))
  /-- COURSE_PROOF_SELF_TEST (R83). -/
  | courseProofSelfTest (t : TileRef) (pass : Bool)
  /-- COMMIT (R71). -/
  | commit (t : TileRef)
  /-- CONVERT (R108). -/
  | convert (t : TileRef) (k : Fin 4)
  /-- WFOLD (R116). -/
  | wfold (t : TileRef) (k : Fin 4)
  /-- WROUND (R117). -/
  | wround (t : TileRef) (k : Fin 4)
  /-- WCLEAR (R117). -/
  | wclear (t : TileRef) (k : Fin 4)
  /-- WELD_SPLIT_START (R113). -/
  | weldSplitStart (t : TileRef)
  /-- BANK_LOAD_START (R172). -/
  | bankLoadStart (t : TileRef)
  /-- SWAGE_PROGRAM_START (R122). -/
  | swageProgramStart (t : TileRef)
  /-- SWAGE_PROGRAM_COMPLETE (R143). -/
  | swageProgramComplete (t : TileRef)
  /-- THREAD_LAUNCH_START (R148). -/
  | threadLaunchStart (t : TileRef)
  /-- BLOCK_START (R149). -/
  | blockStart (t : TileRef)
  /-- CBAR_COMPLETE (R156). -/
  | cbarComplete (t : TileRef)
  /-- TASK_END (R173). -/
  | taskEnd (t : TileRef)
  /-- INT_REG_OP (R165). -/
  | intRegOp (a : Agent) (rd rs1 rs2 : BitVec 5) (fn : BitVec 11)
  /-- ADDI (R164). -/
  | addi (a : Agent) (op : ImmOp) (rd rs1 : BitVec 5) (imm : BitVec 16)
  /-- SHI (R165). -/
  | shi (a : Agent) (rd rs1 : BitVec 5) (imm : BitVec 16)
  /-- LUI (R164). -/
  | lui (a : Agent) (rd rs1 : BitVec 5) (imm : BitVec 16)
  /-- LD (R176). -/
  | ld (a : Agent) (rd rs1 : BitVec 5) (size : BitVec 3) (space : BitVec 2) (off : BitVec 11)
  /-- ST (R176). -/
  | st (a : Agent) (rd rs1 : BitVec 5) (size : BitVec 3) (space : BitVec 2) (off : BitVec 11)
  /-- FLD (R176). -/
  | fld (a : Agent) (rd rs1 : BitVec 5) (size : BitVec 3) (space : BitVec 2) (off : BitVec 11)
  /-- FST (R176). -/
  | fst (a : Agent) (rd rs1 : BitVec 5) (size : BitVec 3) (space : BitVec 2) (off : BitVec 11)
  /-- AMO (R167). -/
  | amo (a : Agent) (rd rs1 rs2 : BitVec 5) (fn : BitVec 11)
  /-- BRANCH (R164). -/
  | branch (a : Agent) (op : BrOp) (rs1 rs2 : BitVec 5) (off : BitVec 16)
  /-- JL (R164). -/
  | jl (a : Agent) (rd : BitVec 5) (off : BitVec 21)
  /-- JLR (R164). -/
  | jlr (a : Agent) (rd rs1 : BitVec 5) (imm : BitVec 16)
  /-- FOP (R166). -/
  | fop (a : Agent) (rd rs1 rs2 : BitVec 5) (fn : BitVec 11)
  /-- FMA (R166). -/
  | fma (a : Agent) (rd rs1 rs2 rs3 : BitVec 5) (fn : BitVec 6)
  /-- FENCE_INSTR (R182). -/
  | fenceInstr (a : Agent) (rd rs1 : BitVec 5) (imm : BitVec 16)
  /-- SRR (R178). -/
  | srr (a : Agent) (rd rs1 : BitVec 5) (reg : BitVec 12)
  /-- SRW (R178). -/
  | srw (a : Agent) (rd rs1 : BitVec 5) (reg : BitVec 12)
  /-- SRS (R178). -/
  | srs (a : Agent) (rd rs1 : BitVec 5) (reg : BitVec 12)
  /-- SRC (R178). -/
  | srcOp (a : Agent) (rd rs1 : BitVec 5) (reg : BitVec 12)
  /-- TCALL (R333). -/
  | tcall (a : Agent) (rd rs1 : BitVec 5) (reg : BitVec 12)
  /-- TRET (R179). -/
  | tret (a : Agent) (rd rs1 : BitVec 5) (reg : BitVec 12)
  /-- WFI (R180). -/
  | wfi (a : Agent) (rd rs1 : BitVec 5) (reg : BitVec 12)
  /-- BREAK (R179). -/
  | break (a : Agent) (rd rs1 : BitVec 5) (reg : BitVec 12)
  /-- INTERRUPT (R179). -/
  | interrupt (core : Fin 128)
  /-- TIMER (R180). -/
  | timer (core : Fin 128)
  /-- CLEAN (R184). -/
  | clean (a : Agent) (rd rs1 rs2 : BitVec 5)
  /-- CLEANINV (R184). -/
  | cleaninv (a : Agent) (rd rs1 rs2 : BitVec 5)
  /-- INV (R186). -/
  | invLine (a : Agent) (rd rs1 rs2 : BitVec 5)
  /-- CMOR (R184). -/
  | cmor (a : Agent) (rd rs1 : BitVec 5) (imm : BitVec 42)
  /-- RDTIME (R180). -/
  | rdtime (a : Agent) (rd rs1 rs2 : BitVec 5)
  /-- RDSTROKE (R180). -/
  | rdstroke (a : Agent) (rd rs1 rs2 : BitVec 5)
  /-- VECTOR_OP (R181). -/
  | vectorOp (a : Agent) (vd vs1 vs2 : BitVec 5) (msk : BitVec 3) (z : Bool) (vf : BitVec 2) (vop : BitVec 5)
  /-- VLD (R181). -/
  | vld (a : Agent) (vd rs1 : BitVec 5) (msk : BitVec 3) (z rsv : Bool) (off : BitVec 11)
  /-- VST (R181). -/
  | vst (a : Agent) (vd rs1 : BitVec 5) (msk : BitVec 3) (z rsv : Bool) (off : BitVec 11)
  /-- VLDS (R168). -/
  | vlds (a : Agent) (rd rs1 : BitVec 5) (imm : BitVec 42)
  /-- VSTS (R168). -/
  | vsts (a : Agent) (rd rs1 : BitVec 5) (imm : BitVec 42)
  /-- LI (R168). -/
  | li (a : Agent) (rd rs1 : BitVec 5) (imm : BitVec 42)
  /-- LIH (R168). -/
  | lih (a : Agent) (rd rs1 : BitVec 5) (imm : BitVec 42)
  /-- ADDIL (R168). -/
  | addil (a : Agent) (op : LongOp) (rd rs1 : BitVec 5) (imm : BitVec 42)
  /-- JLL (R168). -/
  | jll (a : Agent) (rd rs1 : BitVec 5) (imm : BitVec 42)
  /-- CISSUE (R169). -/
  | cissue (a : Agent) (rd rs1 rs2 : BitVec 5)
  /-- CVT (R169). -/
  | cvt (a : Agent) (rd rs1 rs2 : BitVec 5)
  /-- WSPLIT (R169). -/
  | wsplit (a : Agent) (rd rs1 rs2 : BitVec 5)
  /-- BLD (R169). -/
  | bld (a : Agent) (rd rs1 rs2 : BitVec 5)
  /-- SWG (R170). -/
  | swg (a : Agent) (rd rs1 rs2 : BitVec 5)
  /-- SSEED (R94). -/
  | sseed (a : Agent) (rd rs1 rs2 : BitVec 5)
  /-- TLAUNCH (R169). -/
  | tlaunch (a : Agent) (rd rs1 rs2 : BitVec 5)
  /-- WAIT_INSTR (R171). -/
  | waitInstr (a : Agent) (rd rs1 rs2 : BitVec 5)
  /-- VRD (R162). -/
  | vrd (a : Agent) (rd rs1 rs2 : BitVec 5)
  /-- VWR (R162). -/
  | vwr (a : Agent) (rd rs1 rs2 : BitVec 5)
  /-- KEND (R173). -/
  | kend (a : Agent) (rd rs1 rs2 : BitVec 5)
  /-- MPUSH (R153). -/
  | mpush (a : Agent) (rd rs1 : BitVec 5) (imm : BitVec 16)
  /-- MAND (R152). -/
  | mand (a : Agent) (rd rs1 rs2 : BitVec 5)
  /-- MELSE (R152). -/
  | melse (a : Agent) (rd rs1 rs2 : BitVec 5)
  /-- MPOP (R152). -/
  | mpop (a : Agent) (rd rs1 rs2 : BitVec 5)
  /-- MLAND (R174). -/
  | mland (a : Agent) (op : MaskOp) (rd rs1 rs2 : BitVec 5)
  /-- MCEQ (R174). -/
  | mceq (a : Agent) (op : IntCmp) (rd rs1 rs2 : BitVec 5)
  /-- MFEQ (R174). -/
  | mfeq (a : Agent) (op : FloatCmp) (dbl : Bool) (rd rs1 rs2 : BitVec 5)
  /-- MRD (R162). -/
  | mrd (a : Agent) (rd rs1 rs2 : BitVec 5)
  /-- MWR (R162). -/
  | mwr (a : Agent) (rd rs1 rs2 : BitVec 5)
  /-- MBR (R175). -/
  | mbr (a : Agent) (cond : BitVec 2) (mc : BitVec 3) (zero : BitVec 5) (off : BitVec 16)
  /-- CBAR (R156). -/
  | cbar (a : Agent) (rd rs1 rs2 : BitVec 5)
  /-- GEND (R177). -/
  | gend (a : Agent) (rd rs1 rs2 : BitVec 5)
  /-- SCRUB (R234): the 64-byte block is named by its local address / 64. -/
  | scrub (deep : Bool) (site : Fin 40) (block : Nat) (r : ScrubResult)
  /-- CREDITED_WRITE_REQUEST (R202). -/
  | creditedWriteRequest (c : CmdRef)
  /-- CREDIT_GRANT (R202). -/
  | creditGrant (w : WinRef)
  /-- INGRESS_CREDIT_GRANT (R198). -/
  | ingressCreditGrant (rcv : Nat) (snd : Nat) (blocks : Nat)
  /-- ROW_LANDS (R203). -/
  | rowLands (w : WinRef)
  /-- CREDIT_CFG_WRITE (R201). -/
  | creditCfgWrite (w : WinRef) (v : Word)
  /-- CREDIT_RELEASE (R203). -/
  | creditRelease (w : WinRef) (v : Word)
  /-- HEARTH_FLUSH (R212). -/
  | hearthFlush
  /-- HEARTH_FLUSH_DONE (R212). -/
  | hearthFlushDone
  /-- PRED_CLR (R228). -/
  | predClr
  /-- XLAT_INVALIDATE (R244). -/
  | xlatInvalidate (n : Fin 32) (v : Word)
  /-- XLAT_INVALIDATE_DONE (R244). -/
  | xlatInvalidateDone (n : Fin 32)
  /-- ROW_DELIVERED (R249). -/
  | rowDelivered (c : CmdRef)
  /-- PARK_TIMEOUT (R253). -/
  | parkTimeout (c : CmdRef)
  /-- PAGE_MOVE (R259). -/
  | pageMove (n : Fin 32) (va : Word) (frame : Word)
  /-- PLACEMENT (R265). -/
  | placement (c : CmdRef)
  /-- DISPATCH_ARRIVAL (R288). -/
  | dispatchArrival (t : TileRef)
  /-- ARBITER_GRANT (R295). -/
  | arbiterGrant (t : TileRef)
  /-- RE_RESOLVE (R289). -/
  | reResolve
  /-- ROLE_CHANGE (R288). -/
  | roleChange (p : Fin 72) (role : BitVec 3)
  /-- REBALANCE (R287). -/
  | rebalance (n : Fin 32)
  /-- HEAT_DECAY (R284). -/
  | heatDecay
  /-- BILLET_MOVE (R285). -/
  | billetMove (n : Fin 32) (billet : Nat) (level : Fin 4)
  /-- NODE_START (R279). -/
  | nodeStart (n : Fin 32) (node : Nat)
  /-- SPAN (R281). -/
  | span (n : Fin 32) (node item span : Nat)
  /-- NODE_COMPLETE (R280). -/
  | nodeComplete (n : Fin 32) (node : Nat)
  /-- TNG_REQ_ROLE (R264). -/
  | tngReqRole (v : Word)
  /-- TNG_REQ_BRICK_PSTATE (R293). -/
  | tngReqBrickPstate (v : Word)
  /-- TNG_REQ_REGION_PSTATE (R293). -/
  | tngReqRegionPstate (v : Word)
  /-- TNG_CONFIG_WRITE (R272). -/
  | tngConfigWrite (n : Fin 32) (word : Fin 7) (v : Word)
  /-- BANKING (R291). -/
  | banking (d : PDom)
  /-- BANKED (R291). -/
  | banked (d : PDom)
  /-- COLD (R291). -/
  | coldDom (d : PDom)
  /-- WAKE (R292). -/
  | wake (d : PDom)
  /-- WITHDRAWAL_EVENT (R478). -/
  | withdrawalEvent (u : HwUnit)
  /-- SITE_WITHDRAWAL (R331). -/
  | siteWithdrawal (deep : Bool) (site : Fin 40)
  /-- IMG_PCTL_GO (R321). -/
  | imgPctlGo
  /-- PARTIAL_APPLY (R321). -/
  | partialApply
  /-- PARTIAL_IMAGE_DONE (R321). -/
  | partialImageDone
  /-- CAP_SET (R386). -/
  | capSet (h : BmpHdr) (cap : BitVec 8) (slope : BitVec 16)
  /-- CAP_GET (R412). -/
  | capGet (h : BmpHdr)
  /-- QUENCH (R399). -/
  | quench (h : BmpHdr)
  /-- RELEASE (R402). -/
  | release (h : BmpHdr)
  /-- TEL_SUB (R413). -/
  | telSub (h : BmpHdr) (ms : Nat) (dst : BitVec 144)
  /-- TELEMETRY (R413). -/
  | telemetry (sub : Nat)
  /-- SLOT_WRITE (R298). -/
  | slotWrite (h : BmpHdr) (slot : Slot) (off : Nat) (data : List Byte)
  /-- SLOT_READ (R296). -/
  | slotRead (h : BmpHdr) (slot : Slot) (off len : Nat)
  /-- BOOTSEL (R297). -/
  | bootsel (h : BmpHdr) (slot : Slot)
  /-- PARTIAL (R321). -/
  | partialMsg (h : BmpHdr) (off : Nat) (data : List Byte) (last : Bool)
  /-- FW_WRITE (R405). -/
  | fwWrite (h : BmpHdr) (off : Nat) (data : List Byte)
  /-- KEY_INSTALL (R304). -/
  | keyInstall (h : BmpHdr) (key : BitVec 256) (sig : List Byte)
  /-- SPDM (R412). -/
  | spdm (h : BmpHdr) (data : List Byte)
  /-- RESET (R414). -/
  | resetMsg (h : BmpHdr) (kind : ResetMsg)
  /-- LOOPBACK (R236). -/
  | loopback (h : BmpHdr) (deep : Bool) (site : Fin 40) (pass : Bool)
  /-- LOG_READ (R411). -/
  | logRead (h : BmpHdr) (idx count : Nat)
  /-- SHED_LEVEL_UPDATE (R407). -/
  | shedLevelUpdate (load : Nat) (above95 below100 : Bool)
  /-- BELLOWS_LOAD_WRITE (R483). -/
  | bellowsLoadWrite (v : Word)
  /-- WATCHDOG_EXPIRY (R408). -/
  | watchdogExpiry
  /-- TEMPERATURE_SAMPLE (R396). -/
  | temperatureSample (r : List (Sensor × Int))
  /-- GOVERNOR_SAMPLE (R387). -/
  | governorSample (watts : Nat)
  /-- GOVERNOR_RAISE (R387). -/
  | governorRaise (watts : Nat)
  /-- DWELL_PERIOD (R389). -/
  | dwellPeriod (dom : Nat)
  /-- HEADROOM_GRANT (R393). -/
  | headroomGrant (unit watts : Nat)
  /-- COOLANT_OK_DEASSERTED (R399). -/
  | coolantOkDeasserted
  /-- COOLANT_OK_ASSERTED (R416). -/
  | coolantOkAsserted
  /-- QUENCH_HOLD_EXPIRY (R402). -/
  | quenchHoldExpiry
  /-- CONVERTER_FAILURE (R30). -/
  | converterFailure (i : Fin 16)
  /-- REGULATOR_FAILURE (R31). -/
  | regulatorFailure (d : RegDom)
  /-- REFERENCE_LOSS (R42). -/
  | referenceLoss
  /-- INPUT_OUT_OF_RANGE (R433). -/
  | inputOutOfRange (mv : Int) (us : Nat)
  /-- V_AON_LOSS (R489). -/
  | vAonLoss
  /-- PWR_GOOD_IN_ASSERTED (R416). -/
  | pwrGoodInAsserted
  /-- PWR_GOOD_IN_DEASSERTED (R416). -/
  | pwrGoodInDeasserted
  /-- PKG_RESET_N (R416). -/
  | pkgResetN (us : Nat) (released : Bool)
  /-- PERST_N (R354). -/
  | perstN
  /-- HOT_RESET (R354). -/
  | hotReset
  /-- LINK_SAMPLE (R354). -/
  | linkSample (up : Bool)
  /-- COLD_START (R415). -/
  | coldStart
  /-- SELF_TEST_COMPLETE (R418). -/
  | selfTestComplete (f : List TestFail)
  /-- MEMORY_TRAINING_COMPLETE (R421). -/
  | memoryTrainingComplete (f : List (Bool × Nat))
  /-- FABRIC_TRAINING_END (R422). -/
  | fabricTrainingEnd (lanes : List LaneInfo) (peerTime : Option Nat)
  /-- PKG_RSTCTL_WARM (R424). -/
  | pkgRstctlWarm
  /-- FLIT_RECEIVE (R363). -/
  | flitReceive (l : LinkRef) (flit : List Byte)
  /-- LINK_DOWN (R363). -/
  | linkDown (l : LinkRef)
  /-- LINK_RETRAIN (R364). -/
  | linkRetrain (l : LinkRef) (lanes : List LaneInfo)
  /-- READ (R368). -/
  | readPkt (p : Packet)
  /-- WRITE (R368). -/
  | writePkt (p : Packet)
  /-- RESP (R369). -/
  | respPkt (p : Packet)
  /-- CREDREQ (R368). -/
  | credreq (p : Packet)
  /-- CREDGNT (R368). -/
  | credgnt (p : Packet)
  /-- BAR_ARRIVE (R376). -/
  | barArrive (p : Packet)
  /-- BAR_RELEASE (R373). -/
  | barRelease (p : Packet)
  /-- BCAST (R374). -/
  | bcast (p : Packet)
  /-- TIME (R370). -/
  | timePkt (p : Packet)
  /-- DEPART (R381). -/
  | depart (p : Packet)
  /-- DEPARTURE_TIMEOUT (R380). -/
  | departureTimeout (pkg : BitVec 16)
  /-- JOBRESET (R378). -/
  | jobreset (p : Packet)
  /-- ROUTE (R366). -/
  | route (p : Packet)
  /-- FAB_JOBRST (R378). -/
  | fabJobrst (v : Word)
  /-- DBG_FRCFG_WRITE (R469). -/
  | dbgFrcfgWrite (n : Fin 32) (v : Word)
  /-- DBG_TRCTL_WRITE (R462). -/
  | dbgTrctlWrite (n : Fin 32) (v : Word)
  /-- DBG_HGCTL_GO (R468). -/
  | dbgHgctlGo (n : Fin 32)
  /-- HANG_AUTO_CAPTURE (R468). -/
  | hangAutoCapture (n : Fin 32)
  /-- CAPTURE_COMPLETE (R468). -/
  | captureComplete (n : Fin 32)
  /-- REGISTER_ACCESS_ERROR (R13). -/
  | registerAccessError (view : View) (off : BitVec 26) (write : Bool) (len : Nat)
  /-- REGISTER_WRITE (R14). -/
  | registerWrite (view : View) (off : BitVec 26) (half : Option Bool) (v : Word)
  /-- INPUT_ENTERS_RANGE (R489). -/
  | inputEntersRange
  /-- PERST_N_RELEASED (R423). -/
  | perstNReleased
  /-- TAP_INSTRUCTION (R470). -/
  | tapInstruction (code : Byte)
  /-- AMO_PACKET (R368). -/
  | amoPacket (p : Packet)
  /-- LANE_FAILURE (R359). -/
  | laneFailure (port : Fin 36) (lane : Fin 8)
  /-- SHARE_RECOMPUTE (R329). -/
  | shareRecompute
  /-- BELLOWS_FAILED_TIMEOUT (R408). -/
  | bellowsFailedTimeout
  /-- ITR_EXPIRY (R350). -/
  | itrExpiry (q : QRef)
  /-- VF_BAR2_SIZE_WRITE (R337). -/
  | vfBar2SizeWrite (log : Nat) (mse : Bool)
deriving DecidableEq, Repr

end Sys2Proof
end

