-- ==== Sys2Proof/Decode.lean ====
section
/-! DEFINITION. Decode.lean: commands from words. No row of the opcode table gives bits, so no word spells a command. -/

namespace Sys2Proof

/-- The command that a word of nbits bits spells by the opcode table: none, since its rows give no bits. -/
def decodeTableWord (_nbits _w : Nat) : Option Instr := none

end Sys2Proof
end

