-- ==== Sys2Proof/Config.lean ====
section
/-! DEFINITION. Config.lean: what an implementation fixes and the manual does not, and the free values. Every constant has no body, so a claim holds whatever it is. -/

namespace Sys2Proof.Config

/-- A fresh open value: the state's counter `freeIdx` is its argument and advances at each use (log 2). -/
opaque free : Nat → BitVec 64

/-- What a byte of a DRAM line reads as under a key it was not written under: noise (R239, log 3).
Arguments: the key's generation number, the local address. -/
opaque noise : Nat → Nat → BitVec 8

/-- PCI Vendor ID of PKG_ID (Table 16.3: the manual fixes no value, log 4). -/
opaque vendorId : BitVec 16
/-- Silicon major and minor revision of PKG_ID (Table 16.3, log 4). -/
opaque revision : BitVec 8
/-- Fused serial number (Table 16.2, log 4). -/
opaque serial : BitVec 64
/-- Factory EUI-48 address (Table 16.2, R409, log 4). -/
opaque eui48 : BitVec 48
/-- Boot ROM version (Table 16.4, log 4). -/
opaque romVersion : BitVec 16

/-- Whether an Ed25519 signature verifies: key, message, signature (R303: RFC 8032, log 5). -/
opaque ed25519Verifies : BitVec 256 → List (BitVec 8) → List (BitVec 8) → Bool

/-- Whether a firmware copy verifies under the fused Dalkual key, from its bytes (R405, log 5). -/
opaque firmwareVerifies : List (Nat × BitVec 8) → Bool

/-- The version a firmware copy's bytes carry (Table 16.4, log 4). -/
opaque firmwareVersion : List (Nat × BitVec 8) → BitVec 32

/-- A byte of the factory slot that Tables 9.2 and 9.19 leave open (log 6). -/
opaque factoryByte : Nat → BitVec 8

/-- IMGSEQ of the factory image (Table 9.19 gives none, log 6). -/
opaque factorySeq : BitVec 32
/-- TAG of the factory image (Table 9.19 gives none, log 6). -/
opaque factoryTag : BitVec 128

/-- The response body to one DMTF SPDM message, from the session's number and the message (R412, log 7). -/
opaque spdmResponse : Nat → List (BitVec 8) → List (BitVec 8)

/-- Whether an SPDM message leaves an authenticated session (R412, log 7). -/
opaque spdmAuthenticates : Nat → List (BitVec 8) → Bool

/-- The link that carries a stream to a destination, from the STREAM number and the count of links (R367: "a hash of STREAM", log 8). -/
opaque streamHash : BitVec 16 → Nat → Nat

/-- Which line leaves a full Anvil cache, from the lines it holds (R222 and R224 name none, log 24). -/
opaque cacheVictim : List Nat → Nat
/-- Which line loses its entry in a full directory set, from the set's lines (R224 names none, log 24). -/
opaque directoryVictim : List Nat → Nat

/-- Whether tininess is detected after rounding: IEEE 754 leaves it to the implementation (R166, log 10). -/
opaque tininessAfter : Bool

/-- Whether the mask lanes of VLD and VST are 64-bit or 32-bit (R181 and Table 5.4 give no width, log 12). -/
opaque vldDouble : Bool
/-- Whether the lanes of VLDS and VSTS are 64-bit or 32-bit (Table 5.9 gives no width, log 12). -/
opaque vldsDouble : Bool

end Sys2Proof.Config
end

