-- ==== Sys2Proof/Machine/Bits.lean ====
section
/-! DEFINITION. Machine/Bits.lean: bit fields, sign extension, byte order and sparse tables. -/

namespace Sys2Proof.Machine

open Sys2Proof

/-- Bits hi:lo of a number (R12: bit 0 is the least significant bit of every field). -/
def fld (w : Nat) (hi lo : Nat) : Nat := (w >>> lo) % 2 ^ (hi + 1 - lo)

/-- Bits hi:lo of a word. -/
def wf (w : Word) (hi lo : Nat) : Nat := fld w.toNat hi lo

/-- Bit i of a word. -/
def wb (w : Word) (i : Nat) : Bool := w.toNat.testBit i

/-- A word built from (value, lowest bit) fields. -/
def pack (fs : List (Nat × Nat)) : Word :=
  BitVec.ofNat 64 (fs.foldl (fun a f => a + f.1 * 2 ^ f.2) 0)

/-- 1 or 0. -/
def b2n (b : Bool) : Nat := if b then 1 else 0

/-- A 64-bit word as the integer it means in two's complement. -/
def sx (bits : Nat) (n : Nat) : Int :=
  if (n % 2 ^ bits).testBit (bits - 1) then (n % 2 ^ bits : Nat) - (2 ^ bits : Nat) else (n % 2 ^ bits : Nat)

/-- A number's low `bits` bits, sign-extended to a word (R164). -/
def sxw (bits : Nat) (n : Nat) : Word := BitVec.ofInt 64 (sx bits n)

/-- The 64-bit word of an integer, modulo 2^64. -/
def wordOf (i : Int) : Word := BitVec.ofInt 64 i

/-- Little-endian value of a run of bytes (R12). -/
def leNat : List Byte → Nat
  | [] => 0
  | b :: bs => b.toNat + 256 * leNat bs

/-- The k low bytes of a number, least significant first (R12). -/
def bytesOf : Nat → Nat → List Byte
  | 0, _ => []
  | k + 1, n => BitVec.ofNat 8 n :: bytesOf k (n / 256)

/-- ⌈a / b⌉. -/
def cdiv (a b : Nat) : Nat := (a + b - 1) / b

/-- Number of set bits of a number below bit n. -/
def popc : Nat → Nat → Nat
  | 0, _ => 0
  | n + 1, w => b2n (w.testBit n) + popc n w

/-- The number w with bit i set. -/
def setBit (w i : Nat) : Nat := if w.testBit i then w else w + 2 ^ i

/-- The number w with bit i clear. -/
def clrBit (w i : Nat) : Nat := if w.testBit i then w - 2 ^ i else w

/-- A counter that stops at its largest value (R384, R212). -/
def sat (bits n : Nat) : Nat := min n (2 ^ bits - 1)

/-- Entry k of a list, or d past its end. -/
def nthD {α : Type} (d : α) (l : List α) (k : Nat) : α := (l[k]?).getD d

/-- Entry k of a fixed row of n things, or d past its end. -/
def nthV {α : Type} {n : Nat} (d : α) (l : Vector α n) (k : Nat) : α := (l[k]?).getD d

/-- The row with entry k replaced; past its end nothing changes. -/
def setV {α : Type} {n : Nat} (l : Vector α n) (k : Nat) (v : α) : Vector α n := l.setIfInBounds k v

/-- The list with entry k replaced. -/
def setNth {α : Type} (l : List α) (k : Nat) (v : α) : List α := l.set k v
/-- Changes element k. -/
def updNth {α : Type} (l : List α) (k : Nat) (f : α → α) : List α := match l[k]? with | some v => l.set k (f v) | none => l

/-- What a table reads at k; d is what an unlisted key reads as. -/
def SMap.get {α : Type} (d : α) : SMap α → Nat → α
  | [], _ => d
  | (j, v) :: m, k => if j = k then v else SMap.get d m k

/-- The table without key k. -/
def SMap.del {α : Type} : SMap α → Nat → SMap α
  | [], _ => []
  | (j, v) :: m, k => if j = k then SMap.del m k else (j, v) :: SMap.del m k

/-- The table with (k, v) put in at its place among rising keys; k is not in it. -/
def SMap.ins {α : Type} : SMap α → Nat → α → SMap α
  | [], k, v => [(k, v)]
  | (j, w) :: m, k, v => if k < j then (k, v) :: (j, w) :: m else (j, w) :: SMap.ins m k v

/-- A write: the entry becomes v, and it is unlisted where v is what an unlisted key reads as. -/
def SMap.put {α : Type} [DecidableEq α] (d : α) (m : SMap α) (k : Nat) (v : α) : SMap α :=
  if v = d then SMap.del m k else SMap.ins (SMap.del m k) k v

/-- A read, a change and a write of one entry. -/
def SMap.upd {α : Type} [DecidableEq α] (d : α) (m : SMap α) (k : Nat) (f : α → α) : SMap α :=
  SMap.put d m k (f (SMap.get d m k))

/-- Every key of the table is above k. -/
def SMap.above {α : Type} (k : Nat) : SMap α → Prop
  | [] => True
  | (j, _) :: m => k < j ∧ SMap.above k m

/-- The canonical form: keys strictly rising, no entry equal to the default. -/
def SMap.wf {α : Type} (d : α) : SMap α → Prop
  | [] => True
  | (j, v) :: m => v ≠ d ∧ SMap.above j m ∧ SMap.wf d m

/-- The table with every entry whose key satisfies p taken out. -/
def SMap.drop {α : Type} (p : Nat → Bool) : SMap α → SMap α
  | [] => []
  | (j, v) :: m => if p j then SMap.drop p m else (j, v) :: SMap.drop p m

/-- n bytes of a byte table from address a. -/
def SMap.bytes (d : Byte) (m : SMap Byte) (a : Nat) : Nat → List Byte
  | 0 => []
  | n + 1 => SMap.get d m a :: SMap.bytes d m (a + 1) n

/-- A run of bytes written from address a. -/
def SMap.putBytes (d : Byte) (m : SMap Byte) (a : Nat) : List Byte → SMap Byte
  | [] => m
  | b :: bs => SMap.putBytes d (SMap.put d m a b) (a + 1) bs

/-- A bit field of width w at bit offset o of a bank of n bytes; addresses wrap modulo n (R60, R62). -/
def SMap.bits (m : SMap Byte) (n o w : Nat) : Nat :=
  fld (leNat ((List.range ((o % 8 + w + 7) / 8)).map fun i => SMap.get 0 m ((o / 8 + i) % n))) (o % 8 + w - 1) (o % 8)

/-- Writes a bit field of width w at bit offset o, keeping the bits around it. -/
def SMap.putBits (m : SMap Byte) (n o w v : Nat) : SMap Byte :=
  (List.range ((o % 8 + w + 7) / 8)).foldl
    (fun m i =>
      let old := leNat ((List.range ((o % 8 + w + 7) / 8)).map fun j => SMap.get 0 m ((o / 8 + j) % n))
      let new := old - fld old (o % 8 + w - 1) (o % 8) * 2 ^ (o % 8) + (v % 2 ^ w) * 2 ^ (o % 8)
      SMap.put 0 m ((o / 8 + i) % n) (BitVec.ofNat 8 (new / 2 ^ (8 * i)))) m

/-- The index of the first entry of a list that satisfies p. -/
def firstIdx {α : Type} (p : α → Bool) : List α → Nat → Option Nat
  | [], _ => none
  | x :: xs, k => if p x then some k else firstIdx p xs (k + 1)

/-- Changes the first entry of a list that satisfies p. -/
def updFirst {α : Type} (p : α → Bool) (f : α → α) : List α → List α
  | [] => []
  | x :: xs => if p x then f x :: xs else x :: updFirst p f xs

end Sys2Proof.Machine
end

