-- ==== Sys2Proof/Machine/Num.lean ====
section
/-! DEFINITION. Machine/Num.lean: number formats, exact values, rounding and the conversions of chapter 3 (R18, R87–R95, R137). -/

namespace Sys2Proof.Machine

open Sys2Proof

/-- The number formats of Table 0.6. -/
inductive Fmt where
  | q4 | t4 | q8 | t8 | f8 | f16 | b16 | f19 | f32 | f64 | i32 | w64 | w64x
deriving DecidableEq, Repr

/-- R18: the 4-bit format codes; 0xD–0xF are reserved. -/
def Fmt.ofCode : Nat → Option Fmt
  | 0 => some .q4 | 1 => some .t4 | 2 => some .q8 | 3 => some .t8 | 4 => some .f8 | 5 => some .f16 | 6 => some .b16
  | 7 => some .f19 | 8 => some .f32 | 9 => some .f64 | 10 => some .i32 | 11 => some .w64 | 12 => some .w64x
  | _ => none

/-- Element width in bits (Table 3.1); a weld digit is 8 bits (Table 2.2). -/
def Fmt.width : Fmt → Nat
  | .q4 | .t4 => 4
  | .q8 | .t8 | .f8 | .w64 | .w64x => 8
  | .f16 | .b16 => 16
  | .f19 => 19
  | .f32 | .i32 => 32
  | .f64 => 64

def Fmt.isQ : Fmt → Bool | .q4 | .q8 => true | _ => false
def Fmt.isT : Fmt → Bool | .t4 | .t8 => true | _ => false
def Fmt.isWeld : Fmt → Bool | .w64 | .w64x => true | _ => false

/-- An exact value: NaN, an infinity, or (−1)^neg · m · 2^e with its IEEE sign of zero (R88, R89). -/
inductive FV where
  | nan
  | inf (neg : Bool)
  | fin (neg : Bool) (m : Nat) (e : Int)
deriving DecidableEq, Repr

/-- Table 3.2. -/
inductive RMode where
  | rz | rne | sr
deriving DecidableEq, Repr

/-- R90: code 3 is reserved. -/
def RMode.ofCode : Nat → Option RMode
  | 0 => some .rz | 1 => some .rne | 2 => some .sr | _ => none

namespace FV

def zero : FV := .fin false 0 0
def one : FV := .fin false 1 0
def ofInt (i : Int) : FV := .fin (decide (i < 0)) i.natAbs 0
def isNaN : FV → Bool | .nan => true | _ => false
def isInf : FV → Bool | .inf _ => true | _ => false
def isFin : FV → Bool | .fin _ _ _ => true | _ => false
def isZero : FV → Bool | .fin _ m _ => m == 0 | _ => false
def sign : FV → Bool | .nan => false | .inf s => s | .fin s _ _ => s
def neg : FV → FV | .nan => .nan | .inf s => .inf (!s) | .fin s m e => .fin (!s) m e
def abs : FV → FV | .nan => .nan | .inf _ => .inf false | .fin _ m e => .fin false m e
/-- Signed significand. -/
def sig (s : Bool) (m : Nat) : Int := if s then -(m : Int) else m

/-- Exact sum; an exact zero follows IEEE 754 for round to nearest even (R89). -/
def add : FV → FV → FV
  | .nan, _ => .nan
  | _, .nan => .nan
  | .inf s, .inf t => if s = t then .inf s else .nan
  | .inf s, .fin _ _ _ => .inf s
  | .fin _ _ _, .inf t => .inf t
  | .fin s m e, .fin t n f =>
    if m = 0 ∧ n = 0 then .fin (s && t) 0 0
    else
      let q := min e f
      let i : Int := sig s m * (2 : Int) ^ (e - q).toNat + sig t n * (2 : Int) ^ (f - q).toNat
      .fin (decide (i < 0)) i.natAbs q

def sub (a b : FV) : FV := add a b.neg

/-- Exact product, with IEEE 754 signs and specials (R74). -/
def mul : FV → FV → FV
  | .nan, _ => .nan
  | _, .nan => .nan
  | .inf s, .inf t => .inf (s != t)
  | .inf s, .fin t n _ => if n = 0 then .nan else .inf (s != t)
  | .fin s m _, .inf t => if m = 0 then .nan else .inf (s != t)
  | .fin s m e, .fin t n f => .fin (s != t) (m * n) (e + f)

/-- The value times 2^k. -/
def scale (k : Int) : FV → FV
  | .fin s m e => .fin s m (e + k)
  | v => v

/-- Order of two values that are not NaN, with −0 below +0 when `z` is set (Table 4.5). -/
def ltB (z : Bool) : FV → FV → Bool
  | .nan, _ => false
  | _, .nan => false
  | .inf s, .inf t => s && !t
  | .inf s, .fin _ _ _ => s
  | .fin _ _ _, .inf t => !t
  | .fin s m e, .fin t n f =>
    if m = 0 ∧ n = 0 then z && s && !t
    else
      let q := min e f
      decide (sig s m * (2 : Int) ^ (e - q).toNat < sig t n * (2 : Int) ^ (f - q).toNat)

def lt (a b : FV) : Bool := ltB false a b
def eq (a b : FV) : Bool := !a.isNaN && !b.isNaN && !lt a b && !lt b a
def le (a b : FV) : Bool := lt a b || eq a b

/-- MAX of Table 4.5: canonical NaN on a NaN operand, −0 below +0. -/
def max (a b : FV) : FV := if a.isNaN || b.isNaN then .nan else if ltB true a b then b else a
/-- MIN of Table 4.5. -/
def min' (a b : FV) : FV := if a.isNaN || b.isNaN then .nan else if ltB true b a then b else a

end FV

/-- R91 on a magnitude m · 2^e (a little more when `st`): the rounded integer r and its quantum q, r · 2^q.
`fb` is the fraction width and `qmin` the exponent of the smallest grid step; `draw` is the 32-bit draw. -/
def roundMag (fb : Nat) (qmin : Int) (mode : RMode) (draw : Nat) (m : Nat) (e : Int) (st : Bool) : Nat × Int :=
  let q := max (e + (Nat.log2 m : Nat) - (fb : Nat)) qmin
  if q ≤ e then (m * 2 ^ (e - q).toNat, q)
  else
    let d := (q - e).toNat
    let a := m / 2 ^ d
    let rem := m % 2 ^ d
    let up := match mode with
      | .rz => false
      | .rne => decide (2 * rem > 2 ^ d) || (decide (2 * rem = 2 ^ d) && (st || a % 2 == 1))
      | .sr => decide (draw < rem * 2 ^ 32 / 2 ^ d)
    let r := if up then a + 1 else a
    if r = 2 ^ (fb + 1) then (2 ^ fb, q + 1) else (r, q)

/-- A binary float format with infinities: exponent width, fraction width. -/
structure FF where
  eb : Nat
  fb : Nat
deriving DecidableEq, Repr

namespace FF
def f16 : FF := ⟨5, 10⟩
def b16 : FF := ⟨8, 7⟩
def f19 : FF := ⟨8, 10⟩
def f32 : FF := ⟨8, 23⟩
def f64 : FF := ⟨11, 52⟩
def bias (f : FF) : Nat := 2 ^ (f.eb - 1) - 1
/-- Exponent of the smallest subnormal. -/
def qmin (f : FF) : Int := 1 - (f.bias : Int) - (f.fb : Int)
def width (f : FF) : Nat := 1 + f.eb + f.fb

/-- Table 3.1: the value of a code (R88: subnormals exact). -/
def dec (f : FF) (c : Nat) : FV :=
  let s := c.testBit (f.eb + f.fb)
  let e := fld c (f.eb + f.fb - 1) f.fb
  let m := c % 2 ^ f.fb
  if e = 2 ^ f.eb - 1 then (if m = 0 then .inf s else .nan)
  else if e = 0 then .fin s m f.qmin
  else .fin s (2 ^ f.fb + m) ((e : Int) - f.bias - f.fb)

/-- R89: the canonical NaN. -/
def nanCode (f : FF) : Nat := (2 ^ f.eb - 1) * 2 ^ f.fb + 2 ^ (f.fb - 1)
def infCode (f : FF) (s : Bool) : Nat := b2n s * 2 ^ (f.eb + f.fb) + (2 ^ f.eb - 1) * 2 ^ f.fb
def maxCode (f : FF) (s : Bool) : Nat := b2n s * 2 ^ (f.eb + f.fb) + (2 ^ f.eb - 1) * 2 ^ f.fb - 1

/-- The value rounded into the format by R91; the magnitude at the overflow point becomes an infinity (Table 3.6). -/
def rnd (f : FF) (mode : RMode) (draw : Nat) (st : Bool) : FV → FV
  | .nan => .nan
  | .inf s => .inf s
  | .fin s m e =>
    if m = 0 ∧ st = false then .fin s 0 f.qmin
    else
      let r := roundMag f.fb f.qmin mode draw m e st
      if r.1 ≠ 0 ∧ r.2 + (Nat.log2 r.1 : Nat) > f.bias then
        (if mode = .rz then .fin s (2 ^ (f.fb + 1) - 1) ((f.bias : Int) - f.fb) else .inf s)
      else .fin s r.1 r.2

/-- The code of a value the format holds. -/
def enc (f : FF) : FV → Nat
  | .nan => f.nanCode
  | .inf s => f.infCode s
  | .fin s m e =>
    let sg := b2n s * 2 ^ (f.eb + f.fb)
    let q := e - (f.fb - Nat.log2 m : Nat)
    if m = 0 then sg
    else if q < f.qmin then sg + m * 2 ^ (e - f.qmin).toNat
    else if m * 2 ^ (f.fb - Nat.log2 m) < 2 ^ f.fb then sg + m * 2 ^ (e - f.qmin).toNat
    else sg + (q + f.fb + f.bias).toNat * 2 ^ f.fb + (m * 2 ^ (f.fb - Nat.log2 m) - 2 ^ f.fb)

/-- Rounds once and encodes. -/
def out (f : FF) (mode : RMode) (draw : Nat) (st : Bool) (v : FV) : Nat := f.enc (f.rnd mode draw st v)
end FF

/-- Round to nearest even into F32 (R56, R129). -/
def rne32 (v : FV) : FV := FF.f32.rnd .rne 0 false v
/-- Round to nearest even into F64. -/
def rne64 (v : FV) : FV := FF.f64.rnd .rne 0 false v

/-- R81: the check arithmetic: a 24-bit significand, nearest even, the exponent range of F64. -/
def ckRnd : FV → FV
  | .fin s m e =>
    if m = 0 then .fin s 0 0
    else
      let r := roundMag 23 (-1045) .rne 0 m e false
      if r.2 + (Nat.log2 r.1 : Nat) > 1023 then .inf s else .fin s r.1 r.2
  | v => v

/-- F8 and the E2M1 element: no infinity (Table 3.1). -/
structure SF where
  fb : Nat
  bias : Nat
  maxCode : Nat
  /-- The overflow point of R91. -/
  ovf : Nat
deriving DecidableEq, Repr

namespace SF
def f8 : SF := ⟨3, 7, 0x7E, 480⟩
def e2m1 : SF := ⟨1, 1, 0x7, 8⟩
def qmin (f : SF) : Int := 1 - (f.bias : Int) - (f.fb : Int)
/-- Rounds into the format: the code without its sign, and whether the magnitude reached the overflow point and saturated. -/
def round (f : SF) (mode : RMode) (draw : Nat) (m : Nat) (e : Int) : Nat × Bool :=
  if m = 0 then (0, false)
  else
    let r := roundMag f.fb f.qmin mode draw m e false
    let big := decide (r.1 * 2 ^ (r.2 + 16).toNat ≥ f.ovf * 2 ^ 16)
    if big then (f.maxCode, decide (mode ≠ .rz))
    else if r.1 < 2 ^ f.fb then (r.1, false)
    else ((r.2 + f.fb + f.bias).toNat * 2 ^ f.fb + (r.1 - 2 ^ f.fb), false)
end SF

/-- The nearest integer of a finite value by a mode (R91 on the integer grid). -/
def roundInt (mode : RMode) (draw : Nat) (s : Bool) (m : Nat) (e : Int) : Int :=
  if 0 ≤ e then FV.sig s (m * 2 ^ e.toNat)
  else
    let d := (-e).toNat
    let a := m / 2 ^ d
    let rem := m % 2 ^ d
    let up := match mode with
      | .rz => false
      | .rne => decide (2 * rem > 2 ^ d) || (decide (2 * rem = 2 ^ d) && a % 2 == 1)
      | .sr => decide (draw < rem * 2 ^ 32 / 2 ^ d)
    FV.sig s (if up then a + 1 else a)

/-- Table 3.6 for an integer format with bounds: NaN gives 0, beyond the bounds saturates. The flag says that it saturated a finite value. -/
def satInt (lo hi : Int) (mode : RMode) (draw : Nat) : FV → Int × Bool
  | .nan => (0, false)
  | .inf s => (if s then lo else hi, false)
  | .fin s m e =>
    let i := roundInt mode draw s m e
    if i < lo then (lo, decide (mode ≠ .rz)) else if hi < i then (hi, decide (mode ≠ .rz)) else (i, false)

def i32Lo : Int := -2147483648
def i32Hi : Int := 2147483647
/-- Any float to I32, toward zero, by the I32 column of Table 3.6 (R126, R71). -/
def toI32 (v : FV) : Int := (satInt i32Lo i32Hi .rz 0 v).1

/-- Table 3.1: the value of an element code before any scale. Escape codes of Q4 and Q8 give none here. -/
def Fmt.dec (f : Fmt) (c : Nat) : FV :=
  match f with
  | .q4 => FV.ofInt (sx 4 c)
  | .q8 | .w64 | .w64x => FV.ofInt (sx 8 c)
  | .t4 =>
    let s := c.testBit 3
    let e := fld c 2 1
    if e = 0 then .fin s (c % 2) (-1) else .fin s (2 + c % 2) ((e : Int) - 2)
  | .t8 | .f8 =>
    let s := c.testBit 7
    let e := fld c 6 3
    let m := c % 8
    if e = 15 ∧ m = 7 then .nan else if e = 0 then .fin s m (-9) else .fin s (8 + m) ((e : Int) - 10)
  | .f16 => FF.f16.dec c
  | .b16 => FF.b16.dec c
  | .f19 => FF.f19.dec c
  | .f32 => FF.f32.dec c
  | .f64 => FF.f64.dec c
  | .i32 => FV.ofInt (sx 32 c)

/-- The escape codes of R87. -/
def Fmt.isEscape (f : Fmt) (c : Nat) : Bool :=
  match f with
  | .q4 => c == 8
  | .q8 => c == 128
  | _ => false

/-- Bit pattern of an integer in w bits. -/
def intCode (w : Nat) (i : Int) : Nat := (BitVec.ofInt w i).toNat

/-- One rounding into an output format with Table 3.6: the code, and whether a finite value was resolved by the out-of-range row.
T formats are encoded block by block (R109). -/
def Fmt.conv (f : Fmt) (mode : RMode) (draw : Nat) (v : FV) : Nat × Bool :=
  let fl (g : FF) : Nat × Bool :=
    let r := g.rnd mode draw false v
    (g.enc r, v.isFin && r.isInf)
  match f with
  | .q4 => let r := satInt (-7) 7 mode draw v; (intCode 4 r.1, r.2)
  | .q8 => let r := satInt (-127) 127 mode draw v; (intCode 8 r.1, r.2)
  | .i32 => let r := satInt i32Lo i32Hi mode draw v; (intCode 32 r.1, r.2)
  | .f8 =>
    match v with
    | .nan => (0x7F, false)
    | .inf s => (0x7E + 128 * b2n s, false)
    | .fin s m e => let r := SF.f8.round mode draw m e; (r.1 + 128 * b2n s, r.2)
  | .f16 => fl FF.f16
  | .b16 => fl FF.b16
  | .f19 => fl FF.f19
  | .f32 => fl FF.f32
  | .f64 => fl FF.f64
  | _ => (0, false)

/-- R92: the constant of the stream derivation. -/
def streamStep : Word := 0x9E3779B97F4A7C15

/-- R92: the initial state of stream i of a seed. -/
def streamInit (seed : Word) (i : Nat) : Word :=
  let s := seed + BitVec.ofNat 64 (i + 1) * streamStep
  if s = 0 then 1 else s

/-- R92: one draw: the 32-bit value and the next state. -/
def draw (s : Word) : Nat × Word :=
  let a := s ^^^ (s <<< 13)
  let b := a ^^^ (a >>> 7)
  let c := b ^^^ (b <<< 17)
  ((c >>> 32).toNat % 2 ^ 32, c)

/-- A value that passes a rounding step takes exactly one draw in stochastic mode, whatever it is (R91). -/
def drawIf (mode : RMode) (s : Word) : Nat × Word := if mode = .sr then draw s else (0, s)

/-! ### Functions whose exact value is not a finite binary fraction (R129, R166) -/

/-- Exact quotient of two finite non-zero magnitudes, to at least 130 bits, and whether anything is left. -/
def divMag (m : Nat) (e : Int) (n : Nat) (f : Int) : Nat × Int × Bool :=
  let k := 130 + Nat.log2 n
  (m * 2 ^ k / n, e - f - k, decide (m * 2 ^ k % n ≠ 0))

/-- Integer square root by bits. -/
def isqrtGo (n : Nat) : Nat → Nat → Nat
  | 0, r => r
  | k + 1, r => let t := r + 2 ^ k; isqrtGo n k (if t * t ≤ n then t else r)

/-- Square root of a non-zero magnitude to at least 130 bits. -/
def sqrtMag (m : Nat) (e : Int) : Nat × Int × Bool :=
  let k := if (e % 2 : Int) = 0 then 280 else 281
  let n := m * 2 ^ k
  let r := isqrtGo n (Nat.log2 n / 2 + 1) 0
  (r, (e - (k : Nat)) / 2, decide (r * r ≠ n))

/-- A result of an inexact function: a value, and whether the exact magnitude lies a little above it. -/
abbrev FX := FV × Bool

/-- a / b (Table 4.5: x/±0 is an infinity, 0/0 and ∞/∞ NaN). -/
def fdiv : FV → FV → FX
  | .nan, _ => (.nan, false)
  | _, .nan => (.nan, false)
  | .inf _, .inf _ => (.nan, false)
  | .inf s, .fin t _ _ => (.inf (s != t), false)
  | .fin s _ _, .inf t => (.fin (s != t) 0 0, false)
  | .fin s m e, .fin t n f =>
    if n = 0 then (if m = 0 then (.nan, false) else (.inf (s != t), false))
    else if m = 0 then (.fin (s != t) 0 0, false)
    else let q := divMag m e n f; (.fin (s != t) q.1 q.2.1, q.2.2)

/-- √a (Table 4.5: √−0 is −0, a negative non-zero gives NaN). -/
def fsqrt : FV → FX
  | .nan => (.nan, false)
  | .inf s => if s then (.nan, false) else (.inf false, false)
  | .fin s m e =>
    if m = 0 then (.fin s 0 0, false)
    else if s then (.nan, false)
    else let q := sqrtMag m e; (.fin false q.1 q.2.1, q.2.2)

/-- 1/√a (Table 4.5: +∞ at +0, −∞ at −0). -/
def frsqrt : FV → FX
  | .nan => (.nan, false)
  | .inf s => if s then (.nan, false) else (.fin false 0 0, false)
  | .fin s m e =>
    if m = 0 then (.inf s, false)
    else if s then (.nan, false)
    else
      -- 1/√(m·2^e) = √(2^k/m) · 2^(…): the root of an exact quotient, with its remainder as the sticky part
      let k : Nat := 600 + 2 * Nat.log2 m + (if (e % 2 : Int) = 0 then 0 else 1)
      let n := 2 ^ k / m
      let r := isqrtGo n (Nat.log2 n / 2 + 1) 0
      (.fin false r ((-e - (k : Nat)) / 2), decide (r * r * m ≠ 2 ^ k))

/-- Fixed-point precision of the transcendental functions (log 9). -/
def fixP : Nat := 400

/-- ln 2 in fixed point: 2 · Σ (1/3)^(2k+1)/(2k+1). -/
def atanhGo (z zz : Int) : Nat → Nat → Int → Int → Int
  | 0, _, _, acc => acc
  | n + 1, k, t, acc => atanhGo z zz n (k + 1) (t * zz / 2 ^ fixP) (acc + t / (2 * k + 1))

/-- 2 · atanh z for a fixed-point z of magnitude at most 1/3. -/
def atanh2 (z : Int) : Int := 2 * atanhGo z (z * z / 2 ^ fixP) 140 0 z 0

def ln2Fix : Int := atanh2 ((2 : Int) ^ fixP / 3)

def expGo (r : Int) : Nat → Nat → Int → Int → Int
  | 0, _, _, acc => acc
  | n + 1, k, t, acc => let t' := t * r / 2 ^ fixP / (k + 1 : Nat); expGo r n (k + 1) t' (acc + t')

/-- e^r in fixed point for 0 ≤ r < ln 2. -/
def expFix (r : Int) : Int := expGo r 100 0 (2 ^ fixP) (2 ^ fixP)

/-- ⌊x · 2^fixP⌋ of a finite value. -/
def toFix (s : Bool) (m : Nat) (e : Int) : Int :=
  let k := e + (fixP : Nat)
  if 0 ≤ k then FV.sig s (m * 2 ^ k.toNat) else (FV.sig s m) / (2 : Int) ^ (-k).toNat

/-- Whether the magnitude is at least 2^12. -/
def isHuge (m : Nat) (e : Int) : Bool := decide (m ≠ 0) && decide (e + (Nat.log2 m : Nat) ≥ 12)

/-- e^x for an exact x (EXP and term of R135), to fixP bits; a magnitude below 2^-2000 stands for every smaller one. -/
def fexp : FV → FX
  | .nan => (.nan, false)
  | .inf s => if s then (.fin false 0 0, false) else (.inf false, false)
  | .fin s m e =>
    if m = 0 then (.fin false 1 0, false)
    else if isHuge m e then (if s then (.fin false 1 (-2000), true) else (.fin false 1 2000, false))
    else
      let x := toFix s m e
      let n := x / ln2Fix
      (.fin false (expFix (x - n * ln2Fix)).toNat (n - (fixP : Nat)), true)

/-- 2^x. -/
def fexp2 : FV → FX
  | .nan => (.nan, false)
  | .inf s => if s then (.fin false 0 0, false) else (.inf false, false)
  | .fin s m e =>
    if m = 0 then (.fin false 1 0, false)
    else if isHuge m e then (if s then (.fin false 1 (-2000), true) else (.fin false 1 2000, false))
    else
      let x := toFix s m e
      let n := x / (2 : Int) ^ fixP
      let r := x - n * (2 : Int) ^ fixP
      if r = 0 ∧ 0 ≤ e + (fixP : Nat) then (.fin false 1 n, false)
      else (.fin false (expFix (r * ln2Fix / 2 ^ fixP)).toNat (n - (fixP : Nat)), true)

/-- log₂ x (Table 4.5: −∞ at ±0, NaN below 0). -/
def flog2 : FV → FX
  | .nan => (.nan, false)
  | .inf s => if s then (.nan, false) else (.inf false, false)
  | .fin s m e =>
    if m = 0 then (.inf true, false)
    else if s then (.nan, false)
    else
      let k := Nat.log2 m
      if m = 2 ^ k then (FV.ofInt (e + k), false)
      else
        let t : Int := (m : Int) * 2 ^ fixP / 2 ^ k
        let one : Int := 2 ^ fixP
        let z := (t - one) * one / (t + one)
        let v := (e + k) * one + atanh2 z * one / ln2Fix
        (.fin (decide (v < 0)) v.natAbs (-(fixP : Int)), true)

/-- 1/(1 + e^−x) (Table 4.5). -/
def fsigm : FV → FX
  | .nan => (.nan, false)
  | .inf s => if s then (.fin false 0 0, false) else (.fin false 1 0, false)
  | .fin s m e =>
    if m = 0 then (.fin false 1 (-1), false)
    else if isHuge m e then (if s then (.fin false 1 (-2000), true) else (.fin false (2 ^ fixP - 1) (-(fixP : Int)), true))
    else
      let x := toFix s m e
      -- e^|x| = g · 2^n; the result is 1/(1 + e^−x)
      let ax := x.natAbs
      let n := (ax : Int) / ln2Fix
      let g := (expFix ((ax : Int) - n * ln2Fix)).toNat * 2 ^ n.toNat
      let one : Nat := 2 ^ fixP
      if s then (.fin false (one * 2 ^ 600 * one / (one + g)) (-(fixP + 600 : Int)), true)
      else (.fin false (g * 2 ^ 600 * one / (one + g)) (-(fixP + 600 : Int)), true)

/-- tanh x (Table 4.5). -/
def ftanh : FV → FX
  | .nan => (.nan, false)
  | .inf s => (.fin s 1 0, false)
  | .fin s m e =>
    if m = 0 then (.fin s 0 0, false)
    else if isHuge m e then (.fin s (2 ^ fixP - 1) (-(fixP : Int)), true)
    else
      let ax : Int := (toFix false m e) * 2
      if ax < 2 ^ 150 then (.fin s m e, false)
      else
        let n := ax / ln2Fix
        let g := (expFix (ax - n * ln2Fix)) * 2 ^ n.toNat
        let one : Int := 2 ^ fixP
        (.fin s ((g - one) * one / (g + one)).toNat (-(fixP : Int)), true)

/-- term(a, b) of the online softmax: +0 if a = −∞, 1 if a = b, else e^(a−b) of the exact difference rounded once to F32. -/
def term (a b : FV) : FV :=
  if a = .inf true then FV.zero
  else if FV.eq a b then FV.one
  else let r := fexp (FV.sub a b); FF.f32.rnd .rne 0 r.2 r.1

end Sys2Proof.Machine
end

