-- ==== Sys2Proof/Machine/Flags.lean ====
section
/-! DEFINITION. Machine/Flags.lean: the IEEE 754 exception flags that A-profile float operations raise (R166, ASR_FSR bits 4:0). -/

namespace Sys2Proof.Machine

open Sys2Proof

/-- ASR_FSR bits 4:0 from high to low: NV, DZ, OF, UF, NX (Table 5.14). -/
def flNV : Nat := 16
def flDZ : Nat := 8
def flOF : Nat := 4
def flUF : Nat := 2
def flNX : Nat := 1

/-- A signalling NaN: a NaN code whose top fraction bit is 0 (log 11). -/
def FF.isSNaN (f : FF) (c : Nat) : Bool := (f.dec c).isNaN && !c.testBit (f.fb - 1)

/-- Flags of rounding an exact result: overflow, underflow and inexact. -/
def FF.rndFlags (f : FF) (mode : RMode) (st : Bool) (v : FV) : Nat :=
  match v with
  | .fin _ m e =>
    if m = 0 then 0
    else
      let r := f.rnd mode 0 st v
      let inexact := st || !FV.eq r v
      let emin : Int := f.qmin + f.fb
      -- unbounded exponent range below, for tininess after rounding
      let wide := roundMag f.fb (f.qmin - 4096) mode 0 m e st
      let ended := match roundMag f.fb (f.qmin - 4096) mode 0 m e st with
        | (a, q) => decide (q + (Nat.log2 a : Nat) > f.bias)
      let tinyBefore := decide (e + (Nat.log2 m : Nat) < emin)
      let tinyAfter := decide (wide.2 + (Nat.log2 wide.1 : Nat) < emin)
      let tiny := if Config.tininessAfter then tinyAfter else tinyBefore
      (if ended then flOF + flNX else 0) ||| (if inexact && tiny && !ended then flUF else 0) ||| (if inexact then flNX else 0)
  | _ => 0

/-- Invalid operation: a NaN that no quiet NaN operand explains, or a signalling operand. -/
def invalid (anyNaN anySNaN : Bool) (result : FV) : Nat :=
  if anySNaN || (result.isNaN && !anyNaN) then flNV else 0

end Sys2Proof.Machine
end

