-- ==== Sys2Proof/Machine/Isa.lean ====
section
/-! DEFINITION. Machine/Isa.lean: what the scalar and vector instructions compute on register values, whatever agent runs them (chapter 05). -/

namespace Sys2Proof.Machine

open Sys2Proof

/-- The three profiles (Table 5.1). -/
inductive Prof where
  | a | s | l
deriving DecidableEq, Repr

/-- An instruction word from its fields: MAJ, 25:21, 20:16 and 15:0 (Table 5.3). -/
def insWord (maj rd rs1 low : Nat) : Nat := maj * 2 ^ 26 + rd * 2 ^ 21 + rs1 * 2 ^ 16 + low

/-- Low 16 bits of a REG-format word. -/
def regLow (rs2 fn : Nat) : Nat := rs2 * 2 ^ 11 + fn

/-! ### Integer operations (Table 5.5, R165) -/

def leadZeros (bits n : Nat) : Nat := if n = 0 then bits else bits - 1 - Nat.log2 n
def trailZeros : Nat → Nat → Nat
  | 0, _ => 0
  | k + 1, n => if n % 2 = 1 then 0 else 1 + trailZeros k (n / 2)

/-- An OP of Table 5.5 on operands of `bits` bits; the result before sign extension. None is reserved. -/
def intOp (bits op : Nat) (a b : Nat) : Option Int :=
  let ua := a % 2 ^ bits
  let ub := b % 2 ^ bits
  let sa := sx bits a
  let sb := sx bits b
  match op with
  | 0x00 => some (sa + sb)
  | 0x01 => some (sa - sb)
  | 0x02 => some (ua &&& ub : Nat)
  | 0x03 => some (ua ||| ub : Nat)
  | 0x04 => some (ua ^^^ ub : Nat)
  | 0x05 => some (if bits ≤ b then 0 else (ua * 2 ^ b : Nat))
  | 0x06 => some (if bits ≤ b then 0 else (ua / 2 ^ b : Nat))
  | 0x07 => some (if bits ≤ b then (if sa < 0 then -1 else 0) else sa / (2 : Int) ^ b)
  | 0x08 => some (if sa < sb then 1 else 0)
  | 0x09 => some (if ua < ub then 1 else 0)
  | 0x0A => some (sa * sb)
  | 0x0B => some (sa * sb / (2 : Int) ^ bits)
  | 0x0C => some (ua * ub / 2 ^ bits : Nat)
  | 0x0D => some (if sb = 0 then 0 else Int.tdiv sa sb)
  | 0x0E => some (if ub = 0 then 0 else (ua / ub : Nat))
  | 0x0F => some (if sb = 0 then sa else Int.tmod sa sb)
  | 0x10 => some (if ub = 0 then (ua : Int) else (ua % ub : Nat))
  | 0x11 => some (min sa sb)
  | 0x12 => some (max sa sb)
  | 0x13 => some (min ua ub : Nat)
  | 0x14 => some (max ua ub : Nat)
  | 0x15 => some (ua &&& (2 ^ bits - 1 - ub) : Nat)
  | 0x16 => some (leadZeros bits ua : Nat)
  | 0x17 => some (trailZeros bits ua : Nat)
  | 0x18 => some (popc bits ua : Nat)
  | _ => none

/-- MAJ 0x01: the shift amount is the whole of x[rs2] (R165); W = 1 works on bits 31:0 and sign-extends. None is illegal. -/
def intReg (fn rs2 : Nat) (a b : Word) : Option Word :=
  let w := fn.testBit 10
  let bits := if w then 32 else 64
  let op := fld fn 5 0
  if fld fn 9 6 ≠ 0 ∨ (0x16 ≤ op ∧ rs2 ≠ 0) then none
  else
    let bb := if w ∧ ¬(0x05 ≤ op ∧ op ≤ 0x07) then b.toNat % 2 ^ 32 else b.toNat
    (intOp bits op a.toNat bb).map fun i => sxw bits (i % (2 : Int) ^ bits).toNat

/-- ADDI, ANDI, ORI, XORI, SLTI (Table 5.4). -/
def immOp (op : ImmOp) (a : Word) (imm : BitVec 16) : Word :=
  let b := sxw 16 imm.toNat
  match op with
  | .addi => a + b
  | .andi => a &&& b
  | .ori => a ||| b
  | .xori => a ^^^ b
  | .slti => if a.toInt < b.toInt then 1 else 0

/-- SHI (Table 5.4); none is illegal. -/
def shiOp (a : Word) (imm : BitVec 16) : Option Word :=
  let i := imm.toNat
  if fld i 15 14 = 3 ∨ fld i 12 6 ≠ 0 then none
  else
    let bits := if i.testBit 13 then 32 else 64
    (intOp bits (0x05 + fld i 15 14) a.toNat (fld i 5 0)).map fun r => sxw bits (r % (2 : Int) ^ bits).toNat

/-- ADDIL, ANDIL, ORIL, XORIL (Table 5.9). -/
def longOp (op : LongOp) (a : Word) (imm : BitVec 42) : Word :=
  let b := sxw 42 imm.toNat
  match op with
  | .addil => a + b
  | .andil => a &&& b
  | .oril => a ||| b
  | .xoril => a ^^^ b

/-- LIH (Table 5.9); none is illegal. -/
def lihOp (a : Word) (imm : BitVec 42) : Option Word :=
  if fld imm.toNat 41 22 ≠ 0 then none
  else some (BitVec.ofNat 64 (fld imm.toNat 21 0 * 2 ^ 42 + a.toNat % 2 ^ 42))

def brTaken (op : BrOp) (a b : Word) : Bool :=
  match op with
  | .beq => a == b
  | .bne => a != b
  | .blt => decide (a.toInt < b.toInt)
  | .bge => decide (b.toInt ≤ a.toInt)
  | .bltu => decide (a.toNat < b.toNat)
  | .bgeu => decide (b.toNat ≤ a.toNat)

/-! ### Float operations (Table 5.6, R166) -/

/-- Rounding mode of an RM field; `dyn` is ASR_FSR[6:5]. None is reserved. -/
def rmOf (p : Prof) (dyn rm : Nat) : Option RMode :=
  match rm with
  | 0 => some .rz
  | 1 => some .rne
  | 3 => if p = .a then (if dyn = 0 then some .rz else some .rne) else none
  | _ => none

def fmtFF (dbl : Bool) : FF := if dbl then FF.f64 else FF.f32
/-- An operand register's bits in a format: an F32 operand is bits 31:0 (R162). -/
def fbits (dbl : Bool) (w : Word) : Nat := if dbl then w.toNat else w.toNat % 2 ^ 32

/-- Result of a float operation: to x or to f, and the flags. -/
structure FRes where
  toX : Bool
  val : Word
  flags : Nat
deriving DecidableEq, Repr

def fRes (f : FF) (mode : RMode) (nan snan : Bool) (extra : Nat) (r : FX) : FRes :=
  let v := r.1
  { toX := false, val := BitVec.ofNat 64 (f.out mode 0 r.2 v)
    flags := invalid nan snan v ||| (if nan then 0 else extra) ||| f.rndFlags mode r.2 v }

/-- Any finite value to a 64-bit signed integer, as the I32 column of Table 3.6 extended to 64 bits (R166). -/
def toI64 (mode : RMode) (v : FV) : Int × Bool := satInt (-(2 ^ 63)) (2 ^ 63 - 1) mode 0 v

/-- FCVT.X and conversions to an integer: value and flags. -/
def cvtInt (lo hi : Int) (mode : RMode) (v : FV) : Int × Nat :=
  match v with
  | .nan => (0, flNV)
  | .inf s => (if s then lo else hi, flNV)
  | .fin s m e =>
    let i := roundInt mode 0 s m e
    if i < lo then (lo, flNV) else if hi < i then (hi, flNV)
    else (i, if FV.eq (FV.ofInt i) v then 0 else flNX)

/-- FOP; xa is x[rs1]. None is illegal (R161). -/
def fop (p : Prof) (dyn fn rs2 : Nat) (fa fb xa : Word) : Option FRes := do
  let op := fld fn 10 5
  let dbl := fn.testBit 4
  let mode ← rmOf p dyn (fld fn 3 2)
  guard (fld fn 1 0 = 0 ∧ op ≤ 0x10)
  guard (¬(op = 0x04 ∨ op = 0x07 ∨ op = 0x08 ∨ 0x0C ≤ op) ∨ rs2 = 0)
  let f := fmtFF dbl
  let ca := fbits dbl fa
  let cb := fbits dbl fb
  let a := f.dec ca
  let b := f.dec cb
  let nan2 := a.isNaN || b.isNaN
  let sn1 := f.isSNaN ca
  let sn2 := sn1 || f.isSNaN cb
  let cmp (r : Bool) (quiet : Bool) : FRes :=
    { toX := true, val := BitVec.ofNat 64 (b2n r), flags := if sn2 || (nan2 && !quiet) then flNV else 0 }
  let bits (v : FV) (fl : Nat) : FRes := { toX := false, val := BitVec.ofNat 64 (f.enc v), flags := fl }
  match op with
  | 0x00 => some (fRes f mode nan2 sn2 0 (FV.add a b, false))
  | 0x01 => some (fRes f mode nan2 sn2 0 (FV.sub a b, false))
  | 0x02 => some (fRes f mode nan2 sn2 0 (FV.mul a b, false))
  | 0x03 => some (fRes f mode nan2 sn2 (if b.isZero && a.isFin && !a.isZero then flDZ else 0) (fdiv a b))
  | 0x04 => some (fRes f mode a.isNaN sn1 0 (fsqrt a))
  | 0x05 => some (bits (FV.min' a b) (if sn2 then flNV else 0))
  | 0x06 => some (bits (FV.max a b) (if sn2 then flNV else 0))
  | 0x07 => some (bits a.abs 0)
  | 0x08 => some (bits a.neg 0)
  | 0x09 => some (cmp (FV.eq a b) true)
  | 0x0A => some (cmp (FV.lt a b) false)
  | 0x0B => some (cmp (FV.le a b) false)
  | 0x0C => some (fRes (fmtFF (!dbl)) mode a.isNaN sn1 0 (a, false))
  | 0x0D => let r := cvtInt (-(2 ^ 63)) (2 ^ 63 - 1) mode a; some { toX := true, val := wordOf r.1, flags := r.2 }
  | 0x0E => some (fRes f mode false false 0 (FV.ofInt xa.toInt, false))
  | 0x0F => some { toX := true, val := BitVec.ofNat 64 ca, flags := 0 }
  | _ => some { toX := false, val := BitVec.ofNat 64 (fbits dbl xa), flags := 0 }

/-- The register fields of an FOP that name x registers: (rd, rs1). -/
def fopX (op : Nat) : Bool × Bool :=
  (decide ((0x09 ≤ op ∧ op ≤ 0x0B) ∨ op = 0x0D ∨ op = 0x0F), decide (op = 0x0E ∨ op = 0x10))

/-- ±a·b ± c with one rounding. -/
def fmaRes (f : FF) (mode : RMode) (negp negc : Bool) (ca cb cc : Nat) : FRes :=
  let a := f.dec ca
  let b := f.dec cb
  let c := f.dec cc
  let p := if negp then (FV.mul a b).neg else FV.mul a b
  let c' := if negc then c.neg else c
  fRes f mode (a.isNaN || b.isNaN || (c.isNaN && !p.isNaN)) (f.isSNaN ca || f.isSNaN cb || f.isSNaN cc) 0 (FV.add p c', false)

/-- FMA family; none is illegal. -/
def fmaOp (p : Prof) (dyn fn : Nat) (fa fb fc : Word) : Option FRes := do
  let dbl := fn.testBit 3
  let mode ← rmOf p dyn (fld fn 2 1)
  guard (fn.testBit 0 = false)
  let op := fld fn 5 4
  some (fmaRes (fmtFF dbl) mode (decide (2 ≤ op)) (decide (op % 2 = 1)) (fbits dbl fa) (fbits dbl fb) (fbits dbl fc))

/-! ### Atomics (Table 5.7, R167) -/

/-- The word an AMO stores: OP on the old value and x[rs2]; CAS compares with x[rd]. None is reserved. -/
def amoNew (op bits : Nat) (old src cmp : Nat) : Option Nat :=
  let o := old % 2 ^ bits
  let s := src % 2 ^ bits
  match op with
  | 0 => some s
  | 1 => some ((o + s) % 2 ^ bits)
  | 2 => some (o &&& s)
  | 3 => some (o ||| s)
  | 4 => some (o ^^^ s)
  | 5 => some (if sx bits o ≤ sx bits s then o else s)
  | 6 => some (if sx bits o ≤ sx bits s then s else o)
  | 7 => some (min o s)
  | 8 => some (max o s)
  | 9 => some (if o = cmp % 2 ^ bits then s else o)
  | _ => none

/-- Legality of an AMO function field (R161, R176). -/
def amoOk (p : Prof) (fn : Nat) : Bool :=
  decide (fld fn 10 7 ≤ 9 ∧ fld fn 3 2 ≠ 3 ∧ fn.testBit 0 = false) && (p ≠ .a || !fn.testBit 1)

/-! ### Masks (Table 5.10, R174, R175) -/

def maskOp (op : MaskOp) (a b : Word) : Word :=
  match op with
  | .mland => a &&& b
  | .mlor => a ||| b
  | .mlxor => a ^^^ b
  | .mlandn => a &&& ~~~b

def intCmp (op : IntCmp) (a b : Word) : Bool :=
  match op with
  | .mceq => a == b
  | .mcne => a != b
  | .mclt => decide (a.toInt < b.toInt)
  | .mcge => decide (b.toInt ≤ a.toInt)
  | .mcltu => decide (a.toNat < b.toNat)
  | .mcgeu => decide (b.toNat ≤ a.toNat)

def floatCmp (op : FloatCmp) (dbl : Bool) (a b : Word) : Bool :=
  let x := (fmtFF dbl).dec (fbits dbl a)
  let y := (fmtFF dbl).dec (fbits dbl b)
  match op with
  | .mfeq => FV.eq x y
  | .mflt => FV.lt x y
  | .mfle => FV.le x y
  | .mfun => x.isNaN || y.isNaN

/-! ### The vector unit (Table 5.16, R181) -/

/-- Bits of a lane and number of lanes of a VF format: 0 F64, 1 F32, 2 I64, 3 I32. -/
def vBits (vf : Nat) : Nat := if vf % 2 = 0 then 64 else 32
def vLanes (vf : Nat) : Nat := if vf % 2 = 0 then 8 else 16

def lane (vf : Nat) (v : BitVec 512) (i : Nat) : Nat := v.toNat / 2 ^ (vBits vf * i) % 2 ^ vBits vf
def ofLanes (vf : Nat) (ls : List Nat) : BitVec 512 :=
  BitVec.ofNat 512 (ls.foldr (fun x a => x % 2 ^ vBits vf + 2 ^ vBits vf * a) 0)

/-- A two-operand lane operation: value and flags. `vd` is the lane of the destination. None has no stated result. -/
def laneOp (vf vop : Nat) (mode : RMode) (a b d : Nat) : Option (Nat × Nat) :=
  let w := vBits vf
  if vf < 2 then
    let dbl := decide (vf = 0)
    let f := fmtFF dbl
    let m : Nat := if mode = .rz then 0 else 1
    let fo (op : Nat) (fa fb : Nat) : Option (Nat × Nat) :=
      (fop .a m (op * 32 + b2n dbl * 16 + m * 4) 0 (BitVec.ofNat 64 fa) (BitVec.ofNat 64 fb) 0).map fun r => (r.val.toNat, r.flags)
    match vop with
    | 0x00 => fo 0 a b
    | 0x01 => fo 1 a b
    | 0x02 => fo 2 a b
    | 0x03 => let r := fmaRes f mode false false a b d; some (r.val.toNat, r.flags)
    | 0x04 => let r := fmaRes f mode true false a b d; some (r.val.toNat, r.flags)
    | 0x05 => fo 3 a b
    | 0x06 => fo 4 a 0
    | 0x07 => fo 5 a b
    | 0x08 => fo 6 a b
    | 0x09 => fo 7 a 0
    | 0x0A => fo 8 a 0
    | 0x0C => fo 9 a b
    | 0x0D => fo 10 a b
    | 0x0E => fo 11 a b
    | _ => none
  else
    let i (op : Nat) : Option (Nat × Nat) := (intOp w op a b).map fun r => ((r % (2 : Int) ^ w).toNat, 0)
    let c (r : Bool) : Option (Nat × Nat) := some (b2n r, 0)
    let sa := sx w a
    let sb := sx w b
    match vop with
    | 0x00 => i 0
    | 0x01 => i 1
    | 0x02 => i 0x0A
    | 0x03 => some (((d + a * b) % 2 ^ w), 0)
    | 0x04 => some ((((d : Int) - a * b) % (2 : Int) ^ w).toNat, 0)
    | 0x05 => i 0x0D
    | 0x07 => i 0x11
    | 0x08 => i 0x12
    | 0x09 => some (((if sa < 0 then -sa else sa) % (2 : Int) ^ w).toNat, 0)
    | 0x0A => some (((-sa) % (2 : Int) ^ w).toNat, 0)
    | 0x0C => c (decide (sa = sb))
    | 0x0D => c (decide (sa < sb))
    | 0x0E => c (decide (sa ≤ sb))
    | 0x14 => i 2
    | 0x15 => i 3
    | 0x16 => i 4
    | 0x17 => i 5
    | _ => none

/-- VCVT of one lane from format `sf` to `vf`: value and flags. -/
def laneCvt (sf vf : Nat) (mode : RMode) (a : Nat) : Nat × Nat :=
  let v : FV := if sf < 2 then (fmtFF (sf == 0)).dec a else FV.ofInt (sx (vBits sf) a)
  if vf < 2 then
    let sn := sf < 2 && (fmtFF (sf == 0)).isSNaN a
    let r := fRes (fmtFF (vf == 0)) mode v.isNaN sn 0 (v, false)
    (r.val.toNat, r.flags)
  else
    let w := vBits vf
    let r := cvtInt (-(2 : Int) ^ (w - 1)) ((2 : Int) ^ (w - 1) - 1) mode v
    ((r.1 % (2 : Int) ^ w).toNat, r.2)

/-- Identity of a reduction over no lanes (R131), as a lane code. -/
def vIdent (vf kind : Nat) : Nat :=
  if vf < 2 then
    let f := fmtFF (vf == 0)
    match kind with | 0 => 0 | 1 => f.infCode true | _ => f.infCode false
  else
    let w := vBits vf
    match kind with | 0 => 0 | 1 => 2 ^ (w - 1) | _ => 2 ^ (w - 1) - 1

/-- The pairwise tree of R132 over lanes, with the flags of its steps. -/
def vTree (step : Nat → Nat → Nat × Nat) : Nat → List (Option Nat) → Nat → Option Nat × Nat
  | 0, l, fl => (l.headD none, fl)
  | n + 1, l, fl =>
    let r := (List.range (l.length / 2)).map fun i =>
      match l.getD (2 * i) none, l.getD (2 * i + 1) none with
      | none, y => (y, 0)
      | x, none => (x, 0)
      | some x, some y => let z := step x y; (some z.1, z.2)
    vTree step n (r.map (·.1)) (r.foldl (fun a x => a ||| x.2) fl)

/-- VREDADD, VREDMAX, VREDMIN (kinds 0, 1, 2) over the active lanes (R181). -/
def vReduce (vf kind : Nat) (mode : RMode) (ls : List (Option Nat)) : Nat × Nat :=
  let op := if kind = 0 then 0x00 else if kind = 1 then 0x08 else 0x07
  let step (a b : Nat) : Nat × Nat := (laneOp vf op mode a b 0).getD (0, 0)
  match vTree step (Nat.log2 (vLanes vf)) ls 0 with
  | (some v, fl) => (v, fl)
  | (none, fl) => (vIdent vf kind, fl)

end Sys2Proof.Machine
end

