-- ==== Sys2Proof/Machine/TileState.lean ====
section
/-! DEFINITION. Machine/TileState.lean: the state of one tile (R52): banks, registers, files, queues, engines and the Smith core. -/

namespace Sys2Proof.Machine

open Sys2Proof

/-- A stationary block as live or shadow registers hold it: converted elements W[k][n] at index 8k + n, T column scale bytes, and the proof-row sums P and M (R54, R69, R77). -/
structure Blk where
  /-- FMT_S of the loading command (R69). -/
  fmt : Fmt
  /-- Width class of the loading command (R59): 4, 8, 16, 32, or 0 for weld. -/
  cls : Nat
  w : List FV
  sw : List Nat
  p : List FV
  m : List FV
deriving DecidableEq, Repr

/-- R66; LOADING is inside the one load event, so a shadow is EMPTY or READY between events (log 22). -/
inductive Shadow where
  | empty
  | ready (tag : Bool) (b : Blk)
deriving DecidableEq, Repr

/-- One west edge at work on a pass (R55, R75, R78). -/
structure Edge where
  /-- Vectors admitted, proof vectors included. -/
  t : Nat
  /-- One of the two strokes of an F32 or proof vector has been admitted. -/
  half : Bool
  /-- Stroke counter and credit of R75. -/
  j : Nat
  credit : Nat
  /-- S[k] and A[k] of R78. -/
  s : List FV
  a : List FV
  /-- Y[n] of R78, and z[n] and a[n] once the proof vectors have come through. -/
  y : List FV
  z : List FV
  am : List FV
deriving DecidableEq, Repr

/-- A course command that has started and not completed (R53). -/
structure Pass where
  word : Word
  /-- Issue number. -/
  seq : Nat
  /-- Pass tag (R66). -/
  tag : Bool
  /-- Its block has been loaded into the shadows (R66); true at once for LOADSTAT = 0. -/
  loaded : Bool
  /-- Courses that have exchanged, one bit each (R67). -/
  exch : Nat
  /-- Attempts begun (R83). -/
  tries : Nat
  /-- Three attempts have failed, so the self-test decides (R83). -/
  stuck : Bool
  edges : List Edge
  /-- Loader and edge stream states at the start of the pass (R94). -/
  sav : List Word
  /-- Blocks the pass runs against, for a pass with LOADSTAT = 0 (R82). -/
  ran : List (Option Blk)
deriving DecidableEq, Repr

/-- One 32-bit accumulator row of eight values, with its type bit: F32 or I32 (R52, R71). -/
structure AccRow where
  isF : Bool
  v : List Word32
deriving DecidableEq, Repr

/-- One output of an assembler row (R116). -/
structure Asm where
  tot : FV
  nonfin : Bool
  trunc : Bool
  /-- Largest P_A + P_B of window pair (0, 0). -/
  usage : Nat
deriving DecidableEq, Repr

/-- A region of a bank that is held (R70): `strm` selects the streaming bank. -/
structure Hold where
  course : Nat
  strm : Bool
  off : Nat
  len : Nat
  /-- Issue number of the command that holds it. -/
  seq : Nat
  /-- Stationary hold: courses that still run against the block, one bit each. -/
  mask : Nat
  /-- Stationary hold: issue number of the later loading command, once every course has one. -/
  until_ : Option Nat
deriving DecidableEq, Repr

/-- One course's banks, registers and files (R52). -/
structure Course where
  stat : SMap Byte
  strm : SMap Byte
  live : Option Blk
  shadow : Shadow
  /-- Format, class and SBASE of the last load (R69, R82). -/
  ldr : Option (Fmt × Nat × Nat)
  tag : Bool
  staging : SMap (List Word32)
  acc : SMap AccRow
  asm : SMap Asm
  /-- Streams 3c, 3c + 1, 3c + 2: edge, loader, converter (R92). -/
  sEdge : Word
  sLoad : Word
  sConv : Word
deriving DecidableEq, Repr

/-- A queued course command: word, issue number, and the seed that SSEED put in force just before it (R94). -/
structure QCourse where
  word : Word
  seq : Nat
  seed : Option Word
deriving DecidableEq, Repr

/-- A queued converter command. -/
structure QConv where
  w0 : Word
  w1 : Word
  seq : Nat
  seed : Option Word
deriving DecidableEq, Repr

/-- A queued bank load or weld split (R169): the shared queue of two. -/
inductive QLoad where
  | bld (src desc : Word) (seq done : Nat)
  | split (a : Word) (seq : Nat)
deriving DecidableEq, Repr

/-- A queued or running Swage program, or a queued launch: block address, summary register, issue number. -/
structure QProg where
  a : Word
  rd : Nat
  seq : Nat
deriving DecidableEq, Repr

/-- The running Swage program, its sink written: the count word it will write and its summary (R141, R143). -/
structure SRun where
  prog : QProg
  count : Option (Nat × Nat)
  summary : Word
  /-- What it writes, for a stop in mid-run (R145): the sink's stream entry and element count, or FIXUP's output address, rows, pitch and columns. -/
  sink : Word
  n : Nat
  fix : Option (Nat × Nat × Nat × Nat)
deriving DecidableEq, Repr

/-- One lock-stepped group (R146, R149, R152). -/
structure Group where
  pc : Word
  /-- Index of the block and of the group within its block. -/
  blk : Nat
  idx : Nat
  wide : Bool
  /-- m0 to m7. -/
  m : Vector Word 8
  /-- Mask stack, top first: mask and reconvergence address. -/
  stack : List (Word × Word)
  /-- x and f registers, key 32 · thread + register. -/
  x : SMap Word
  f : SMap Word
  /-- Waiting at a cluster barrier (R156). -/
  bar : Bool
deriving DecidableEq, Repr

/-- The launch in progress (R148, R149). -/
structure Launch where
  pc : Word
  arg : Word
  nblk : Nat
  /-- Groups per block. -/
  bsz : Nat
  cl : Nat
  wide : Bool
  /-- Next block to start. -/
  next : Nat
  seq : Nat
deriving DecidableEq, Repr

/-- The task a tile runs (R267, R348). -/
structure Task where
  cmd : CmdRef
  /-- Owning partition. -/
  part : Nat
  /-- Rank of the task in its command (R265). -/
  rank : Nat
  /-- The step-graph node that the task belongs to, for a task of a STEP (R279). -/
  node : Option Nat
  /-- The command came through the PF (R151). -/
  viaPf : Bool
  /-- The restrike-safe mark of the command or of the node (R216, Table 8.9). -/
  rsafe : Bool
  /-- Tasks of its command or node, and the placement word that R289 resolves again. -/
  ntiles : Nat
  place : Word
  /-- Entry state (R173) and identifiers (R454). -/
  pc : Word
  arg : Word
  seed : Word
  layer : Nat
  oper : Nat
deriving DecidableEq, Repr

/-- Why a tile's part of a KERNEL command ended early: status of Table 0.9 and fault reason (R161, R163, R153). -/
structure TFin where
  status : Nat
  reason : Nat
  /-- Unit of the fault record and the address it names. -/
  unit : Nat
  addr : Word
  /-- Thread, instruction word and address of the instruction at fault (Table 15.2). -/
  thread : Nat
  insn : Nat
  pc : Word
deriving DecidableEq, Repr

/-- The tile (R52, Table 2.1). -/
structure Tile where
  task : Option Task
  /-- The task has been granted and runs (R295). -/
  fin : Option TFin
  /-- KEND has been reached (R173). -/
  kend : Bool
  seed : Word
  /-- Seed in force for the next command of the course queue and of each converter (R94). -/
  seedC : Option Word
  seedV : Vector (Option Word) 4
  /-- Next issue number. -/
  seq : Nat
  courses : Vector Course 4
  cq : List QCourse
  passes : List Pass
  holds : List Hold
  vq : Vector (List QConv) 4
  lq : List QLoad
  sq : List QProg
  srun : Option SRun
  tq : List QProg
  launch : Option Launch
  groups : Vector (Option Group) 8
  store : SMap Byte
  /-- Tile-store words with a parity error (R213), and their count is bounded by the store. -/
  bad : List Nat
  /-- v0 to v31, key 64 · register + slot (R125, R162). -/
  v : SMap Word32
  x : SMap Word
  f : SMap Word
  pc : Word
  weldBound : Bool
  /-- Passes struck again since the task began (R84). -/
  restruck : Nat
  /-- Events of Table 15.4 that the tile's units have counted and the counters have not taken yet. -/
  ev : SMap Nat
deriving DecidableEq, Repr

def AccRow.zero : AccRow := ⟨false, List.replicate 8 0⟩
def Asm.clear : Asm := ⟨FV.zero, false, false, 0⟩

def Course.clear : Course :=
  { stat := [], strm := [], live := none, shadow := .empty, ldr := none, tag := false, staging := [], acc := [],
    asm := [], sEdge := 0, sLoad := 0, sConv := 0 }

/-- A tile after its clear (R218): every store, bank, file and register zero. -/
def Tile.clear : Tile :=
  { task := none, fin := none, kend := false, seed := 0, seedC := none, seedV := .replicate 4 none, seq := 0,
    courses := .replicate 4 .clear, cq := [], passes := [], holds := [], vq := .replicate 4 [], lq := [],
    sq := [], srun := none, tq := [], launch := none, groups := .replicate 8 none, store := [], bad := [], v := [],
    x := [], f := [], pc := 0, weldBound := false, restruck := 0, ev := [] }

end Sys2Proof.Machine
end

