-- ==== Sys2Proof/Machine/Course.lean ====
section
/-! DEFINITION. Machine/Course.lean: the course arrays of a tile: commands, loads, admissions, checks, re-strikes and commits (chapter 02). -/

namespace Sys2Proof.Machine

open Sys2Proof

/-- Width class of an operand format (Table 2.2); weld is 0. None where the course does not accept the format (R58). -/
def Fmt.cls : Fmt → Option Nat
  | .q4 | .t4 => some 4
  | .q8 | .t8 | .f8 => some 8
  | .f16 | .b16 => some 16
  | .f32 => some 32
  | .w64 | .w64x => some 0
  | _ => none

/-- K per vector of a class (Table 2.2). -/
def clsK (c : Nat) : Nat := if c = 4 then 32 else if c = 8 ∨ c = 0 then 16 else 8
/-- Lanes of a class (Table 2.2). -/
def clsL (c : Nat) : Nat := if c = 4 then 4 else if c = 8 ∨ c = 0 then 2 else 1
/-- Vector bytes of a class (Table 2.2). -/
def clsV (c : Nat) : Nat := if c = 32 then 32 else 16

/-- The fields of a course command word (Table 2.3) with what R59 derives from them. -/
structure CCmd where
  fs : Fmt
  fa : Fmt
  bond : Nat
  cmask : Nat
  acc : Bool
  /-- Ramp in strokes: 0, 24, 40 or 64. -/
  ramp : Nat
  rnd : RMode
  load : Bool
  /-- T: vectors in the pass. -/
  len : Nat
  accbase : Nat
  /-- Byte bases. -/
  sbase : Nat
  abase : Nat
  cls : Nat
  /-- Both operands are integer: I32 accumulators (Table 2.2). -/
  isInt : Bool
deriving DecidableEq, Repr

/-- Decodes a course command word; none is UNIT_ABSENT (R58, R61, R90, R105, R487, R10). -/
def courseDecode (weld : Bool) (w : Word) : Option CCmd := do
  let fs ← Fmt.ofCode (wf w 63 60)
  let fa ← Fmt.ofCode (wf w 59 56)
  let cs ← fs.cls
  let ca ← fa.cls
  let rnd ← RMode.ofCode (wf w 45 44)
  let bond := wf w 55 53
  guard !((fs.isWeld || fa.isWeld) && (decide (fs ≠ fa) || !weld))
  guard (bond ≤ 3 ∧ wf w 42 41 = 0 ∧ wf w 6 0 = 0)
  guard !((fs.isT || fa.isT) && (bond == 1 || bond == 3))
  some
    { fs := fs, fa := fa, bond := bond, cmask := if bond = 0 then wf w 52 49 else 15, acc := wb w 48,
      ramp := [0, 24, 40, 64].getD (wf w 47 46) 0, rnd := rnd, load := wb w 43, len := wf w 40 32 + 1,
      accbase := wf w 31 23, sbase := 64 * wf w 22 16, abase := 64 * (wf w 15 7 % 384), cls := max cs ca,
      isInt := (fs.isQ && fa.isQ) || fs.isWeld }

/-- Encodes a course command word from its fields (Table 2.3). -/
def courseEncode (fs fa bond cmask acc soft rnd load len accbase sbase abase : Nat) : Word :=
  pack [(fs, 60), (fa, 56), (bond, 53), (cmask, 49), (acc, 48), (soft, 46), (rnd, 44), (load, 43), (len, 32),
    (accbase, 23), (sbase, 16), (abase, 7)]

/-- Courses that a command uses. -/
def CCmd.courses (c : CCmd) : List Nat := (List.range 4).filter c.cmask.testBit

/-- Edges of a command: the course whose west edge admits, its streaming banks, and its check groups as (destination course, chain of courses) (Table 2.4). -/
def CCmd.edges (c : CCmd) : List (Nat × List Nat × List (Nat × List Nat)) :=
  match c.bond with
  | 0 => c.courses.map fun k => (k, [k], [(k, [k])])
  | 1 => [(0, [0, 1, 2, 3], [(3, [0, 1, 2, 3])])]
  | 2 => [(0, [0], [(0, [0]), (1, [1]), (2, [2]), (3, [3])])]
  | _ => [(0, [0, 1], [(1, [0, 1]), (3, [2, 3])])]

def CCmd.k (c : CCmd) : Nat := clsK c.cls
def CCmd.v (c : CCmd) : Nat := clsV c.cls
/-- Proof vectors appended to a pass (R78). -/
def CCmd.proofs (c : CCmd) : Nat := if c.isInt then 1 else 2
/-- A stationary block's bytes at its own element width (R60). -/
def CCmd.blockBytes (c : CCmd) : Nat := c.k * c.fs.width
/-- The first 64-byte boundary at or after a byte offset (R60). -/
def up64 (n : Nat) : Nat := (n + 63) / 64 * 64

/-- An operand element as the edge or the loader gives it to the cells: escapes and T zero and NaN blocks are +0, F32 becomes F19 (R95, R97, R104). -/
def operand (f : Fmt) (rnd : RMode) (scale code : Nat) (s : Word) : FV × Word :=
  if f = .f32 then
    let d := drawIf rnd s
    (FF.f19.rnd rnd d.1 false (FF.f32.dec code), d.2)
  else if f.isEscape code then (FV.zero, s)
  else if f.isT && (scale == 0 || scale == 255) then (FV.zero, s)
  else (f.dec code, s)

/-- Reads n operand elements of a bank from a byte offset; `sc i` is the scale byte of element i. -/
def operands (bank : SMap Byte) (size off : Nat) (f : Fmt) (rnd : RMode) (sc : Nat → Nat) (n : Nat) (s : Word) : List FV × Word :=
  let r := (List.range n).foldl
    (fun (a : List FV × Word) i =>
      let o := operand f rnd (sc i) (SMap.bits bank size (off * 8 + i * f.width) f.width) a.2
      (o.1 :: a.1, o.2)) ([], s)
  (r.1.reverse, r.2)

/-- Rounding of the check path: exact for integers, the check arithmetic of R81 for floats. -/
def ck (isInt : Bool) (v : FV) : FV := if isInt then v else ckRnd v

/-- A T scale byte's effect on a value (R104): a zero block's factor is 1, a NaN block gives NaN. -/
def tscale (isT : Bool) (b : Nat) (v : FV) : FV :=
  if !isT || b = 0 then v else if b = 255 then .nan else v.scale ((b : Int) - 127)

/-- R77: the loader forms the proof-row sums P and M of a block. T column scales enter each term (log 21). -/
def mkBlk (c : CCmd) (w : List FV) (sw : List Nat) : Blk :=
  let term (k n : Nat) : FV := tscale c.fs.isT (nthD 0 sw n) (nthD .zero w (8 * k + n))
  let sum (g : FV → FV) (k : Nat) : FV :=
    (List.range 8).foldl (fun a n => ck c.isInt (FV.add a (g (term k n)))) FV.zero
  { fmt := c.fs, cls := c.cls, w := w, sw := sw, p := (List.range c.k).map (sum id), m := (List.range c.k).map (sum FV.abs) }

/-- Reads the block at a command's SBASE from a course's stationary bank (R60, R93). -/
def readBlk (c : CCmd) (bank : SMap Byte) (s : Word) : Blk × Word :=
  let so := up64 (c.sbase + c.blockBytes)
  let sw := if c.fs.isT then (List.range 8).map fun n => (SMap.get 0 bank ((so + n) % 8192)).toNat else []
  let r := operands bank 8192 c.sbase c.fs c.rnd (fun i => nthD 0 sw (i % 8)) (8 * c.k) s
  (mkBlk c r.1 sw, r.2)

/-- R56: a lane product; one at or above the F32 overflow threshold becomes infinite. -/
def laneProd (a b : FV) : FV :=
  match FV.mul a b with
  | .fin s m e =>
    if FV.lt (.fin false m e) (.fin false (2 ^ 25 - 1) (127 - 24)) then .fin s m e else .inf s
  | v => v

/-- The integer that an integral value is. -/
def FV.int : FV → Int
  | .fin s m e => FV.sig s (m * 2 ^ e.toNat / 2 ^ (-e).toNat)
  | _ => 0

/-- The value modulo 2^32 in two's complement (R56). -/
def wrap32 (v : FV) : FV := FV.ofInt (BitVec.ofInt 32 v.int).toInt

/-- R55, R56: one row across the chain of courses: the partial sum is rounded once per cell. -/
def rowSum (c : CCmd) (rnd : FV → FV) (prod : FV → FV → FV) (chain : List (List FV)) (x : List FV) : FV :=
  let L := clsL c.cls
  ((List.range chain.length).foldl
    (fun acc g =>
      (List.range 8).foldl
        (fun a col =>
          rnd ((List.range L).foldl
            (fun a i => FV.add a (prod (nthD .zero (nthD [] chain g) (col * L + i)) (nthD .zero x (g * c.k + col * L + i)))) a))
        acc) FV.zero)

def lives (t : Tile) (chain : List Nat) : List (Option Blk) := chain.map fun i => (nthV Course.clear t.courses i).live

def colOf (b : Option Blk) (n k : Nat) : List FV :=
  match b with | some b => (List.range k).map fun i => nthD .zero b.w (8 * i + n) | none => []
def swOf (b : Option Blk) (n : Nat) : Nat := match b with | some b => nthD 0 b.sw n | none => 0
def pOf : Option Blk → List FV | some b => b.p | none => []
def mOf : Option Blk → List FV | some b => b.m | none => []

/-- Row output n of a chain for a data vector, as its 32-bit word (R55, R56, R104). -/
def rowOut (c : CCmd) (bs : List (Option Blk)) (x : List FV) (sx n : Nat) : Word32 :=
  let cols := bs.map (colOf · n c.k)
  if c.isInt then BitVec.ofInt 32 (rowSum c wrap32 FV.mul cols x).int
  else
    let s := rowSum c rne32 laneProd cols x
    let sw := swOf (bs.head?.getD none) n
    let v := if c.fs.isT || c.fa.isT then rne32 (tscale c.fa.isT sx (tscale c.fs.isT sw s)) else s
    BitVec.ofNat 32 (FF.f32.enc v)

/-- A 32-bit row value as the value it means. -/
def rowVal (isF : Bool) (w : Word32) : FV := if isF then FF.f32.dec w.toNat else FV.ofInt w.toInt

/-- p and m of a vector for one check group (R77). -/
def rowProof (c : CCmd) (bs : List (Option Blk)) (x : List FV) (sx : Nat) : FV × FV :=
  (tscale c.fa.isT sx (rowSum c (ck c.isInt) FV.mul (bs.map pOf) x),
   tscale c.fa.isT sx (rowSum c (ck c.isInt) FV.mul (bs.map mOf) (x.map FV.abs)))

/-- What a check gives: it passes, is skipped and counted (R81), or fails. -/
inductive Chk where
  | pass | skip | fail
deriving DecidableEq, Repr

/-- R79, R80: equality modulo 2^32, or |a − b| ≤ coef · 2^−24 · mag + 2^−140. -/
def check (isInt : Bool) (a b mag : FV) (coef : Nat) : Chk :=
  if isInt then (if wrap32 a = wrap32 b then .pass else .fail)
  else if a.isFin && b.isFin && mag.isFin then
    let tol := FV.add (FV.mul (FV.fin false coef (-24)) mag) (.fin false 1 (-140))
    if FV.le (FV.sub a b).abs tol then .pass else .fail
  else .skip

/-- Σ_n of outputs in ascending n (R77). -/
def sumOut (isInt : Bool) (ys : List FV) : FV := ys.foldl (fun a y => ck isInt (FV.add a y)) FV.zero

/-! ### Queue, start, load, exchange -/

/-- A unit of the tile counts n of event e (Table 15.4). -/
def Tile.tally (e n : Nat) (t : Tile) : Tile := if n = 0 then t else { t with ev := SMap.upd 0 t.ev e fun k => k + n }

/-- Draws of n operand elements: only F32 elements pass a rounding step (R91, R95). -/
def drawn (f : Fmt) (rnd : RMode) (n : Nat) : Nat := if f = .f32 ∧ rnd = .sr then n else 0

/-- Lane products that are gated (R74): a zero operand against a finite one. -/
def gated (x w : List FV) : Nat :=
  ((List.zipWith (fun (a b : FV) => (a.isZero && b.isFin) || (b.isZero && a.isFin)) x w).filter id).length

def Tile.end_ (t : Tile) (status reason : Nat) (unit : Nat := 0) (addr : Word := 0) : Tile :=
  if t.fin = none then { t with fin := some ⟨status, reason, unit, addr, 0, 0, 0⟩ } else t

/-- Completion status codes of Table 0.9 that tile units raise. -/
def stUnitAbsent : Nat := 0x30
def stDetected : Nat := 0x20
def stTranslation : Nat := 0x10
def stPermission : Nat := 0x11
def stProofRepeat : Nat := 0x21

/-- The tile's units act only while it runs a task that no unit has ended. -/
def Tile.runs (t : Tile) : Bool := t.task.isSome && t.fin.isNone

def Tile.course (t : Tile) (k : Nat) : Course := nthV Course.clear t.courses k
def Tile.setCourse (t : Tile) (k : Nat) (f : Course → Course) : Tile :=
  { t with courses := setV t.courses k (f (t.course k)) }

/-- Vectors an edge admits in all. -/
def CCmd.total (c : CCmd) : Nat := c.len + c.proofs

/-- The edge of a pass on course k, by its place in the pass. -/
def CCmd.edgeAt (c : CCmd) (k : Nat) : Option Nat := c.edges.findIdx? fun e => e.1 = k

/-- A pass's admissions are over on every edge. -/
def Pass.fed (p : Pass) (c : CCmd) : Bool := p.edges.all fun e => decide (c.total ≤ e.t)

/-- A pass's admissions on course k are over (R67): its own edge in apart mode, the gang's edge otherwise. -/
def Pass.fedAt (p : Pass) (c : CCmd) (k : Nat) : Bool :=
  if c.bond = 0 then
    match c.edgeAt k with
    | some i => match p.edges[i]? with | some e => decide (c.total ≤ e.t) | none => true
    | none => true
  else p.fed c

def Edge.init (c : CCmd) (nb : Nat) : Edge :=
  { t := 0, half := false, j := 0, credit := 0, s := List.replicate (nb * c.k) FV.zero, a := List.replicate (nb * c.k) FV.zero,
    y := [], z := [], am := [] }

def CCmd.freshEdges (c : CCmd) : List Edge := c.edges.map fun e => Edge.init c e.2.1.length

/-- No earlier bank load is still queued (R172). -/
def QLoad.seqOf : QLoad → Nat | .bld _ _ s _ => s | .split _ s => s

def Tile.loaderBefore (t : Tile) (s : Nat) : Bool := t.lq.any fun q => decide (q.seqOf < s)

/-- The streams of an SSEED that precede a command take effect (R92, R94). -/
def Tile.reseedCourses (t : Tile) : Option Word → Tile
  | none => t
  | some w => { t with courses := .ofFn fun (j : Fin 4) =>
      let i := j.val
      { t.course i with sEdge := streamInit w (3 * i), sLoad := streamInit w (3 * i + 1) } }

/-- Two byte runs of a bank of n bytes overlap, addresses wrapping (R62). -/
def overlap (n a la b lb : Nat) : Bool :=
  decide (0 < la) && decide (0 < lb) && (decide ((b + n - a % n) % n < la) || decide ((a + n - b % n) % n < lb))

/-- Bytes of the streaming bank that a command reads: its vectors with their scale bytes (R60, R70). -/
def CCmd.strmBytes (c : CCmd) : Nat :=
  if c.fa.isT then up64 (c.abase + c.len * c.v) + c.len - c.abase else c.len * c.v
def CCmd.statBytes (c : CCmd) : Nat :=
  if c.fs.isT then up64 (c.sbase + c.blockBytes) + 8 - c.sbase else c.blockBytes
/-- Banks that supply a command's vectors. -/
def CCmd.strmBanks (c : CCmd) : List Nat := (c.edges.map fun e => e.2.1).flatten
/-- Banks that a load reads: the lowest course apart, every course in a gang (R66). -/
def CCmd.statBanks (c : CCmd) : List Nat := if c.bond = 0 then c.courses.take 1 else c.courses

/-- Holds that end: streaming holds with their command, stationary holds when every command before the later loading one has completed (R70). -/
def Tile.dropHolds (t : Tile) (done : Nat) : Tile :=
  { t with holds := t.holds.filter fun h =>
      if h.strm then decide (h.seq ≠ done)
      else match h.until_ with | none => true | some u => t.passes.any fun p => decide (p.seq < u) }

/-- A later load of the courses in `mask` replaces the blocks they ran against (R70). -/
def Tile.supersede (t : Tile) (mask seq : Nat) : Tile :=
  { t with holds := t.holds.map fun h =>
      if h.strm ∨ h.until_.isSome ∨ h.seq = seq then h
      else
        let m := h.mask - (h.mask &&& mask)
        { h with mask := m, until_ := if m = 0 then some seq else none } }

/-- R53: the front course command starts. Only a command that must wait leaves the tile as it is. -/
def courseStart (weld : Bool) (t : Tile) : Tile :=
  match t.cq with
  | [] => t
  | q :: rest =>
    if !t.runs || t.loaderBefore q.seq then t
    else match courseDecode weld q.word with
    | none => ({ t with cq := rest }).end_ stUnitAbsent 0
    | some c =>
      if c.cmask = 0 then ({ t with cq := rest }).reseedCourses q.seed
      else
        let mism := c.courses.any fun i =>
          match (t.course i).ldr with | some l => decide (l.1 ≠ c.fs ∨ l.2.1 ≠ c.cls) | none => false
        if !c.load && mism then ({ t with cq := rest }).end_ stUnitAbsent 0
        else
          let ready := if c.load then
              (c.courses.all fun i => decide ((t.course i).shadow = .empty)) && t.passes.all fun p => p.loaded
            else t.passes.all fun p => match courseDecode weld p.word with
              | some d => c.courses.all fun i => d.courses.all fun j => decide (i ≠ j) || p.fedAt d i
              | none => true
          if !ready || (q.seed.isSome && !t.passes.isEmpty) then t
          else
            let t := ({ t with cq := rest }).reseedCourses q.seed
            let tag := !(t.course (c.courses.headD 0)).tag
            let sav := ((List.range 4).map fun i => [(t.course i).sEdge, (t.course i).sLoad]).flatten
            let hs := (c.strmBanks.map fun b => ⟨b, true, c.abase, c.strmBytes, q.seq, 0, none⟩) ++
              (if c.load then c.statBanks.map fun b => ⟨b, false, c.sbase, c.statBytes, q.seq, c.cmask, none⟩ else [])
            let p : Pass :=
              { word := q.word, seq := q.seq, tag := tag, loaded := !c.load, exch := 0, tries := 0, stuck := false,
                edges := c.freshEdges, sav := sav, ran := [] }
            let t := { t with passes := t.passes ++ [p], holds := t.holds ++ hs }
            { t with courses := .ofFn fun (j : Fin 4) =>
                let i := j.val
                if c.cmask.testBit i then { t.course i with tag := tag } else t.course i }

/-- R66: the loader fills the shadows of the first pass whose block is not loaded. -/
def stationaryLoad (weld : Bool) (t : Tile) : Tile :=
  match t.passes.find? fun p => !p.loaded with
  | none => t
  | some p =>
    match courseDecode weld p.word with
    | none => t
    | some c =>
      if !t.runs || !(c.courses.all fun i => decide ((t.course i).shadow = .empty)) then t
      else
        let lead := c.courses.headD 0
        let src := if c.bond = 0 then lead else 0
        let put (t : Tile) (i : Nat) (b : Blk) : Tile :=
          t.setCourse i fun k => { k with shadow := .ready p.tag b, ldr := some (c.fs, c.cls, c.sbase) }
        let t1 := if c.bond = 0 then
            let r := readBlk c (t.course lead).stat (t.course src).sLoad
            c.courses.foldl (fun t i => put t i r.1) (t.setCourse src fun k => { k with sLoad := r.2 })
          else c.courses.foldl
            (fun t i =>
              let r := readBlk c (t.course i).stat (t.course 0).sLoad
              put (t.setCourse 0 fun k => { k with sLoad := r.2 }) i r.1) t
        let t2 := t1.supersede c.cmask p.seq
        ({ t2 with passes := updFirst (fun q => decide (q.seq = p.seq)) (fun q => { q with loaded := true }) t2.passes }).tally 21
          (drawn c.fs c.rnd (8 * c.k * (if c.bond = 0 then 1 else c.courses.length)))

/-- R67: course k exchanges its READY shadow for its live register once the pass before has passed on its end mark. -/
def shadowExchange (weld : Bool) (k : Nat) (t : Tile) : Tile :=
  match (t.course k).shadow with
  | .empty => t
  | .ready _ b =>
    match t.passes.find? fun p => p.loaded && !p.exch.testBit k &&
        (match courseDecode weld p.word with | some c => c.load && c.cmask.testBit k | none => false) with
    | none => t
    | some p =>
      let early := t.passes.filter fun q => decide (q.seq < p.seq)
      let fed := early.all fun q => match courseDecode weld q.word with
        | some d => !d.cmask.testBit k || q.fedAt d k
        | none => true
      if !t.runs || !fed then t
      else
        let t := t.setCourse k fun c => { c with live := some b, shadow := .empty }
        { t with passes := updFirst (fun q => decide (q.seq = p.seq)) (fun q => { q with exch := setBit q.exch k }) t.passes }

/-! ### Admission, checks, re-strike -/

/-- R82: stop, drain and discard this pass and those after it, restore the streams and run again; after three attempts the self-test decides (R83). -/
def restrike (weld : Bool) (seq : Nat) (t : Tile) : Tile :=
  match t.passes.find? fun p => decide (p.seq = seq) with
  | none => t
  | some p =>
    match courseDecode weld p.word with
    | none => t
    | some c =>
      let begun (i : Nat) : Bool := match c.edgeAt i with
        | some n => match p.edges[n]? with | some e => decide (0 < e.j) | none => false
        | none => false
      let t := { t with courses := .ofFn fun (j : Fin 4) =>
        let i := j.val
        let k := t.course i
        if c.cmask.testBit i then
          { k with
              shadow := .empty
              staging := []
              live := if c.load then k.live else nthD k.live p.ran i
              sEdge := if begun i then nthD k.sEdge p.sav (2 * i) else k.sEdge
              sLoad := nthD k.sLoad p.sav (2 * i + 1) }
        else k }
      { t.tally 6 (b2n (decide (p.tries + 1 < 3))) with
        restruck := if p.tries + 1 < 3 then t.restruck + 1 else t.restruck
        passes := t.passes.map fun q =>
          if q.seq < seq then q
          else match courseDecode weld q.word with
            | some d =>
              { q with
                loaded := !d.load
                exch := 0
                edges := d.freshEdges
                tries := if q.seq = seq then q.tries + 1 else q.tries
                stuck := if q.seq = seq then decide (3 ≤ q.tries + 1) else q.stuck }
            | none => q }

/-- R75: one stroke of the soft-start procedure: the new credit, and whether the edge admits. -/
def softStart (ramp j credit : Nat) : Nat × Bool :=
  if ramp = 0 then (credit, true)
  else
    let c := credit + min (j + 1) ramp
    if ramp ≤ c then (c - ramp, true) else (c, false)

/-- The vector that an edge admits next: the streaming elements and their scale byte, or a proof vector (R60, R78). -/
def nextVector (c : CCmd) (t : Tile) (ec : Nat) (banks : List Nat) (e : Edge) : List FV × Nat × Word :=
  let s := (t.course ec).sEdge
  if e.t < c.len then
    let so := up64 (c.abase + c.len * c.v) + e.t
    let sx := if c.fa.isT then (SMap.get 0 (t.course (banks.headD 0)).strm (so % 24576)).toNat else 0
    let r := banks.foldl
      (fun (a : List FV × Word) b =>
        let o := operands (t.course b).strm 24576 (c.abase + e.t * c.v) c.fa c.rnd (fun _ => sx) c.k a.2
        (a.1 ++ o.1, o.2)) ([], s)
    (r.1, sx, r.2)
  else (if e.t = c.len then e.s else e.a, 0, s)

/-- Stationary elements of output n along a chain of blocks. -/
def colOf1 (bs : List (Option Blk)) (n k : Nat) : List FV := (bs.map fun b => colOf b n k).flatten

/-- Outcome of one admitted vector on one edge. -/
structure Admit where
  edge : Edge
  rows : List (Nat × List Word32)
  skips : Nat
  fails : Nat
  gates : Nat
deriving DecidableEq, Repr

/-- R55 to R81: a vector goes through the cells of its edge; its row checks take place. `upset` flips bits of data outputs, numbered 8 · group + n. -/
def admitVector (c : CCmd) (t : Tile) (groups : List (Nat × List Nat)) (e : Edge) (x : List FV) (sx : Nat)
    (upset : List (Nat × Word32)) : Admit :=
  let flt := !c.isInt
  let kg := c.k * (match groups.head? with | some g => g.2.length | none => 1)
  let coef := 2 * kg + 16
  let per (gi : Nat) (g : Nat × List Nat) : List Word32 × List FV × Chk :=
    let bs := lives t g.2
    if e.t < c.len then
      let ws := (List.range 8).map fun n =>
        upset.foldl (fun w u => if u.1 = 8 * gi + n then w ^^^ u.2 else w) (rowOut c bs x sx n)
      let ys := ws.map (rowVal flt)
      let pm := rowProof c bs x sx
      (ws, ys, check c.isInt (sumOut c.isInt ys) pm.1 pm.2 coef)
    else
      let mag := decide (c.len < e.t)
      let col (n : Nat) : FV :=
        let cols := bs.map fun b => (colOf b n c.k).map fun v => tscale c.fs.isT (swOf b n) (if mag then v.abs else v)
        rowSum c (ck c.isInt) FV.mul cols x
      let zs := (List.range 8).map col
      let p := rowSum c (ck c.isInt) FV.mul (bs.map (if mag then mOf else pOf)) x
      let m := rowSum c (ck c.isInt) FV.mul (bs.map mOf) (x.map FV.abs)
      ([], zs, check c.isInt (sumOut c.isInt zs) p m coef)
  let rs := (List.range groups.length).map fun gi => per gi (nthD (0, []) groups gi)
  let vals := (rs.map fun r => r.2.1).flatten
  let add (a b : List FV) : List FV := (List.range b.length).map fun i => ck c.isInt (FV.add (nthD .zero a i) (nthD .zero b i))
  let xs := x.map (tscale c.fa.isT sx)
  let e' := if e.t < c.len then
      { e with s := add e.s xs, a := add e.a (xs.map FV.abs), y := add e.y vals }
    else if e.t = c.len then { e with z := vals } else { e with am := vals }
  { edge := { e' with t := e.t + 1, half := false }
    rows := if e.t < c.len then (List.range groups.length).map fun gi => ((nthD (0, []) groups gi).1, (nthD ([], [], Chk.pass) rs gi).1) else []
    skips := (rs.filter fun r => decide (r.2.2 = .skip)).length
    fails := (rs.filter fun r => decide (r.2.2 = .fail)).length
    gates := (groups.map fun g => ((List.range 8).map fun n => gated x (colOf1 (lives t g.2) n c.k)).sum).sum }

/-- R55, R75: one stroke at the west edge of course k. A vector that takes two strokes goes in with its second (R55, R78). -/
def vectorAdmission (weld : Bool) (k : Nat) (upset : List (Nat × Word32)) (t : Tile) : Tile :=
  match t.passes.find? fun p => match courseDecode weld p.word with
      | some c => c.cmask.testBit k && !p.fedAt c k | none => false with
  | none => t
  | some p =>
    match courseDecode weld p.word with
    | none => t
    | some c =>
      match c.edgeAt k with
      | none => t
      | some i =>
        match p.edges[i]?, c.edges[i]? with
        | some e, some (ec, banks, groups) =>
          let used := if c.bond = 0 then [k] else c.courses
          if !t.runs || p.stuck || !p.loaded || (c.load && !(used.all p.exch.testBit)) then t
          else
            let fresh := decide (e.j = 0)
            let p1 := if fresh then
                { p with ran := lives t [0, 1, 2, 3], sav := setNth p.sav (2 * ec) (t.course ec).sEdge }
              else p
            let sc := softStart c.ramp e.j e.credit
            let e1 := { e with j := e.j + 1, credit := sc.1 }
            let two := decide (c.cls = 32) || decide (c.len ≤ e.t)
            let keep (t : Tile) (e : Edge) : Tile :=
              { t with passes := updFirst (fun q => decide (q.seq = p.seq)) (fun _ => { p1 with edges := setNth p1.edges i e }) t.passes }
            if !sc.2 then keep t e1
            else if two && !e.half then keep t { e1 with half := true }
            else
              let v := nextVector c t ec banks e
              let a := admitVector c t groups e1 v.1 v.2.1 upset
              let t1 := a.rows.foldl
                (fun t r => t.setCourse r.1 fun d =>
                  { d with staging := SMap.put [] d.staging ((c.accbase + e.t) % 512) r.2 })
                (t.setCourse ec fun d => { d with sEdge := v.2.2 })
              let t2 := ((((t1.tally 14 a.skips).tally 13 a.fails).tally 12 a.gates).tally 21 (if e.t < c.len then drawn c.fa c.rnd v.1.length else 0)).tally
                (if e.t < c.len then 2 else 8) 1
              let t3 := keep t2 a.edge
              if a.fails = 0 then t3 else restrike weld p.seq t3
        | _, _ => t

/-- R71: a staging value goes into an accumulator row, converting the row's old value to the committing type in add mode. -/
def commitRow (isF add : Bool) (old : AccRow) (new : List Word32) : AccRow :=
  if !add then ⟨isF, new⟩
  else
    ⟨isF, (List.range 8).map fun n =>
      let o := nthD 0 old.v n
      let v := nthD 0 new n
      if isF then
        let ov := if old.isF then FF.f32.dec o.toNat else rne32 (FV.ofInt o.toInt)
        BitVec.ofNat 32 (FF.f32.out .rne 0 false (FV.add ov (FF.f32.dec v.toNat)))
      else
        let ov : Int := if old.isF then toI32 (FF.f32.dec o.toNat) else o.toInt
        BitVec.ofInt 32 (ov + v.toInt)⟩

/-- The column checks of one edge: how many are skipped, and how many fail (R79 to R81). -/
def columnChecks (c : CCmd) (groups : List (Nat × List Nat)) (e : Edge) : Nat × Nat :=
  let kg := c.k * (match groups.head? with | some g => g.2.length | none => 1)
  let rs := (List.range (8 * groups.length)).map fun n =>
    check c.isInt (nthD .zero e.y n) (nthD .zero e.z n) (nthD .zero e.am n) (2 * c.len + 3 * kg + 16)
  ((rs.filter fun r => decide (r = .skip)).length, (rs.filter fun r => decide (r = .fail)).length)

/-- R71: the first pass whose edges are fed is checked by its columns and commits whole, or is struck again. -/
def commit (weld : Bool) (t : Tile) : Tile :=
  match t.passes with
  | [] => t
  | p :: rest =>
    match courseDecode weld p.word with
    | none => t
    | some c =>
      if !t.runs || p.stuck || !p.fed c then t
      else
        let cks := (List.range c.edges.length).map fun i =>
          columnChecks c (nthD (0, [], []) c.edges i).2.2 (nthD (Edge.init c 0) p.edges i)
        let t := (t.tally 14 (cks.map (·.1)).sum).tally 13 (cks.map (·.2)).sum
        if (cks.map (·.2)).sum ≠ 0 then restrike weld p.seq t
        else
          let dests := (c.edges.map fun e => e.2.2.map (·.1)).flatten
          let t1 := { t with passes := rest, courses := .ofFn fun (j : Fin 4) =>
            let i := j.val
            let k := t.course i
            if dests.contains i then
              { k with
                acc := (List.range c.len).foldl
                  (fun a v =>
                    let r := (c.accbase + v) % 512
                    SMap.put AccRow.zero a r (commitRow (!c.isInt) c.acc (SMap.get AccRow.zero k.acc r) (SMap.get [] k.staging r)))
                  k.acc }
            else k }
          t1.dropHolds p.seq

/-- R83: the self-test ends; a tile that passes ends its command with PROOF_REPEAT. The other outcome is the device's (R35, R37). -/
def proofSelfTest (t : Tile) : Tile :=
  if t.runs && t.passes.any (fun p => p.stuck) then t.end_ stProofRepeat 6 3 else t

end Sys2Proof.Machine
end

