-- ==== Sys2Proof/Machine/Converter.lean ====
section
/-! DEFINITION. Machine/Converter.lean: output converters, weld assembly, the weld splitter and the bank loader (chapter 03, R172). -/

namespace Sys2Proof.Machine

open Sys2Proof

/-- Bytes of a tile store (Table 2.1). -/
def storeSize : Nat := 524288

def Tile.rd (t : Tile) (a n : Nat) : Nat := leNat ((List.range n).map fun i => SMap.get 0 t.store ((a + i) % storeSize))
def Tile.wr (t : Tile) (a : Nat) (bs : List Byte) : Tile :=
  { t with store := (List.range bs.length).foldl (fun m i => SMap.put 0 m ((a + i) % storeSize) (nthD 0 bs i)) t.store }
def Tile.wrBits (t : Tile) (bitOff w v : Nat) : Tile := { t with store := SMap.putBits t.store storeSize bitOff w v }

/-- Work of another tile-store unit was issued before number s and is not done: results then appear in issue order (R111, R144). -/
def Tile.unitsBefore (t : Tile) (s : Nat) : Bool :=
  (t.vq.toList.any fun q => q.any fun e => decide (e.seq < s)) || t.loaderBefore s ||
    (t.sq.any fun e => decide (e.seq < s)) || (match t.srun with | some r => decide (r.prog.seq < s) | none => false)

/-- A course command issued before number s has not completed (R72). -/
def Tile.coursesBefore (t : Tile) (s : Nat) : Bool :=
  (t.cq.any fun e => decide (e.seq < s)) || t.passes.any fun p => decide (p.seq < s)

/-- A converter parameter block (Table 3.5). -/
structure CPar where
  ofmt : Fmt
  rmode : RMode
  clip : Bool
  cbase : Nat
  cmin : Nat
  cmax : Nat
  mult : List Nat
  bias : List Nat
  shift : List Nat
deriving DecidableEq, Repr

/-- Reads a parameter block; none is UNIT_ABSENT (R106, R107, R487). -/
def readPar (t : Tile) (a : Nat) : Option CPar := do
  let h := t.rd a 8
  let ofmt ← Fmt.ofCode (fld h 63 60)
  let rmode ← RMode.ofCode (fld h 59 58)
  guard (fld h 54 0 = 0 ∧ t.rd (a + 0x130) 16 = 0)
  guard (ofmt ≠ .f19 ∧ ofmt ≠ .w64 ∧ ofmt ≠ .w64x)
  some
    { ofmt := ofmt, rmode := rmode, clip := h.testBit 57, cbase := fld h 56 55, cmin := t.rd (a + 8) 4, cmax := t.rd (a + 12) 4
      mult := (List.range 32).map fun x => t.rd (a + 0x10 + 4 * x) 4
      bias := (List.range 32).map fun x => t.rd (a + 0x90 + 4 * x) 4
      shift := (List.range 32).map fun x => t.rd (a + 0x110 + x) 1 }

/-- max or min against a bound; a NaN bound and a NaN value change nothing (R108). -/
def clip1 (f : FV → FV → FV) (v b : FV) : FV := if v.isNaN || b.isNaN then v else f v b

/-- R108: one accumulator value rescaled, biased and clipped; none for a reserved MULT or SHIFT on the integer path. -/
def convValue (p : CPar) (isF : Bool) (acc : Word32) (x : Nat) : Option FV :=
  let m := nthD 0 p.mult x
  let b := nthD 0 p.bias x
  let sh := nthD 0 p.shift x
  let lim (c : Nat) : FV := if isF then FF.f32.dec c else FV.ofInt (sx 32 c)
  let fin (v : FV) : FV := if p.clip then clip1 FV.min' (clip1 FV.max v (lim p.cmin)) (lim p.cmax) else v
  if isF then some (fin (FV.add (FV.mul (FF.f32.dec acc.toNat) (FF.f32.dec m)) (FF.f32.dec b)))
  else if m ≥ 2 ^ 31 ∨ sh > 62 then none
  else
    let u : Int := acc.toInt * m + sx 32 b * 2 ^ sh
    some (fin (.fin (decide (u < 0)) u.natAbs (-(sh : Int))))

/-- ⌈log₂(m / Emax)⌉ for Emax = 6 (T4) or 448 (T8) (R109). -/
def tExp (f : Fmt) (m : Nat) (e : Int) : Int :=
  let l := Nat.log2 m
  let k : Int := e + l - (if f = .t4 then 2 else 8)
  -- m · 2^e ≤ Emax · 2^k, with Emax = 3 · 2 or 7 · 2^6
  if f = .t4 then (if 2 * m ≤ 3 * 2 ^ l then k else k + 1)
  else (if 4 * m ≤ 7 * 2 ^ l then k else k + 1)

/-- R109, R110: a T block: scale byte, element codes, flushes, saturations, and the stream after its 32 draws. -/
def tBlock (f : Fmt) (rm : RMode) (vs : List FV) (s : Word) : Nat × List Nat × Nat × Nat × Word :=
  let burn := (List.range vs.length).foldl (fun s _ => (drawIf rm s).2) s
  let zeros := List.replicate vs.length 0
  if vs.any fun v => !v.isFin then (0xFF, zeros, 0, 0, burn)
  else if vs.all FV.isZero then (0x00, zeros, 0, 0, burn)
  else
    let big := vs.foldl (fun a v => if FV.lt a v.abs then v.abs else a) FV.zero
    let b : Int := match big with
      | .fin _ m e => max 1 (min 254 (127 + tExp f m e))
      | _ => 1
    let sf := if f = .t4 then SF.e2m1 else SF.f8
    let sgn := if f = .t4 then 8 else 128
    let r := vs.foldl
      (fun (a : List Nat × Nat × Nat × Word) v =>
        let d := drawIf rm a.2.2.2
        match v with
        | .fin neg m e =>
          let q := sf.round rm d.1 m (e - (b - 127))
          ((q.1 + sgn * b2n neg) :: a.1, a.2.1 + b2n (decide (q.1 = 0 ∧ m ≠ 0)), a.2.2.1 + b2n q.2, d.2)
        | _ => (0 :: a.1, a.2.1, a.2.2.1, d.2)) ([], 0, 0, s)
    (b.toNat, r.1.reverse, r.2.1, r.2.2.1, r.2.2.2)

def Tile.accRow (t : Tile) (c r : Nat) : AccRow := SMap.get AccRow.zero (t.course c).acc (r % 512)

/-- A converter entry leaves its queue and its unit's stream is re-derived where an SSEED precedes it (R94). -/
def Tile.popConv (t : Tile) (k : Nat) (q : QConv) : Tile :=
  let t := { t with vq := setV t.vq k ((nthV [] t.vq k).drop 1) }
  match q.seed with
  | none => t
  | some w => t.setCourse k fun c => { c with sConv := streamInit w (3 * k + 2) }

/-- R108: CONVERT to a format that is not T. -/
def convertPlain (k : Nat) (q : QConv) (p : CPar) (t : Tile) : Tile :=
  let row0 := wf q.w0 59 51
  let dst := 16 * wf q.w1 50 36
  let w := p.ofmt.width
  (List.range (8 * (wf q.w0 50 42 + 1))).foldl
    (fun t i =>
      let row := t.accRow k (row0 + i / 8)
      if t.fin.isSome then t else match convValue p row.isF (nthD 0 row.v (i % 8)) (8 * p.cbase + i % 8) with
      | none => t.end_ stUnitAbsent 0
      | some v =>
        let d := drawIf p.rmode (t.course k).sConv
        let r := p.ofmt.conv p.rmode d.1 v
        let t := t.setCourse k fun c => { c with sConv := d.2 }
        ((t.wrBits (dst * 8 + i * w) w r.1).tally 23 (b2n r.2)).tally 22 (b2n (v.isNaN && (p.ofmt.dec r.1).isNaN))) t

/-- R109: CONVERT to T4 or T8. -/
def convertT (k : Nat) (q : QConv) (p : CPar) (t : Tile) : Tile :=
  let row0 := wf q.w0 59 51
  let rstr := wf q.w0 34 26
  let dst := 16 * wf q.w1 50 36
  let dscl := 8 * wf q.w1 35 20
  let w := p.ofmt.width
  (List.range (wf q.w0 50 42 + 1)).foldl
    (fun t b =>
      let vs := (List.range 32).map fun e =>
        let row := if wb q.w0 35 then t.accRow (e / 8) (row0 + b) else t.accRow k (row0 + b + (e / 8) * rstr)
        convValue p row.isF (nthD 0 row.v (e % 8)) e
      if t.fin.isSome then t
      else if vs.any Option.isNone then t.end_ stUnitAbsent 0
      else
        let r := tBlock p.ofmt p.rmode (vs.map fun v => v.getD FV.zero) (t.course k).sConv
        let t := t.setCourse k fun c => { c with sConv := r.2.2.2.2 }
        let t := t.wr (dscl + b) [BitVec.ofNat 8 r.1]
        let t := (List.range 32).foldl (fun t e => t.wrBits (dst * 8 + (32 * b + e) * w) w (nthD 0 r.2.1 e)) t
        ((t.tally 16 r.2.2.1).tally 23 r.2.2.2.1).tally 22 (b2n (decide (r.1 = 0xFF)))) t

/-- The front command of converter k, when its operation is `op` and nothing it must follow is open (R72, R111). -/
def convReady (t : Tile) (k op : Nat) : Option QConv :=
  match nthV [] t.vq k with
  | [] => none
  | q :: _ =>
    if t.runs && decide (wf q.w0 63 60 = op) && !t.coursesBefore q.seq && !t.unitsBefore q.seq then some q else none

/-- R108: the front CONVERT of converter k. A front command with a reserved OP ends here too (R106). -/
def convert (k : Nat) (t : Tile) : Tile :=
  match nthV [] t.vq k with
  | [] => t
  | q :: _ =>
    if t.runs && decide (3 < wf q.w0 63 60) then (t.popConv k q).end_ stUnitAbsent 0
    else match convReady t k 0 with
    | none => t
    | some q =>
      let t := t.popConv k q
      if wf q.w0 3 0 ≠ 0 ∨ wf q.w1 19 0 ≠ 0 then t.end_ stUnitAbsent 0
      else match readPar t (64 * wf q.w1 63 51) with
      | none => t.end_ stUnitAbsent 0
      | some p =>
        let rows := wf q.w0 50 42 + 1
        let outs := rows * (if p.ofmt.isT then 32 else 8)
        let t' := if p.ofmt.isT then convertT k q p t else convertPlain k q p t
        (t'.tally 15 (outs / 8)).tally 21 (if p.rmode = .sr then outs else 0)

/-- A weld command's checks: absent on LK-9220, at most 64 rows, a weld WFMT (R106, R112). -/
def weldOk (weld : Bool) (q : QConv) (fmt : Bool) : Bool :=
  weld && decide (wf q.w0 50 42 ≤ 63) && decide (wf q.w0 3 0 = 0) &&
    (!fmt || decide (wf q.w0 7 4 = 0xB) || decide (wf q.w0 7 4 = 0xC))

/-- Exponent entry fields (Table 3.8). -/
def expE (e : Nat) : Int := sx 16 (fld e 15 0)
def expP (e : Nat) : Nat := fld e 29 27

/-- R116. -/
def wfold (weld : Bool) (k : Nat) (t : Tile) : Tile :=
  match convReady t k 1 with
  | none => t
  | some q =>
    let t := t.popConv k q
    if !weldOk weld q true || decide (wf q.w1 29 0 ≠ 0) || decide (wf q.w0 25 23 = 7) || decide (wf q.w0 22 20 = 7) then
      t.end_ stUnitAbsent 0
    else
      let w00 := decide (wf q.w0 19 14 = 0 ∧ wf q.w0 13 8 = 0)
      (List.range (8 * (wf q.w0 50 42 + 1))).foldl
        (fun t i =>
          let ea := t.rd (4 * wf q.w1 63 47 + 4 * (i / 8)) 4
          let eb := t.rd (4 * wf q.w1 46 30 + 4 * (i % 8)) 4
          let s := (nthD 0 (t.accRow k (wf q.w0 59 51 + i / 8)).v (i % 8)).toInt
          let pa := expP ea
          let pb := expP eb
          let x : Int := 8 * (12 - (wf q.w0 25 23 : Int) - (wf q.w0 22 20 : Int)) + expE ea + expE eb - 106
          let key := 8 * ((wf q.w0 41 36 + i / 8) % 64) + i % 8
          t.setCourse k fun c => { c with asm := SMap.upd Asm.clear c.asm key fun a =>
            { tot := if pa ≠ 0 ∧ pb ≠ 0 then FV.add a.tot (.fin (decide (s < 0)) s.natAbs x) else a.tot
              nonfin := a.nonfin || ea.testBit 30 || eb.testBit 30
              trunc := a.trunc || ea.testBit 31 || eb.testBit 31
              usage := if w00 then max a.usage (pa + pb) else a.usage } })
        ((t.tally 15 (wf q.w0 50 42 + 1)).tally 19 (wf q.w0 50 42 + 1))

/-- R117, R120. -/
def wround (weld : Bool) (k : Nat) (t : Tile) : Tile :=
  match convReady t k 2 with
  | none => t
  | some q =>
    let t := t.popConv k q
    if !weldOk weld q true || decide (wf q.w1 19 0 ≠ 0) then t.end_ stUnitAbsent 0
    else match readPar t (64 * wf q.w1 63 51) with
    | none => t.end_ stUnitAbsent 0
    | some p =>
      if p.ofmt ≠ .f32 ∧ p.ofmt ≠ .f64 then t.end_ stUnitAbsent 0
      else
        let ff := if p.ofmt = .f32 then FF.f32 else FF.f64
        let w := p.ofmt.width
        (List.range (8 * (wf q.w0 50 42 + 1))).foldl
          (fun t i =>
            let key := 8 * ((wf q.w0 41 36 + i / 8) % 64) + i % 8
            let a := SMap.get Asm.clear (t.course k).asm key
            let d := drawIf p.rmode (t.course k).sConv
            let code := if a.nonfin then ff.nanCode
              else if a.tot.isZero then 0 else ff.out p.rmode d.1 false a.tot
            let inexact := if wf q.w0 7 4 = 0xB then a.trunc || decide (8 < a.usage) else a.trunc
            let t := t.setCourse k fun c => { c with sConv := d.2, asm := SMap.put Asm.clear c.asm key Asm.clear }
            let b := !a.nonfin && inexact
            let t := (((t.wrBits (128 * wf q.w1 50 36 + i * w) w code).tally 20 (b2n b)).tally 22 (b2n (decide (code = ff.nanCode)))).tally 21
              (b2n (decide (p.rmode = .sr)))
            { t with weldBound := t.weldBound || b }) t

/-- R117. -/
def wclear (weld : Bool) (k : Nat) (t : Tile) : Tile :=
  match convReady t k 3 with
  | none => t
  | some q =>
    let t := t.popConv k q
    if !weldOk weld q false then t.end_ stUnitAbsent 0
    else (List.range (8 * (wf q.w0 50 42 + 1))).foldl
      (fun t i => t.setCourse k fun c =>
        { c with asm := SMap.put Asm.clear c.asm (8 * ((wf q.w0 41 36 + i / 8) % 64) + i % 8) Asm.clear }) t

/-! ### The weld splitter (R112 to R114) -/

/-- The seven balanced base-256 digits of a, digit 0 first (R113). -/
def digits : Nat → Int → List Int
  | 0, _ => []
  | n + 1, a =>
    let d := (a + 128) % 256 - 128
    digits n ((a - d) / 256) ++ [d]

/-- trunc(r · 2^s), toward zero. -/
def truncTo (r : FV) (s : Int) : Int :=
  match r with
  | .fin neg m e => if 0 ≤ e + s then FV.sig neg (m * 2 ^ (e + s).toNat) else FV.sig neg (m / 2 ^ (-(e + s)).toNat)
  | _ => 0

/-- floor(log₂ |r|) of a non-zero value. -/
def flog (r : FV) : Int := match r with | .fin _ m e => e + Nat.log2 m | _ => 0

/-- The windows of one row or column of a chunk: (E, digits of each element) and the residuals after the last allotted one (R113). -/
def windows : Nat → List FV → List (Int × List (List Int)) × List FV
  | 0, r => ([], r)
  | n + 1, r =>
    if r.all FV.isZero then ([], r)
    else
      let nz := r.filter fun v => !v.isZero
      let e := nz.foldl (fun a v => max a (flog v)) (flog (nz.headD FV.zero))
      let as := r.map fun v => truncTo v (53 - e)
      let r' := (List.range r.length).map fun i =>
        FV.sub (nthD .zero r i) (let a := nthD 0 as i; .fin (decide (a < 0)) a.natAbs (e - 53))
      let rest := windows n r'
      ((e, as.map (digits 7)) :: rest.1, rest.2)

/-- The operand block of WSPLIT (Table 3.7). -/
structure SplitBlk where
  src : Nat
  dig : Nat
  exp : Nat
  r : Nat
  kc : Nat
  ktot : Nat
  colwise : Bool
  nw : Nat
deriving DecidableEq, Repr

/-- Reads the operand block; none is UNIT_ABSENT (R112, R487). -/
def readSplit (t : Tile) (a : Nat) : Option SplitBlk := do
  let nwf := fld (t.rd (a + 0x14) 1) 5 0
  let f := t.rd (a + 0x15) 1
  let b : SplitBlk :=
    { src := t.rd a 4, dig := t.rd (a + 4) 4, exp := t.rd (a + 8) 4, r := t.rd (a + 0xC) 2, kc := t.rd (a + 0xE) 2,
      ktot := t.rd (a + 0x10) 4, colwise := (t.rd (a + 0x14) 1).testBit 7,
      nw := if f = 0xB then 1 else if nwf = 0 then 39 else nwf }
  guard ((f = 0xB ∨ f = 0xC) ∧ nwf ≤ 39 ∧ (t.rd (a + 0x14) 1).testBit 6 = false ∧ t.rd (a + 0x16) 0x2A = 0)
  guard (b.src % 8 = 0 ∧ b.dig % 16 = 0 ∧ b.exp % 4 = 0 ∧ 1 ≤ b.r)
  guard (16 ≤ b.kc ∧ b.kc ≤ 32768 ∧ b.kc % 16 = 0 ∧ b.ktot % b.kc = 0)
  guard (b.src + 8 * b.r * b.ktot ≤ storeSize ∧ b.dig + 7 * b.nw * b.r * b.ktot ≤ storeSize ∧
    b.exp + 4 * (b.ktot / b.kc) * b.nw * b.r ≤ storeSize)
  some b

/-- Splits row or column ρ of chunk c (R113, R114). -/
def splitOne (b : SplitBlk) (c rho : Nat) (t : Tile) : Tile :=
  let at_ (k : Nat) : Nat := if b.colwise then (c * b.kc + k) * b.r + rho else rho * b.ktot + c * b.kc + k
  let src := (List.range b.kc).map fun k => FF.f64.dec (t.rd (b.src + 8 * at_ k) 8)
  let nonfin := src.any fun v => !v.isFin
  let ws := windows b.nw (src.map fun v => if v.isFin then v else FV.zero)
  let trunc := ws.2.any fun v => !v.isZero
  let idx (k : Nat) : Nat := if b.colwise then k * b.r + rho else rho * b.kc + k
  (List.range b.nw).foldl
    (fun t w =>
      let win := ws.1[w]?
      let t := (List.range 7).foldl
        (fun t j => (List.range b.kc).foldl
          (fun t k =>
            let d := match win with | some x => nthD 0 (nthD [] x.2 k) j | none => 0
            t.wr (b.dig + ((c * b.nw + w) * 7 + j) * b.r * b.kc + idx k) [BitVec.ofInt 8 d]) t) t
      let p := match win with
        | some x => (List.range 7).foldl (fun p j => if x.2.any fun ds => decide (nthD 0 ds j ≠ 0) then j + 1 else p) 0
        | none => 0
      let e : Nat := match win with
        | some x => if p = 0 then 0x8000 else (BitVec.ofInt 16 x.1).toNat
        | none => 0x8000
      let entry := b2n trunc * 2 ^ 31 + b2n nonfin * 2 ^ 30 + p * 2 ^ 27 + ws.1.length * 2 ^ 21 + e
      t.wr (b.exp + 4 * ((c * b.nw + w) * b.r + rho)) (bytesOf 4 entry)) t

/-- R112, R113: the splitter begins the WSPLIT at the front of its queue and cuts its operand. -/
def weldSplit (weld : Bool) (t : Tile) : Tile :=
  match t.lq with
  | .split a s :: rest =>
    if !t.runs || ({ t with lq := rest }).unitsBefore s then t
    else
      let t := { t with lq := rest }
      if !weld || decide (a.toNat % 64 ≠ 0) || decide (storeSize < a.toNat + 64) then t.end_ stUnitAbsent 0
      else match readSplit t a.toNat with
      | none => t.end_ stUnitAbsent 0
      | some b =>
        (List.range (b.ktot / b.kc)).foldl (fun t c => (List.range b.r).foldl (fun t r => splitOne b c r t) t) t
  | _ => t

/-! ### The bank loader (R172) -/

/-- Bytes of a bank: streaming or stationary (Table 2.1). -/
def bankSize (strm : Bool) : Nat := if strm then 24576 else 8192

/-- A BLD descriptor and source that break no rule of R172 and R487. -/
def bldOk (src desc : Word) : Bool :=
  let len := wf desc 42 28 + 1
  let last : Int := src.toNat + (len - 1 : Nat) * sx 16 (wf desc 27 12)
  decide (wf desc 11 0 = 0) &&
    (if wb desc 58 then decide (src.toNat < storeSize) && decide (0 ≤ last) && decide (last < storeSize)
     else decide (wf desc 27 12 = 0 ∧ src.toNat % 16 = 0 ∧ wf desc 57 43 % 16 = 0 ∧ len % 16 = 0 ∧ src.toNat + len ≤ storeSize))

/-- A 64-byte unit of a load meets a held region of a bank it writes (R70, R172). -/
def Tile.heldAt (t : Tile) (cmask : Nat) (strm : Bool) (off n : Nat) : Bool :=
  t.holds.any fun h => cmask.testBit h.course && (h.strm == strm) && overlap (bankSize strm) h.off h.len off n

/-- The loader writes units of 64 bytes from `u` on, up to the first held one; it answers how many are done. -/
def bldGo (src desc : Word) : Nat → Nat → Tile → Tile × Nat
  | 0, u, t => (t, u)
  | fuel + 1, u, t =>
    let len := wf desc 42 28 + 1
    let n := min 64 (len - 64 * u)
    let strm := wb desc 59
    let off := wf desc 57 43 + 64 * u
    if t.heldAt (wf desc 63 60) strm off n then (t, u)
    else
      let byte (j : Nat) : Byte :=
        let a := if wb desc 58 then ((src.toNat : Int) + j * sx 16 (wf desc 27 12)).toNat else src.toNat + j
        SMap.get 0 t.store a
      let bank (m : SMap Byte) : SMap Byte :=
        (List.range n).foldl (fun m i => SMap.put 0 m ((off + i) % bankSize strm) (byte (64 * u + i))) m
      let t' := { t with courses := .ofFn fun (c : Fin 4) =>
        let k := t.course c.val
        if (wf desc 63 60).testBit c.val then (if strm then { k with strm := bank k.strm } else { k with stat := bank k.stat }) else k }
      bldGo src desc fuel (u + 1) t'

/-- R172: the loader begins the BLD at the front of its queue, or goes on with one that a held region stopped. -/
def bankLoad (t : Tile) : Tile :=
  match t.lq with
  | .bld src desc s done :: rest =>
    if !t.runs || ({ t with lq := rest }).unitsBefore s then t
    else if !bldOk src desc then ({ t with lq := rest }).end_ stUnitAbsent 0
    else if wf desc 63 60 = 0 then { t with lq := rest }
    else
      let units := (wf desc 42 28 + 64) / 64
      let r := bldGo src desc (units - (done - 1)) (done - 1) t
      let t1 := r.1.tally 31 (r.2 - (done - 1))
      if r.2 = units then { t1 with lq := rest }
      else { t1 with lq := .bld src desc s (r.2 + 1) :: rest }
  | _ => t

end Sys2Proof.Machine
end

