-- ==== Sys2Proof/Machine/Swage.lean ====
section
/-! DEFINITION. Machine/Swage.lean: Swage programs: block, streams, stages, escape fix-up and summary (chapter 04). -/

namespace Sys2Proof.Machine

open Sys2Proof

/-- A stage word (Table 4.3). -/
structure Stg where
  op : Nat
  sa : Nat
  sb : Nat
  sc : Nat
  ia : Nat
  excl : Bool
  seg : Bool
  flg : Nat
  taddr : Nat
deriving DecidableEq, Repr

/-- A stream entry (Table 4.2): `addr` counts bits of the tile store, or names the first register. -/
structure Strm where
  fmt : Fmt
  store : Bool
  addr : Nat
  stride : Int
deriving DecidableEq, Repr

/-- A Swage program block (Table 4.1). -/
structure SProg where
  ct : Fmt
  nstg : Nat
  sumsel : Nat
  rmode : RMode
  cflag : Bool
  lenind : Bool
  len : Nat
  lenaddr : Nat
  cntaddr : Nat
  streams : List Nat
  stages : List Stg
  imm : List Nat
deriving DecidableEq, Repr

def stgOf (w : Nat) : Stg :=
  { op := fld w 63 58, sa := fld w 57 55, sb := fld w 54 52, sc := fld w 51 49, ia := fld w 48 45, excl := w.testBit 44,
    seg := w.testBit 43, flg := fld w 42 41, taddr := 4 * fld w 40 24 }

/-- Decodes a stream entry; none is forbidden (R125, R487). -/
def strmOf (w : Nat) : Option Strm := do
  let f ← Fmt.ofCode (fld w 63 60)
  let store := w.testBit 59
  guard (f = .q4 ∨ f = .q8 ∨ f = .f8 ∨ f = .f16 ∨ f = .b16 ∨ f = .f32 ∨ f = .f64 ∨ f = .i32)
  guard (fld w 25 0 = 0)
  guard (store ∨ ((f = .f32 ∨ f = .f64 ∨ f = .i32) ∧ fld w 58 47 = 0 ∧ fld w 41 26 = 0))
  some { fmt := f, store := store, addr := if store then 32 * fld w 58 42 else fld w 46 42, stride := sx 16 (fld w 41 26) }

/-- Raw code of element i of a stream (R125). -/
def Strm.raw (s : Strm) (t : Tile) (i : Nat) : Nat :=
  let w := s.fmt.width
  if s.store then
    SMap.bits t.store storeSize (((s.addr : Int) + i * s.stride * w) % (storeSize * 8 : Nat)).toNat w
  else if s.fmt = .f64 then
    let k := 64 * ((s.addr + i / 32) % 32) + 2 * (i % 32)
    (SMap.get 0 t.v k).toNat + 2 ^ 32 * (SMap.get 0 t.v (k + 1)).toNat
  else (SMap.get 0 t.v (64 * ((s.addr + i / 64) % 32) + i % 64)).toNat

/-- Writes element i of a sink (R125, R126). -/
def Strm.write (s : Strm) (i code : Nat) (t : Tile) : Tile :=
  let w := s.fmt.width
  if s.store then t.wrBits (((s.addr : Int) + i * s.stride * w) % (storeSize * 8 : Nat)).toNat w code
  else if s.fmt = .f64 then
    let k := 64 * ((s.addr + i / 32) % 32) + 2 * (i % 32)
    { t with v := SMap.put 0 (SMap.put 0 t.v k (BitVec.ofNat 32 code)) (k + 1) (BitVec.ofNat 32 (code / 2 ^ 32)) }
  else { t with v := SMap.put 0 t.v (64 * ((s.addr + i / 64) % 32) + i % 64) (BitVec.ofNat 32 code) }

/-- Entry conversion to the chain type (R126). -/
def entryConv (ct f : Fmt) (c : Nat) : FV :=
  let v := f.dec c
  if ct = .i32 then (if f = .i32 ∨ f = .q4 ∨ f = .q8 then v else FV.ofInt (toI32 v))
  else if ct = .f32 ∧ (f = .f64 ∨ f = .i32) then rne32 v else v

/-- Rounding of a stage result in the chain type; I32 wraps (R129). -/
def chainRnd (ct : Fmt) (st : Bool) (v : FV) : FV :=
  if ct = .i32 then wrap32 v else if ct = .f64 then FF.f64.rnd .rne 0 st v else FF.f32.rnd .rne 0 st v

/-- The chain types in which an opcode is marked, and its operands in use as a mask SA 1, SB 2, SC 4 (Table 4.4). -/
def opInfo (op : Nat) : Option (Bool × Bool × Bool × Nat) :=
  if op = 0x00 ∨ op = 0x08 ∨ op = 0x09 then some (true, true, true, 1)
  else if (0x01 ≤ op ∧ op ≤ 0x03) ∨ (0x05 ≤ op ∧ op ≤ 0x07) ∨ (0x12 ≤ op ∧ op ≤ 0x15) ∨ op = 0x32 then some (true, true, true, 3)
  else if op = 0x04 then some (true, true, true, 7)
  else if op = 0x0A then some (true, true, false, 1)
  else if 0x0B ≤ op ∧ op ≤ 0x11 then some (true, false, false, 1)
  else if op = 0x16 then some (true, true, false, 3)
  else if 0x18 ≤ op ∧ op ≤ 0x21 then some (false, false, true, 3)
  else if (0x28 ≤ op ∧ op ≤ 0x2A) ∨ (0x2C ≤ op ∧ op ≤ 0x2E) ∨ op = 0x30 ∨ op = 0x31 then some (true, true, true, 1)
  else if op = 0x34 then some (true, false, false, 1)
  else if op = 0x35 then some (true, false, false, 3)
  else if op = 0x38 then some (true, false, false, 0)
  else none

def Stg.mask (s : Stg) : Nat := match opInfo s.op with | some (_, _, _, m) => m | none => 0
/-- The operand codes that a stage reads. -/
def Stg.codes (s : Stg) : List Nat :=
  (if s.mask.testBit 0 then [s.sa] else []) ++ (if s.mask.testBit 1 then [s.sb] else []) ++ if s.mask.testBit 2 then [s.sc] else []
/-- R130: the stages that change the number of elements. -/
def Stg.changes (s : Stg) : Bool := s.op == 0x31 || (0x2C ≤ s.op && s.op ≤ 0x2E) || s.op == 0x34

/-- The highest immediate index that a stage reads, plus one (Table 4.3, IA). -/
def Stg.immTop (s : Stg) (dbl : Bool) : Nat :=
  let d := b2n dbl
  let ops := (s.codes.map fun c => if c = 4 then s.ia + 1 + d else if c = 5 then s.ia + 2 + d else 0).foldl max 0
  if s.op = 0x30 then max ops (s.ia + 2 + d) else if s.op = 0x34 then max ops (s.ia + 2)
  else if s.op = 0x35 then max ops (s.ia + 1) else ops

/-- Reads and checks a program block; none is UNIT_ABSENT (R123, R130, R141, R487). -/
def readProg (lk9220 : Bool) (t : Tile) (a : Nat) : Option SProg := do
  let h := t.rd a 8
  let ct ← Fmt.ofCode (fld h 63 60)
  let n := fld h 59 57 + 1
  let ws := (List.range n).map fun s => t.rd (a + 0x30 + 8 * s) 8
  let p : SProg :=
    { ct := ct, nstg := n, sumsel := fld h 56 53, rmode := if fld h 52 51 = 1 then .rne else .rz, cflag := h.testBit 50,
      lenind := h.testBit 49, len := fld h 48 32 + 1, lenaddr := 4 * fld h 31 15, cntaddr := 4 * fld (t.rd (a + 8) 8) 63 47,
      streams := (List.range 4).map fun i => t.rd (a + 0x10 + 8 * i) 8, stages := ws.map stgOf,
      imm := (List.range 16).map fun i => t.rd (a + 0x70 + 4 * i) 4 }
  guard (ct = .f32 ∨ ct = .f64 ∨ ct = .i32)
  guard (fld h 14 0 = 0 ∧ fld (t.rd (a + 8) 8) 46 0 = 0 ∧ t.rd (a + 0xB0) 16 = 0)
  guard (ws.all fun w => fld w 23 0 = 0)
  guard (p.stages.all fun s => s.sa ≤ 5 && s.sb ≤ 5 && s.sc ≤ 5 && (match opInfo s.op with
    | some (f, d, i, _) => if ct = .f32 then f else if ct = .f64 then d else i
    | none => false))
  guard (p.stages.all fun s => s.immTop (ct == .f64) ≤ 16)
  if (p.stages.headD (stgOf 0)).op = 0x38 then
    guard (n = 1)
    return p
  guard (p.sumsel ≤ n ∧ p.sumsel ≤ 8 ∧ (p.sumsel = 0 ∨ !lk9220) ∧ fld h 52 51 ≤ 1)
  guard ((p.stages.drop 1).all fun s => s.op ≠ 0x32 && s.op ≠ 0x38)
  guard ((p.stages.filter Stg.changes).length ≤ 1)
  guard ((p.stages.dropWhile fun s => !s.changes).drop 1 |>.all fun s => s.codes.all fun c => c = 0 || 4 ≤ c)
  return p

/-- Whether a program refers to stream i (0 A, 1 B, 2 C) (R125). -/
def SProg.uses (p : SProg) (i : Nat) : Bool :=
  (p.stages.any fun s => s.codes.contains (i + 1)) || (i == 2 && p.cflag) ||
    (i == 0 && ((p.stages.headD (stgOf 0)).codes.contains 0))

/-- Chain value with its flag. -/
abbrev Elem := FV × Bool

/-- What a stage needs besides its input. -/
structure SEnv where
  ct : Fmt
  src : List (Option Strm)
  imm : List Nat
  tile : Tile
deriving DecidableEq, Repr

def SEnv.imm1 (e : SEnv) (i : Nat) : FV :=
  if e.ct = .f64 then FF.f64.dec (nthD 0 e.imm i + 2 ^ 32 * nthD 0 e.imm (i + 1))
  else if e.ct = .i32 then FV.ofInt (sx 32 (nthD 0 e.imm i)) else FF.f32.dec (nthD 0 e.imm i)

def SEnv.strmVal (e : SEnv) (s i : Nat) : FV :=
  match e.src.getD s none with
  | some m => entryConv e.ct m.fmt (m.raw e.tile i)
  | none => FV.zero

/-- Operand code c of a stage at element i, P being p (Table 4.3). -/
def SEnv.opnd (e : SEnv) (s : Stg) (c i : Nat) (p : FV) : FV :=
  match c with
  | 0 => p
  | 1 | 2 | 3 => e.strmVal (c - 1) i
  | 4 => e.imm1 s.ia
  | _ => e.imm1 (s.ia + 1)

def i32Sat (i : Int) : FV := FV.ofInt (max i32Lo (min i32Hi i))
def u32 (v : FV) : Nat := (BitVec.ofInt 32 v.int).toNat
def ofU32 (n : Nat) : FV := FV.ofInt (sx 32 n)

/-- Result of an element-wise opcode on a, b, c (Tables 4.4 and 4.5). -/
def swOp (ct : Fmt) (op : Nat) (flag : Bool) (a b c : FV) : FV :=
  let i := decide (ct = .i32)
  let r := chainRnd ct false
  match op with
  | 0x00 => a
  | 0x01 => r (FV.add a b)
  | 0x02 => r (FV.sub a b)
  | 0x03 => r (FV.mul a b)
  | 0x04 => r (FV.add (FV.mul a b) c)
  | 0x05 => if i then (if b.isZero then FV.zero else wrap32 (FV.ofInt (Int.tdiv a.int b.int)))
            else let q := fdiv a b; chainRnd ct q.2 q.1
  | 0x06 => FV.min' a b
  | 0x07 => FV.max a b
  | 0x08 => if i then wrap32 a.abs else a.abs
  | 0x09 => if i then wrap32 (FV.ofInt (-a.int)) else a.neg
  | 0x0A => let q := fsqrt a; chainRnd ct q.2 q.1
  | 0x0B => let q := frsqrt a; chainRnd ct q.2 q.1
  | 0x0C => let q := fdiv FV.one a; chainRnd ct q.2 q.1
  | 0x0D => let q := fexp a; chainRnd ct q.2 q.1
  | 0x0E => let q := fexp2 a; chainRnd ct q.2 q.1
  | 0x0F => let q := flog2 a; chainRnd ct q.2 q.1
  | 0x10 => let q := ftanh a; chainRnd ct q.2 q.1
  | 0x11 => let q := fsigm a; chainRnd ct q.2 q.1
  | 0x12 => if flag then a else b
  | 0x13 | 0x14 | 0x15 | 0x16 => a
  | 0x18 => i32Sat (a.int + b.int)
  | 0x19 => i32Sat (a.int - b.int)
  | 0x1A => i32Sat (a.int * b.int)
  | 0x1B => if b.isZero then (if 0 ≤ a.int then FV.ofInt i32Hi else FV.ofInt i32Lo) else i32Sat (Int.tdiv a.int b.int)
  | 0x1C => ofU32 (u32 a &&& u32 b)
  | 0x1D => ofU32 (u32 a ||| u32 b)
  | 0x1E => ofU32 (u32 a ^^^ u32 b)
  | 0x1F => if 32 ≤ u32 b then FV.zero else ofU32 (u32 a * 2 ^ u32 b)
  | 0x20 => FV.ofInt (if 32 ≤ u32 b then (if 0 ≤ a.int then 0 else -1) else a.int / (2 : Int) ^ u32 b)
  | 0x21 => if 32 ≤ u32 b then FV.zero else ofU32 (u32 a / 2 ^ u32 b)
  | _ => a

/-- Flag result of a comparison opcode (Table 4.5). -/
def swCmp (op : Nat) (a b : FV) : Bool :=
  match op with
  | 0x13 => FV.eq a b
  | 0x14 => FV.lt a b
  | 0x15 => FV.le a b
  | _ => a.isNaN || b.isNaN

def flgApply (flg : Nat) (old new : Bool) : Bool :=
  match flg with | 0 => old | 1 => new | 2 => old && new | _ => old || new

/-- Splits a list of elements into segments (R131). -/
def segments (seg : Bool) : List Elem → List (List Elem)
  | [] => []
  | e :: es =>
    match segments seg es with
    | [] => [[e]]
    | s :: ss =>
      match s with
      | f :: _ => if seg && f.2 then [e] :: s :: ss else (e :: s) :: ss
      | [] => [e] :: ss

/-- Lane accumulation and pairwise tree of RED_ADD (R132). -/
def laneAdd (rnd : FV → FV) (v : Nat) : Nat → List FV → List (Option FV) → List (Option FV)
  | _, [], acc => acc
  | j, x :: xs, acc =>
    let l := j % v
    laneAdd rnd v (j + 1) xs (acc.set l (some (match acc.getD l none with | none => x | some y => rnd (FV.add y x))))

def treeAdd (rnd : FV → FV) : Nat → List (Option FV) → Option FV
  | 0, l => l.headD none
  | n + 1, l =>
    treeAdd rnd n ((List.range (l.length / 2)).map fun i =>
      match l.getD (2 * i) none, l.getD (2 * i + 1) none with
      | none, y => y
      | x, none => x
      | some x, some y => some (rnd (FV.add x y)))

/-- R132 on the values of one segment. -/
def redAdd (rnd : FV → FV) (v : Nat) (xs : List FV) : FV :=
  (treeAdd rnd (Nat.log2 v) (laneAdd rnd v 0 xs (List.replicate v none))).getD FV.zero

def combine (ct : Fmt) (kind : Nat) (a b : FV) : FV :=
  match kind with | 0 => chainRnd ct false (FV.add a b) | 1 => FV.max a b | _ => FV.min' a b

/-- Identities of R131. -/
def ident (ct : Fmt) (kind : Nat) : FV :=
  match kind with
  | 0 => FV.zero
  | 1 => if ct = .i32 then FV.ofInt i32Lo else .inf true
  | _ => if ct = .i32 then FV.ofInt i32Hi else .inf false

/-- R131 over one segment. -/
def scanSeg (ct : Fmt) (kind : Nat) (excl : Bool) : Option FV → List Elem → List Elem
  | _, [] => []
  | acc, e :: es =>
    let y := match acc with | none => e.1 | some a => combine ct kind a e.1
    (if excl then acc.getD (ident ct kind) else y, e.2) :: scanSeg ct kind excl (some y) es

/-- R135 over one segment. -/
def osm : FV → FV → List FV → FV × FV
  | m, s, [] => (m, s)
  | m, s, x :: xs =>
    let m' := FV.max m x
    osm m' (rne32 (FV.add (rne32 (FV.mul s (term m m'))) (term x m'))) xs

/-- R136 on one record pair. -/
def osMerge (a b : List FV) : List FV :=
  let m := FV.max (nthD .zero a 0) (nthD .zero b 0)
  let f1 := term (nthD .zero a 0) m
  let f2 := term (nthD .zero b 0) m
  m :: (List.range (a.length - 1)).map fun i =>
    rne32 (FV.add (rne32 (FV.mul (nthD .zero a (i + 1)) f1)) (rne32 (FV.mul (nthD .zero b (i + 1)) f2)))

/-- Consecutive runs of n elements. -/
def chunks {α : Type} (n : Nat) : Nat → List α → List (List α)
  | 0, _ => []
  | k + 1, l => if l.isEmpty then [] else l.take n :: chunks n k (l.drop n)

/-- EXPAND (R134). -/
def expand (sa sb : Nat → FV) : Nat → Nat → List Elem → List Elem
  | _, _, [] => []
  | i, r, e :: es =>
    if e.2 then (sa r, true) :: expand sa sb (i + 1) (r + 1) es else (sb i, false) :: expand sa sb (i + 1) r es

/-- One stage over the whole list of elements (R128 to R136). -/
def stage (e : SEnv) (s : Stg) (xs : List Elem) : List Elem :=
  let at_ (i : Nat) : Elem := nthD (FV.zero, true) xs i
  let o (c i : Nat) : FV := e.opnd s c i (at_ i).1
  let ins := (List.range xs.length).map fun i => (o s.sa i, (at_ i).2)
  let v := if e.ct = .f64 then 8 else 16
  if 0x28 ≤ s.op ∧ s.op ≤ 0x2A then
    ((segments s.seg ins).map (scanSeg e.ct (s.op - 0x28) s.excl none)).flatten
  else if 0x2C ≤ s.op ∧ s.op ≤ 0x2E then
    (segments s.seg ins).map fun g =>
      (if s.op = 0x2C ∧ e.ct ≠ .i32 then redAdd (chainRnd e.ct false) v (g.map (·.1))
       else match g with
        | [] => FV.zero
        | x :: r => (r.map (·.1)).foldl (combine e.ct (s.op - 0x2C)) x.1, true)
  else if s.op = 0x30 then
    (List.range xs.length).map fun i =>
      let idx : Int := if e.ct = .i32 then (o s.sa i).int
        else match e.src.getD (s.sa - 1) none with | some m => sx 32 (m.raw e.tile i) | none => -1
      if 0 ≤ idx ∧ idx < (nthD 0 e.imm s.ia : Nat) then
        let w := e.ct.width
        (e.ct.dec (SMap.bits e.tile.store storeSize ((s.taddr * 8 + idx.toNat * w) % (storeSize * 8)) w), true)
      else (e.imm1 (s.ia + 1), false)
  else if s.op = 0x31 then ins.filter (·.2)
  else if s.op = 0x32 then expand (fun i => o s.sa i) (fun i => o s.sb i) 0 0 xs
  else if s.op = 0x34 then
    ((segments s.seg ins).map fun g =>
      let r := osm (e.imm1 s.ia) (e.imm1 (s.ia + 1)) (g.map (·.1))
      [(r.1, true), (r.2, true)]).flatten
  else if s.op = 0x35 then
    let n := nthD 0 e.imm s.ia + 2
    let bs := (List.range xs.length).map (o s.sb)
    let rs := List.zipWith osMerge (chunks n xs.length (ins.map (·.1))) (chunks n xs.length bs)
    List.zipWith (fun (y : FV) (x : Elem) => (y, x.2)) rs.flatten xs
  else
    (List.range xs.length).map fun i =>
      let f := (at_ i).2
      (swOp e.ct s.op f (o s.sa i) (o s.sb i) (o s.sc i),
       if 0x13 ≤ s.op ∧ s.op ≤ 0x16 then flgApply s.flg f (swCmp s.op (o s.sa i) (o s.sb i)) else f)

/-- The lists leaving each stage in turn. -/
def runStages (e : SEnv) : List Stg → List Elem → List (List Elem)
  | [], _ => []
  | s :: ss, xs => let ys := stage e s xs; ys :: runStages e ss ys

/-- Scalar summary of the flags leaving a stage (Table 4.7). -/
def summary (xs : List Elem) : Word :=
  let n := (xs.filter (·.2)).length
  pack [(b2n (xs.all (·.2)), 63), (b2n (decide (0 < n)), 62),
    ((match firstIdx (fun (x : Elem) => x.2) xs 0 with | some i => i | none => 0x3FFFF), 42), (n, 0)]

/-! ### The escape fix-up (R98, R99, R138, R139) -/

/-- Used entries of a side list as (index, F16 value), and the number of skipped ones (R99). -/
def sideList (t : Tile) (a : Nat) : List (Nat × Nat) × Nat :=
  let count := t.rd a 4
  let nelem := t.rd (a + 4) 4
  let n := min (min count (nelem / 64)) (storeSize / 8)
  let r := (List.range n).foldl
    (fun (u : List (Nat × Nat)) e =>
      let x := t.rd (a + 0x10 + 8 * e) 8
      let i := fld x 31 0
      if decide (i < nelem) && (match u with | [] => true | p :: _ => decide (p.1 < i)) then (i, fld x 47 32) :: u else u) []
  (r.reverse, count - r.length)

def sideGet (l : List (Nat × Nat)) (i : Nat) : Option Nat := (l.find? fun p => p.1 = i).map (·.2)

/-- The operands of FIXUP break no rule of Table 4.6 and R487. -/
def fixupOk (im : List Nat) : Bool :=
  let o := nthD 0 im 5
  let okf (c : Nat) (has : Bool) : Bool :=
    if has then c == 0 || c == 2 else c == 0 || c == 2 || c == 4 || c == 5 || c == 6 || c == 8
  decide (fld o 31 12 = 0 ∧ fld o 9 8 = 0 ∧ nthD 0 im 14 = 0 ∧ nthD 0 im 15 = 0) && okf (fld o 7 4) (o.testBit 11) &&
    okf (fld o 3 0) (o.testBit 10) && decide (nthD 0 im 4 % 4 = 0) &&
    (!o.testBit 11 || decide (nthD 0 im 1 % 16 = 0)) && (!o.testBit 10 || decide (nthD 0 im 3 % 16 = 0))

/-- The true value of an element, scaled and rounded (R139 step 2). -/
def fixVal (t : Tile) (f : Fmt) (l : List (Nat × Nat)) (idx bit scale : Nat) : FV :=
  let v := match sideGet l idx with
    | some h => FF.f16.dec h
    | none => let c := SMap.bits t.store storeSize (bit % (storeSize * 8)) f.width; if f.isEscape c then FV.zero else f.dec c
  rne32 (FV.mul v (FF.f32.dec scale))

/-- Inserts k into a rising list, once. -/
def insNat (k : Nat) : List Nat → List Nat
  | [] => [k]
  | j :: l => if k < j then k :: j :: l else if k = j then j :: l else j :: insNat k l

/-- R139. -/
def fixup (im : List Nat) (t : Tile) : Tile :=
  let g := nthD 0 im
  let fx := (Fmt.ofCode (fld (g 5) 7 4)).getD .f32
  let fy := (Fmt.ofCode (fld (g 5) 3 0)).getD .f32
  let lx := if (g 5).testBit 11 then sideList t (g 1) else ([], 0)
  let ly := if (g 5).testBit 10 then sideList t (g 3) else ([], 0)
  let K := g 8
  let ny := g 9
  let n0 := fld (g 12) 31 16
  let nn := fld (g 12) 15 0
  let ux := (lx.1.filter fun p => decide (g 10 ≤ p.1 / K) && decide (p.1 / K < g 10 + g 11)).length
  let uy := (ly.1.filter fun p => decide (p.1 / ny < K) && decide (n0 ≤ p.1 % ny) && decide (p.1 % ny < n0 + nn)).length
  let t := (t.tally 18 (lx.2 + ly.2)).tally 17 (ux + uy)
  (List.range (g 11 * nn)).foldl
    (fun t j =>
      let i := g 10 + j / nn
      let n := n0 + j % nn
      let kx := (lx.1.filter fun p => p.1 / K = i).map fun p => p.1 % K
      let ky := (ly.1.filter fun p => p.1 % ny = n ∧ p.1 / ny < K).map fun p => p.1 / ny
      let ks := ky.foldl (fun l k => insNat k l) kx
      if ks.isEmpty then t
      else
        let corr := ks.foldl
          (fun c k =>
            let xv := fixVal t fx lx.1 (i * K + k) (8 * g 0 + ((i - g 10) * K + k) * fx.width) (g 6)
            let yv := fixVal t fy ly.1 (k * ny + n) (8 * g 2 + (k * ny + n) * fy.width) (g 7)
            rne32 (FV.add c (rne32 (FV.mul xv yv)))) FV.zero
        let a := g 4 + 4 * ((i - g 10) * g 13 + n - n0)
        t.wr a (bytesOf 4 (FF.f32.out .rne 0 false (FV.add (FF.f32.dec (t.rd a 4)) corr)))) t

/-! ### Start and completion -/

/-- Wide groups are resident or a wide launch runs (R151). -/
def Tile.wideBusy (t : Tile) : Bool :=
  (t.groups.toList.any fun g => match g with | some g => g.wide | none => false) ||
    (match t.launch with | some l => l.wide | none => false)

/-- Runs a checked program: streams, stages, sink, count and summary; none is UNIT_ABSENT. -/
def runProg (p : SProg) (t : Tile) : Option (Tile × Option (Nat × Nat) × Word × Nat) := do
  let cnt := if p.lenind then min (t.rd p.lenaddr 4) 131072 else p.len
  if cnt = 0 then
    return (t, none, if p.sumsel = 0 then 0 else summary [], 0)
  let src ← (List.range 3).mapM fun i =>
    if p.uses i then (strmOf (nthD 0 p.streams i)).map some else some none
  let sink ← strmOf (nthD 0 p.streams 3)
  guard (p.stages.all fun s => s.op ≠ 0x30 || p.ct = .i32 ||
    (1 ≤ s.sa && s.sa ≤ 3 && (match src.getD (s.sa - 1) none with | some m => m.fmt == .i32 | none => false)))
  guard (p.stages.all fun s => s.op ≠ 0x35 ||
    (let d := nthD 0 p.imm s.ia; 1 ≤ d && d ≤ 256 && cnt % (d + 2) == 0))
  let env : SEnv := { ct := p.ct, src := src, imm := p.imm, tile := t }
  let flag (i : Nat) : Bool :=
    if p.cflag then match src.getD 2 none with | some m => !(m.fmt.dec (m.raw t i)).isZero | none => true else true
  let a0 (i : Nat) : FV := if p.uses 0 then env.strmVal 0 i else FV.zero
  let outs := runStages env p.stages ((List.range cnt).map fun i => (a0 i, flag i))
  let last := outs.getLastD []
  let oor := ((List.range p.stages.length).map fun i =>
    if (nthD (stgOf 0) p.stages i).op = 0x30 then ((nthD [] outs i).filter fun x => !x.2).length else 0).sum
  let t1 := (List.range last.length).foldl
    (fun t i => sink.write i (sink.fmt.conv p.rmode 0 (nthD (FV.zero, true) last i).1).1 t)
    ((t.tally 3 last.length).tally 28 oor)
  let cw := (p.stages.findIdx? fun s => s.op = 0x31).map fun i => (p.cntaddr, (nthD [] outs i).length)
  return (t1, cw, if p.sumsel = 0 then 0 else summary (nthD [] outs (p.sumsel - 1)), last.length)

/-- R122: the next queued program starts, its block is read, its elements pass and its sink is written. -/
def swageStart (lk9220 : Bool) (t : Tile) : Tile :=
  match t.sq with
  | [] => t
  | q :: rest =>
    if !t.runs || t.srun.isSome || t.wideBusy || ({ t with sq := rest }).unitsBefore q.seq then t
    else
      let t := { t with sq := rest }
      if q.a.toNat % 64 ≠ 0 ∨ storeSize < q.a.toNat + 192 then t.end_ stUnitAbsent 0
      else match readProg lk9220 t q.a.toNat with
      | none => t.end_ stUnitAbsent 0
      | some p =>
        if (p.stages.headD (stgOf 0)).op = 0x38 then
          if fixupOk p.imm then 
            let g := nthD 0 p.imm
            { fixup p.imm t with srun := some ⟨q, none, 0, 0, 0, some (g 4, g 11, g 13, fld (g 12) 15 0)⟩ }
          else t.end_ stUnitAbsent 0
        else match runProg p t with
        | none => t.end_ stUnitAbsent 0
        | some (t', c, s, n) => { t' with srun := some ⟨q, c, s, BitVec.ofNat 64 (nthD 0 p.streams 3), n, none⟩ }

/-- R141, R143, R170: the count word and the summary are written and the program is complete. -/
def swageComplete (t : Tile) : Tile :=
  match t.srun with
  | none => t
  | some r =>
    if !t.runs then t
    else
      let t := match r.count with | some (a, n) => t.wr a (bytesOf 4 n) | none => t
      let t := if r.prog.rd = 0 then t else { t with x := SMap.put 0 t.x r.prog.rd r.summary }
      { t with srun := none }

end Sys2Proof.Machine
end

