-- ==== Sys2Proof/Machine/Engines.lean ====
section
/-! DEFINITION. Machine/Engines.lean: the credit block's guard over the tile engines (R192) and the thread engine's launches, blocks and groups (R146 to R154). -/

namespace Sys2Proof.Machine

open Sys2Proof

/-! ### R192: no engine range touches the credit block -/

/-- n bytes from tile-store address a touch the credit block; a range that wraps past the end touches it. -/
def creditHit (a n : Nat) : Bool := decide (0 < n) && decide (0x7FF00 < a % storeSize + n)

/-- A run of bits touches the credit block. -/
def creditBits (bit w : Nat) : Bool := creditHit (bit / 8) ((bit % 8 + w + 7) / 8)

/-- Ranges of the converter command w0, w1 that holds output format f. -/
def convHits (op : Nat) (q : QConv) (f : Option Fmt) : Bool :=
  let rows := wf q.w0 50 42 + 1
  let w := match f with | some f => f.width | none => 0
  match op with
  | 0 =>
    match f with
    | some f =>
      if f.isT then creditHit (16 * wf q.w1 50 36) (rows * 32 * w / 8) || creditHit (8 * wf q.w1 35 20) rows
      else creditHit (16 * wf q.w1 50 36) (cdiv (8 * rows * w) 8)
    | none => false
  | 1 => creditHit (4 * wf q.w1 63 47) (4 * rows) || creditHit (4 * wf q.w1 46 30) 32
  | 2 => creditHit (128 * wf q.w1 50 36) (rows * w)
  | _ => false

/-- The parameter block of a CONVERT or a WROUND touches the credit block. -/
def convParHit (op : Nat) (q : QConv) : Bool := (op == 0 || op == 2) && creditHit (64 * wf q.w1 63 51) 0x140

/-- A converter operation under R192: where the unit begins a command whose ranges touch the credit block, the command ends with PERMISSION_FAULT and writes nothing. -/
def guardConv (k op : Nat) (f : Tile → Tile) (t : Tile) : Tile :=
  match convReady t k op with
  | none => f t
  | some q =>
    if convParHit op q then (t.popConv k q).end_ stPermission 9 4 (BitVec.ofNat 64 (64 * wf q.w1 63 51))
    else
      let t' := f t
      if t'.fin.isSome then t'
      else if convHits op q ((readPar t (64 * wf q.w1 63 51)).map CPar.ofmt) then (t.popConv k q).end_ stPermission 9 4 0x7FF00
      else t'

/-- WELD_SPLIT_START under R192. -/
def guardSplit (f : Tile → Tile) (t : Tile) : Tile :=
  match t.lq with
  | .split a s :: rest =>
    let no := ({ t with lq := rest }).end_ stPermission 9 5 0x7FF00
    if !t.runs || ({ t with lq := rest }).unitsBefore s then t
    else if creditHit a.toNat 64 then no
    else
      let t' := f t
      if t'.fin.isSome then t'
      else match readSplit t a.toNat with
        | some b =>
          if creditHit b.src (8 * b.r * b.ktot) || creditHit b.dig (7 * b.nw * b.r * b.ktot) ||
              creditHit b.exp (4 * (b.ktot / b.kc) * b.nw * b.r) then no
          else t'
        | none => t'
  | _ => f t

/-- BANK_LOAD_START under R192. -/
def guardBld (f : Tile → Tile) (t : Tile) : Tile :=
  match t.lq with
  | .bld src desc s _ :: rest =>
    let len := wf desc 42 28 + 1
    let hit := decide (wf desc 63 60 ≠ 0) &&
      (if wb desc 58 then (List.range len).any fun j => creditHit ((src.toNat : Int) + j * sx 16 (wf desc 27 12)).toNat 1
       else creditHit src.toNat len)
    if !t.runs || ({ t with lq := rest }).unitsBefore s then t
    else if bldOk src desc && hit then ({ t with lq := rest }).end_ stPermission 9 5 0x7FF00
    else f t
  | _ => f t

/-- Elements that a stream of a program reaches, as bit runs: count elements with the stream's stride. -/
def Strm.hits (s : Strm) (n : Nat) : Bool :=
  s.store && (List.range n).any fun i =>
    creditBits (((s.addr : Int) + i * s.stride * s.fmt.width) % (storeSize * 8 : Nat)).toNat s.fmt.width

/-- Ranges of FIXUP's operands (R139, Table 4.6). -/
def fixupHits (im : List Nat) (t : Tile) : Bool :=
  let g := nthD 0 im
  let wx := ((Fmt.ofCode (fld (g 5) 7 4)).getD .f32).width
  let wy := ((Fmt.ofCode (fld (g 5) 3 0)).getD .f32).width
  let nn := fld (g 12) 15 0
  let side (a : Nat) : Bool := creditHit a (0x10 + 8 * min (t.rd a 4) (t.rd (a + 4) 4 / 64))
  creditHit (g 0) (cdiv (g 11 * g 8 * wx) 8) || creditHit (g 2) (cdiv (g 8 * g 9 * wy) 8) ||
    ((g 5).testBit 11 && side (g 1)) || ((g 5).testBit 10 && side (g 3)) ||
    (decide (0 < g 11) && creditHit (g 4) (4 * ((g 11 - 1) * g 13 + nn)))

/-- Ranges of a checked Swage program that runs to `outs` sink elements. -/
def progHits (p : SProg) (t : Tile) : Bool :=
  if (p.stages.headD (stgOf 0)).op = 0x38 then fixupHits p.imm t
  else
    let cnt := if p.lenind then min (t.rd p.lenaddr 4) 131072 else p.len
    (p.lenind && creditHit p.lenaddr 4) || ((p.stages.any fun s => s.op == 0x31) && creditHit p.cntaddr 4) ||
      ((List.range 4).any fun i => (decide (i = 3) || p.uses i) &&
        (match strmOf (nthD 0 p.streams i) with | some s => s.hits cnt | none => false)) ||
      p.stages.any fun s => s.op == 0x30 && creditHit s.taddr (cdiv (nthD 0 p.imm s.ia * p.ct.width) 8)

/-- SWAGE_PROGRAM_START under R192. -/
def guardSwage (lk9220 : Bool) (t : Tile) : Tile :=
  match t.sq with
  | [] => t
  | q :: rest =>
    let no := ({ t with sq := rest }).end_ stPermission 9 2 0x7FF00
    let t' := swageStart lk9220 t
    if t'.sq.length = t.sq.length then t'
    else if q.a.toNat % 64 = 0 ∧ q.a.toNat + 192 ≤ storeSize ∧ creditHit q.a.toNat 192 then no
    else if t'.fin.isSome then t'
    else match readProg lk9220 t q.a.toNat with
      | some p => if progHits p t then no else t'
      | none => t'

/-! ### The thread engine -/

/-- Group slots: four in normal mode, eight in wide mode (R146, R150). -/
def slots (wide : Bool) : Nat := if wide then 8 else 4
/-- Threads of a group (R146, R150). -/
def threads (wide : Bool) : Nat := if wide then 32 else 64
/-- The group's full thread mask. -/
def fullMask (wide : Bool) : Word := if wide then 0xFFFFFFFF else BitVec.allOnes 64

/-- A launch block's fields (Table 4.9); none is UNIT_ABSENT. -/
def readLaunch (t : Tile) (q : QProg) : Option Launch := do
  let a := q.a.toNat
  let b14 := t.rd (a + 0x14) 1
  let b15 := t.rd (a + 0x15) 1
  let b16 := t.rd (a + 0x16) 1
  let wide := b16.testBit 0
  guard (a % 64 = 0 ∧ a + 64 ≤ storeSize)
  guard (fld b14 7 3 = 0 ∧ fld b15 7 3 = 0 ∧ fld b16 7 1 = 0 ∧ t.rd (a + 0x17) 0x29 = 0)
  guard ((wide ∨ fld b14 2 0 ≤ 3) ∧ fld b15 2 0 ≤ 4 ∧ t.rd (a + 0x10) 4 ≠ 0)
  some { pc := BitVec.ofNat 64 (t.rd a 8), arg := BitVec.ofNat 64 (t.rd (a + 8) 8), nblk := t.rd (a + 0x10) 4,
         bsz := fld b14 2 0 + 1, cl := fld b15 2 0, wide := wide, next := 0, seq := q.seq }

/-- No group is resident. -/
def Tile.idleGroups (t : Tile) : Bool := t.groups.toList.all Option.isNone

/-- R148, R151: the engine begins the launch at the front of its queue, one launch at a time, after the tile-store work issued before it (R111, R144). `present` tells the exposed tiles of the brick that are present, `n` this tile's number (R154). -/
def launchStart (n : Nat) (present : Nat → Bool) (t : Tile) : Tile :=
  match t.tq with
  | [] => t
  | q :: rest =>
    let t1 := { t with tq := rest }
    if !t.runs || t.launch.isSome || !t.idleGroups || t.unitsBefore q.seq then t
    else if q.a.toNat % 64 = 0 ∧ q.a.toNat + 64 ≤ storeSize ∧ creditHit q.a.toNat 64 then t1.end_ stPermission 9 1 q.a
    else match readLaunch t q with
      | none => t1.end_ stUnitAbsent 0
      | some l =>
        if l.wide && (match t.task with | some k => !k.viaPf | none => false) then t1.end_ stPermission 9 1 q.a
        else if l.wide && (t.srun.isSome || !t.sq.isEmpty) then t
        else if !((List.range (2 ^ l.cl)).all fun i => present (n / 2 ^ l.cl * 2 ^ l.cl + i)) then t1.end_ stUnitAbsent 0
        else { t1 with launch := some l }

/-- x registers of the threads of a starting group (R149): threads from index `base` of block b. -/
def startX (wide : Bool) (base b : Nat) (l : Launch) (brick tile : Nat) : SMap Word :=
  let arg := l.arg
  let row (th : Nat) : List (Nat × Word) :=
    [(1, BitVec.ofNat 64 (base + th)), (2, BitVec.ofNat 64 b), (3, arg), (4, BitVec.ofNat 64 (tile % 2 ^ l.cl)),
      (5, BitVec.ofNat 64 tile), (6, BitVec.ofNat 64 brick)].filterMap fun e => if e.2 = 0 then none else some (32 * th + e.1, e.2)
  ((List.range (threads wide)).map row).flatten

/-- R149: the next block starts when the slots are free, all its groups together. -/
def blockStart (brick tile : Nat) (t : Tile) : Tile :=
  match t.launch with
  | none => t
  | some l =>
    let free := (List.range (slots l.wide)).filter fun i => (nthV none t.groups i).isNone
    if !t.runs || decide (l.nblk ≤ l.next) || decide (free.length < l.bsz) then t
    else
      let mk (i : Nat) : Group :=
        { pc := l.pc, blk := l.next, idx := i, wide := l.wide, m := setV (.replicate 8 0) 0 (fullMask l.wide), stack := [],
          x := startX l.wide (i * threads l.wide) l.next l brick tile, f := [], bar := false }
      { t with
        launch := some { l with next := l.next + 1 }
        groups := (List.range l.bsz).foldl (fun gs i => setV gs (nthD 0 free i) (some (mk i))) t.groups }

/-- A launch whose last group has ended is complete (R149). -/
def Tile.settleLaunch (t : Tile) : Tile :=
  match t.launch with
  | some l => if l.nblk ≤ l.next ∧ t.idleGroups then { t with launch := none } else t
  | none => t

def Tile.group (t : Tile) (g : Nat) : Option Group := nthV none t.groups g
def Tile.setGroup (t : Tile) (g : Nat) (v : Option Group) : Tile := { t with groups := setV t.groups g v }

/-- R177: the group ends. -/
def Tile.endGroup (t : Tile) (g : Nat) : Tile := (t.setGroup g none).settleLaunch

def Group.mask (g : Group) (i : Nat) : Word := nthV 0 g.m i
def Group.m0 (g : Group) : Word := g.mask 0
def Group.full (g : Group) : Word := fullMask g.wide
/-- Writes m[i] over the group's thread bits. -/
def Group.setMask (g : Group) (i : Nat) (v : Word) : Group := { g with m := setV g.m i (v &&& g.full) }
/-- Active threads in ascending index. -/
def Group.active (g : Group) : List Nat := (List.range (threads g.wide)).filter fun i => g.m0.toNat.testBit i

def Group.rx (g : Group) (th r : Nat) : Word := if r = 0 then 0 else SMap.get 0 g.x (32 * th + r)
def Group.rf (g : Group) (th r : Nat) : Word := SMap.get 0 g.f (32 * th + r)
def Group.wx (g : Group) (th r : Nat) (v : Word) : Group :=
  if r = 0 then g else { g with x := SMap.put 0 g.x (32 * th + r) v }
def Group.wf (g : Group) (th r : Nat) (v : Word) : Group := { g with f := SMap.put 0 g.f (32 * th + r) v }

/-- R152: the reconvergence check at the group's program counter. -/
def reconverge (pc : Word) : List (Word × Word) → Word → List (Word × Word) × Word
  | [], m0 => ([], m0)
  | (m, r) :: st, m0 => if r = pc then reconverge pc st m else ((m, r) :: st, m0)

/-- The group goes on at pc, with the reconvergence check. -/
def Group.goto (g : Group) (pc : Word) : Group :=
  let r := reconverge pc g.stack g.m0
  { g with pc := pc, stack := r.1, m := setV g.m 0 r.2 }

/-- R156: one group of the cluster has reached its barrier, and the groups of block b at it. -/
def Tile.atBar (t : Tile) (b : Nat) : Nat :=
  (t.groups.toList.filter fun g => match g with | some g => g.blk == b && g.bar | none => false).length

/-- R156: the barrier lets the groups of block b go on. -/
def Tile.leaveBar (t : Tile) (b : Nat) : Tile :=
  { t with groups := t.groups.map fun g =>
      match g with
      | some g => some (if g.blk = b ∧ g.bar then ({ g with bar := false }).goto (g.pc + 4) else g)
      | none => none }

/-! ### Smith queues (R169) -/

/-- Every queue's next issue number. -/
def Tile.bump (t : Tile) : Tile := { t with seq := t.seq + 1 }

/-- CISSUE: none waits (R169). -/
def Tile.cissue (w : Word) (t : Tile) : Option Tile :=
  if 4 ≤ t.cq.length then none
  else some { t.bump with cq := t.cq ++ [⟨w, t.seq, t.seedC⟩], seedC := none }

/-- CVT to converter k. -/
def Tile.cvt (k : Nat) (w0 w1 : Word) (t : Tile) : Option Tile :=
  let q := nthV [] t.vq k
  if 4 ≤ q.length then none
  else some { t.bump with
    vq := setV t.vq k (q ++ [⟨w0, w1, t.seq, nthV none t.seedV k⟩])
    seedV := setV t.seedV k none }

/-- Entries of the loader queue that have not started: a begun BLD has left its entry (R169). -/
def Tile.lqWaiting (t : Tile) : Nat :=
  (t.lq.filter fun e => match e with | .bld _ _ _ d => d == 0 | .split _ _ => true).length

def Tile.wsplit (a : Word) (t : Tile) : Option Tile :=
  if 2 ≤ t.lqWaiting then none else some { t.bump with lq := t.lq ++ [.split a t.seq] }
def Tile.bld (src desc : Word) (t : Tile) : Option Tile :=
  if 2 ≤ t.lqWaiting then none else some { t.bump with lq := t.lq ++ [.bld src desc t.seq 0] }
/-- SWG: the Swage program queue holds four (R122). -/
def Tile.swg (a : Word) (rd : Nat) (t : Tile) : Option Tile :=
  if 4 ≤ t.sq.length then none else some { t.bump with sq := t.sq ++ [⟨a, rd, t.seq⟩] }
def Tile.tlaunch (a : Word) (t : Tile) : Option Tile :=
  if 2 ≤ t.tq.length then none else some { t.bump with tq := t.tq ++ [⟨a, 0, t.seq⟩] }

/-- SSEED (R92, R94): the seed replaces the tile's, and the streams restart from it for the commands issued after it. -/
def Tile.sseed (s : Word) (t : Tile) : Tile :=
  { t with seed := s, seedC := some s, seedV := t.seedV.map fun _ => some s }

/-- x registers that a Swage program reserves (R170). -/
def Tile.reserved (t : Tile) (r : Nat) : Bool :=
  decide (r ≠ 0) && ((t.sq.any fun q => q.rd == r) || (match t.srun with | some s => s.prog.rd == r | none => false))

/-- R171: the units of a WAIT mask have completed what was issued to them. -/
def Tile.unitsDone (t : Tile) (mask : Nat) : Bool :=
  (!mask.testBit 0 || (t.cq.isEmpty && t.passes.isEmpty)) &&
  (!mask.testBit 1 || t.vq.toList.all fun q => q.isEmpty) &&
  (!mask.testBit 2 || t.lq.isEmpty) &&
  (!mask.testBit 3 || (t.sq.isEmpty && t.srun.isNone)) &&
  (!mask.testBit 4 || (t.tq.isEmpty && t.launch.isNone && t.idleGroups))

/-- R162: VRD and VWR. -/
def Tile.vslot (t : Tile) (v s : Nat) : Word32 := SMap.get 0 t.v (64 * v + s % 64)
def Tile.setVslot (t : Tile) (v s : Nat) (w : Word32) : Tile := { t with v := SMap.put 0 t.v (64 * v + s % 64) w }

/-- A course when a task begins: nothing is loaded, and its three streams start from the seed (R69, R92). -/
def Tile.begunCourse (t : Tile) (seed : Word) (i : Nat) : Course :=
  { t.course i with
    live := none
    shadow := .empty
    ldr := none
    sEdge := streamInit seed (3 * i)
    sLoad := streamInit seed (3 * i + 1)
    sConv := streamInit seed (3 * i + 2) }

/-- R173, R92: the state of a tile at the moment its part of a KERNEL command begins; stores and the banks keep their bytes (R69). -/
def Tile.begin_ (t : Tile) (k : Task) (pc arg seed : Word) (tile brick part : Nat) : Tile :=
  let x := [(1, BitVec.ofNat 64 tile), (2, BitVec.ofNat 64 brick), (3, arg), (4, BitVec.ofNat 64 part)].filter fun (e : Nat × Word) => e.2 ≠ 0
  { t with
    task := some k, fin := none, kend := false, seed := seed, seedC := none, seedV := .replicate 4 none, seq := 0,
    courses := .ofFn fun (i : Fin 4) => t.begunCourse seed i.val,
    cq := [], passes := [], holds := [], vq := .replicate 4 [], lq := [], sq := [], srun := none, tq := [], launch := none,
    groups := .replicate 8 none, v := [], x := x, f := [], pc := pc, weldBound := false, restruck := 0, ev := [] }

/-- What a Swage program stopped in mid-run would have written is undefined (R145): free values from index k, and the next index. -/
def Tile.scramble (k : Nat) (t : Tile) : Tile × Nat :=
  match t.srun with
  | none => (t, k)
  | some r =>
    let w (i : Nat) : Nat := (Config.free (k + i)).toNat
    let t1 := match strmOf r.sink.toNat with
      | some s => (List.range r.n).foldl (fun t i => s.write i (w i % 2 ^ s.fmt.width) t) t
      | none => t
    let t2 := match r.fix with
      | some (a, rows, pitch, cols) => (List.range (rows * cols)).foldl
          (fun t j => t.wr (a + 4 * (j / cols * pitch + j % cols)) (bytesOf 4 (w j))) t1
      | none => t1
    let n := r.n + (match r.fix with | some (_, rows, _, cols) => rows * cols | none => 0)
    let t3 := match r.count with | some (a, _) => t2.wr a (bytesOf 4 (w n)) | none => t2
    (t3, k + n + 1)

/-- R85, R111, R145, R159: a tile whose task ends or is stopped drops every queue, pass, hold, live block and group; what reached the store and banks stays. -/
def Tile.stop (t : Tile) : Tile :=
  { t with task := none, fin := none, kend := false, cq := [], passes := [], holds := [], vq := .replicate 4 [], lq := [], sq := [],
           srun := none, tq := [], launch := none, groups := .replicate 8 none,
           courses := t.courses.map fun c => { c with live := none, shadow := .empty, ldr := none, staging := [] } }

end Sys2Proof.Machine
end

