-- ==== Sys2Proof/Machine/Parity.lean ====
section
/-! DEFINITION. Machine/Parity.lean: words of a tile's arrays with bad parity, as the units of the tile meet them (R213, R215, Table 15.1). -/

namespace Sys2Proof.Machine

open Sys2Proof

/-! ### Word numbers -/

/-- Local physical address of a tile-store byte (R229). -/
def storeAddr (k o : Nat) : Nat := 0x090000000000 + k / 128 * 2 ^ 32 + k % 128 * 2 ^ 20 + o

/-- An SRAM array of a tile: the number of its first 32-bit word and how many it has. Words of the tile store are 0 to 131,071. -/
structure Arr where
  base : Nat
  size : Nat
deriving DecidableEq, Repr

def arrStore : Arr := ⟨0, 131072⟩
def arrStat (k : Nat) : Arr := ⟨0x20000 + 0x10000 * k, 2048⟩
def arrStrm (k : Nat) : Arr := ⟨0x22000 + 0x10000 * k, 6144⟩
def arrStg (k : Nat) : Arr := ⟨0x24000 + 0x10000 * k, 4096⟩
def arrAcc (k : Nat) : Arr := ⟨0x26000 + 0x10000 * k, 4096⟩
/-- Assembler rows: one word for each of the eight entries of a row. -/
def arrAsm (k : Nat) : Arr := ⟨0x28000 + 0x10000 * k, 512⟩
/-- v0 to v31. -/
def arrV : Arr := ⟨0x60000, 2048⟩

/-- A run of bits of an array that an operation reads or writes; bit numbers wrap at the array's end. -/
structure Run where
  arr : Arr
  bit : Nat
  bits : Nat
  write : Bool
deriving DecidableEq, Repr

/-- Word x lies in the run, and where. -/
def Run.at_ (r : Run) (x : Nat) : Option Nat :=
  let w0 := r.bit / 32 % r.arr.size
  let o := (x - r.arr.base + r.arr.size - w0) % r.arr.size
  if r.arr.base ≤ x ∧ x < r.arr.base + r.arr.size ∧ 0 < r.bits ∧ 32 * o < r.bit % 32 + r.bits then some o else none

/-- Reading the run, or writing part of word x, meets the word's parity (R213). -/
def Run.meets (r : Run) (x : Nat) : Bool :=
  match r.at_ x with
  | none => false
  | some o => !r.write || decide (32 * o < r.bit % 32) || decide (r.bit % 32 + r.bits < 32 * o + 32)

/-- What a kernel fault record names for word x: a tile-store word's local physical address, any other word's byte offset within its array (Table 15.1). -/
def Run.addr (r : Run) (key x : Nat) : Word :=
  BitVec.ofNat 64 (if r.arr = arrStore then storeAddr key (4 * x) else 4 * (x - r.arr.base))

def rd8 (a : Arr) (o n : Nat) : Run := ⟨a, 8 * o, 8 * n, false⟩
def wr8 (a : Arr) (o n : Nat) : Run := ⟨a, 8 * o, 8 * n, true⟩
/-- Rows r to r + n − 1 of a file of eight words a row. -/
def rows (a : Arr) (r n : Nat) (write : Bool) : Run := ⟨a, 256 * r, 256 * n, write⟩

/-! ### What each operation reads and writes -/

/-- STATIONARY_LOAD: the block and its scale bytes in every bank that it reads. -/
def loadRuns (weld : Bool) (t : Tile) : List Run :=
  match t.passes.find? fun p => !p.loaded with
  | none => []
  | some p => match courseDecode weld p.word with
    | none => []
    | some c => (c.statBanks.map fun b =>
        rd8 (arrStat b) c.sbase c.blockBytes :: if c.fs.isT then [rd8 (arrStat b) (up64 (c.sbase + c.blockBytes)) 8] else []).flatten

/-- VECTOR_ADMISSION at course k: the vector and its scale byte, in the stroke that admits it; the staging rows that it writes. -/
def vectorRuns (weld : Bool) (k : Nat) (t t' : Tile) : List Run :=
  match t.passes.find? fun p => match courseDecode weld p.word with
      | some c => c.cmask.testBit k && !p.fedAt c k | none => false with
  | none => []
  | some p =>
    match courseDecode weld p.word with
    | none => []
    | some c =>
      match c.edgeAt k with
      | none => []
      | some i =>
        match p.edges[i]?, c.edges[i]? with
        | some e, some (_, banks, groups) =>
          let stays := t'.passes.any fun q => q.seq = p.seq && q.tries == p.tries &&
            (match q.edges[i]? with | some e' => e'.t == e.t | none => false)
          if stays || decide (c.len ≤ e.t) then []
          else
            (banks.map fun b => rd8 (arrStrm b) (c.abase + e.t * c.v) c.v) ++
              (if c.fa.isT then [rd8 (arrStrm (banks.headD 0)) (up64 (c.abase + c.len * c.v) + e.t) 1] else []) ++
              groups.map fun g => rows (arrStg g.1) ((c.accbase + e.t) % 512) 1 true
        | _, _ => []

/-- COMMIT of the front pass: its staging rows, and its accumulator rows, which add mode reads. -/
def commitRuns (weld : Bool) (t t' : Tile) : List Run :=
  match t.passes with
  | [] => []
  | p :: _ => match courseDecode weld p.word with
    | none => []
    | some c =>
      if t'.passes.length = t.passes.length then []
      else
        ((c.edges.map fun e => e.2.2.map (·.1)).flatten.map fun i =>
          [rows (arrStg i) c.accbase c.len false, rows (arrAcc i) c.accbase c.len (!c.acc)] ++
            if c.acc then [rows (arrAcc i) c.accbase c.len true] else []).flatten

/-- A converter command with operation op: accumulator and assembler rows, parameter block, exponents and outputs. -/
def convRuns (k op : Nat) (q : QConv) (t : Tile) : List Run :=
  let n := wf q.w0 50 42 + 1
  let r0 := wf q.w0 59 51
  let ar := wf q.w0 41 36
  let f := (readPar t (64 * wf q.w1 63 51)).map CPar.ofmt
  let w := match f with | some f => f.width | none => 0
  let isT := match f with | some f => f.isT | none => false
  let par := rd8 arrStore (64 * wf q.w1 63 51) 0x140
  let asm (write : Bool) : List Run := (List.range n).map fun i => ⟨arrAsm k, 256 * ((ar + i) % 64), 256, write⟩
  match op with
  | 0 =>
    if isT then
      [par, wr8 arrStore (16 * wf q.w1 50 36) (n * 32 * w / 8), wr8 arrStore (8 * wf q.w1 35 20) n] ++
        (if wb q.w0 35 then (List.range 4).map fun c => rows (arrAcc c) r0 n false
         else (List.range 4).map fun e => rows (arrAcc k) (r0 + e * wf q.w0 34 26) n false)
    else [par, rows (arrAcc k) r0 n false, ⟨arrStore, 128 * wf q.w1 50 36, 8 * n * w, true⟩]
  | 1 =>
    [rows (arrAcc k) r0 n false, rd8 arrStore (4 * wf q.w1 63 47) (4 * n), rd8 arrStore (4 * wf q.w1 46 30) 32] ++ asm false ++ asm true
  | 2 => [par, wr8 arrStore (128 * wf q.w1 50 36 / 8) (n * w)] ++ asm false ++ asm true
  | _ => asm true

/-- WSPLIT: its operand block, its source, and the digits and exponents that it writes. -/
def splitRuns (t : Tile) : List Run :=
  match t.lq with
  | .split a _ :: _ => rd8 arrStore a.toNat 64 :: match readSplit t a.toNat with
    | some b => [rd8 arrStore b.src (8 * b.r * b.ktot), wr8 arrStore b.dig (7 * b.nw * b.r * b.ktot), wr8 arrStore b.exp (4 * (b.ktot / b.kc) * b.nw * b.r)]
    | none => []
  | _ => []

/-- BLD: the units that the loader moves. -/
def bldRuns (t t' : Tile) : List Run :=
  match t.lq with
  | .bld src desc s done :: rest =>
    let len := wf desc 42 28 + 1
    let from_ := done - 1
    let upto := match t'.lq with | .bld _ _ s' done' :: _ => if s' = s ∧ t'.lq.length = rest.length + 1 then done' - 1 else (len + 63) / 64 | _ => (len + 63) / 64
    let strm := wb desc 59
    ((List.range (upto - from_)).map fun j =>
      let u := from_ + j
      let n := min 64 (len - 64 * u)
      let off := wf desc 57 43 + 64 * u
      (if wb desc 58 then (List.range n).map fun i => rd8 arrStore ((src.toNat : Int) + (64 * u + i : Nat) * sx 16 (wf desc 27 12)).toNat 1
       else [rd8 arrStore (src.toNat + 64 * u) n]) ++
        (((List.range 4).filter (wf desc 63 60).testBit).map fun c => wr8 (if strm then arrStrm c else arrStat c) off n)).flatten
  | _ => []

/-- n elements of a stream: one run where they lie side by side. -/
def Strm.runs (s : Strm) (n : Nat) (write : Bool) : List Run :=
  let w := s.fmt.width
  if !s.store then [⟨arrV, 2048 * s.addr, n * w, write⟩]
  else if s.stride = 1 then [⟨arrStore, s.addr, n * w, write⟩]
  else (List.range n).map fun (i : Nat) =>
    ⟨arrStore, ((s.addr : Nat) + (i : Int) * s.stride * w) % (storeSize * 8 : Nat) |>.toNat, w, write⟩

/-- FIXUP's operands (Table 4.6). -/
def fixupRuns (im : List Nat) (t : Tile) : List Run :=
  let g := nthD 0 im
  let wx := ((Fmt.ofCode (fld (g 5) 7 4)).getD .f32).width
  let wy := ((Fmt.ofCode (fld (g 5) 3 0)).getD .f32).width
  let side (a : Nat) : Run := rd8 arrStore a (0x10 + 8 * min (t.rd a 4) (t.rd (a + 4) 4 / 64))
  [⟨arrStore, 8 * g 0, g 11 * g 8 * wx, false⟩, ⟨arrStore, 8 * g 2, g 8 * g 9 * wy, false⟩] ++
    (if (g 5).testBit 11 then [side (g 1)] else []) ++ (if (g 5).testBit 10 then [side (g 3)] else []) ++
    (List.range (g 11)).map fun r => rd8 arrStore (g 4 + 4 * r * g 13) (4 * fld (g 12) 15 0)

/-- A Swage program that started: its block, its length word, its streams, its tables and its sink. -/
def swageRuns (lk9220 : Bool) (t t' : Tile) : List Run :=
  match t.sq, t'.srun with
  | q :: _, some r =>
    rd8 arrStore q.a.toNat 192 :: match readProg lk9220 t q.a.toNat with
    | none => []
    | some p =>
      if (p.stages.headD (stgOf 0)).op = 0x38 then fixupRuns p.imm t
      else
        let cnt := if p.lenind then min (t.rd p.lenaddr 4) 131072 else p.len
        (if p.lenind then [rd8 arrStore p.lenaddr 4] else []) ++
          ((List.range 3).map fun i => if p.uses i then (match strmOf (nthD 0 p.streams i) with | some s => s.runs cnt false | none => []) else []).flatten ++
          (p.stages.filter fun s => s.op = 0x30).map (fun s => ⟨arrStore, 8 * s.taddr, nthD 0 p.imm s.ia * p.ct.width, false⟩) ++
          (match strmOf (nthD 0 p.streams 3) with | some s => s.runs r.n true | none => [])
  | _, _ => []

/-- SWAGE_PROGRAM_COMPLETE: the count word. -/
def countRuns (t : Tile) : List Run :=
  match t.srun with | some r => (match r.count with | some (a, _) => [wr8 arrStore a 4] | none => []) | none => []

/-- THREAD_LAUNCH_START: the launch block. -/
def launchRuns (t : Tile) : List Run := match t.tq with | q :: _ => [rd8 arrStore q.a.toNat 64] | [] => []

/-! ### The check -/

/-- The words that an operation writes have fresh parity afterwards (R213). -/
def Tile.freshen (rs : List Run) (t : Tile) : Tile :=
  { t with bad := t.bad.filter fun x => !(rs.any fun r => r.write && (r.at_ x).isSome) }

/-- R213, R215: a unit's operation f under the parity of the words that it reads, or writes in part: the first bad one ends the task with its address. A read error keeps the operation from its effect; a partial write has it. -/
def parity (key unit : Nat) (rs : Tile → Tile → List Run) (f : Tile → Tile) (t : Tile) : Tile :=
  let t' := f t
  if t.bad.isEmpty || decide (t' = t) || t'.fin.isSome then t'
  else
    let runs := rs t t'
    let hit (p : Run → Bool) : Option Word :=
      (runs.filter p).findSome? fun r => (t.bad.find? r.meets).map (r.addr key)
    match hit fun r => !r.write with
    | some a => t.end_ stDetected 4 unit a
    | none => match hit Run.write with
      | some a => (t'.freshen runs).end_ stDetected 4 unit a
      | none => t'.freshen runs

/-- A converter operation under the parity of its rows, blocks and outputs. -/
def parConv (key k op : Nat) (f : Tile → Tile) (t : Tile) : Tile :=
  match convReady t k op with
  | none => f t
  | some q => parity key 4 (fun t _ => convRuns k op q t) f t

end Sys2Proof.Machine
end

