-- ==== Sys2Proof/Machine/MemState.lean ====
section
/-! DEFINITION. Machine/MemState.lean: the tiers, the Yard, the Hearth, the Anvil caches and the credit windows as data, with what each does alone (chapters 06 and 07). -/

namespace Sys2Proof.Machine

open Sys2Proof

/-- A valid way of the Hearth (R206, R210): line number L, key ID, dirty, the partition that locked it, and its age for LRU (R209). -/
structure HLine where
  line : Nat
  kid : Nat
  dirty : Bool
  locked : Option Nat
  age : Nat
deriving DecidableEq, Repr

/-- A tracker of the streaming-store detector (R211): line, key ID, run count; most recent first in its list. -/
structure Trk where
  line : Nat
  kid : Nat
  c : Nat
deriving DecidableEq, Repr

/-- A line in an Anvil core's caches (R222): OWNED or SHARED, dirty, and its 128 bytes. -/
structure CLine where
  line : Nat
  kid : Nat
  owned : Bool
  dirty : Bool
  data : List Byte
deriving DecidableEq, Repr

/-- Who sends a credited write: a local command's row, or a remote package's request (R202, R368). -/
inductive Who where
  | cmd (c : CmdRef) (row : Nat)
  | remote (pkg : BitVec 16) (tid : BitVec 16)
deriving DecidableEq, Repr

/-- A credited write: waiting, or granted from ring index `start` (R202). -/
structure CReq where
  who : Who
  bytes : Nat
  data : List Byte
  start : Nat
  /-- All its bytes are in the bank (R203). -/
  written : Bool
deriving DecidableEq, Repr

/-- A credit counter (Table 6.3) with its internal values and queue (R201, R202). -/
structure Win where
  en : Bool
  len : Nat
  base : Nat
  landed : Nat
  rp : Nat
  tp : Nat
  taken : Nat
  outst : Nat
  badcfg : Bool
  badrel : Bool
  badwr : Bool
  queue : List CReq
  granted : List CReq
  /-- An accepted CFG write that waits until OUTST is 0 (R201). -/
  cfg : Option Word
deriving DecidableEq, Repr

def Win.off : Win :=
  { en := false, len := 0, base := 0, landed := 0, rp := 0, tp := 0, taken := 0, outst := 0, badcfg := false, badrel := false,
    badwr := false, queue := [], granted := [], cfg := none }

/-- CC0 to CC3 of a tile at reset (R200). -/
def Win.bank : Win := { Win.off with en := true, len := 96 }

/-- R201: FREE = LEN − TAKEN. -/
def Win.free (w : Win) : Nat := w.len - w.taken

/-- The memory side of the package. -/
structure Mem where
  /-- Tier bytes by local address, and the key generation each was written under (R237, R239). -/
  dram : SMap Byte
  dkey : SMap Nat
  /-- Poisoned lines of the tiers, by line number (R214, R234). -/
  poison : SMap Nat
  /-- Yard bytes by offset, and words with bad parity (R196, R213). -/
  yard : SMap Byte
  yardBad : SMap Nat
  /-- Host memory by bus address: what the host window reaches (R245). -/
  host : SMap Byte
  /-- Hearth ways by (slice · 2048 + set) · 16 + way (R206). -/
  hearth : SMap HLine
  hclock : Nat
  /-- Trackers by requester port (R211). -/
  trk : SMap (List Trk)
  /-- Lines in each Anvil core's caches, by core (R222). -/
  caches : SMap (List CLine)
  /-- Predictor counters by 256 · core + index (R228). -/
  pred : SMap Nat
  /-- Core + 1 of the last AMO to a line while no other access intervened (R228). -/
  lastAmo : SMap Nat
  /-- MEM_HEARTH_CTL (Table 6.4). -/
  streamThr : Nat
  lockw : Nat
  flush : Bool
  /-- MEM_HEARTH_STAT.LOCK_REFUSED (Table 6.5). -/
  lockRefused : Nat
  /-- MEM_SRAM_ERR (Table 6.6). -/
  errTile : Nat
  errYard : Nat
  errRefetch : Nat
  errPoison : Nat
  /-- COH_CTL.AMODE (Table 6.7). -/
  amode : Nat
deriving DecidableEq, Repr

def Mem.clear : Mem :=
  { dram := [], dkey := [], poison := [], yard := [], yardBad := [], host := [], hearth := [], hclock := 0, trk := [],
    caches := [], pred := [], lastAmo := [], streamThr := 64, lockw := 0, flush := false, lockRefused := 0, errTile := 0,
    errYard := 0, errRefetch := 0, errPoison := 0, amode := 0 }

/-! ### Tier bytes -/

/-- A tier byte under a key generation: bytes written under another one read as noise (R239). -/
def Mem.byte (m : Mem) (ep a : Nat) : Byte :=
  if SMap.get 0 m.dkey a = ep then SMap.get 0 m.dram a else Config.noise ep a

def Mem.setByte (m : Mem) (ep a : Nat) (b : Byte) : Mem :=
  { m with dram := SMap.put 0 m.dram a b, dkey := SMap.put 0 m.dkey a ep }

def Mem.tierBytes (m : Mem) (ep a n : Nat) : List Byte := (List.range n).map fun i => m.byte ep (a + i)

def Mem.setTier (m : Mem) (ep : Nat) : Nat → List Byte → Mem
  | _, [] => m
  | a, b :: bs => Mem.setTier (m.setByte ep a b) ep (a + 1) bs

/-! ### The Hearth (R206 to R211) -/

/-- R206: the slice of a line. -/
def hSlice (l : Nat) : Nat :=
  fld l 5 0 ^^^ fld l 11 6 ^^^ fld l 17 12 ^^^ fld l 23 18 ^^^ fld l 29 24 ^^^ fld l 35 30 ^^^ fld l 40 36

/-- R206: the set of a line within its slice. -/
def hSet (l : Nat) : Nat := fld l 16 6 ^^^ fld l 27 17 ^^^ fld l 38 28 ^^^ fld l 40 39

def HLine.none_ : HLine := ⟨0, 0, false, none, 0⟩

/-- Key of way w of the line's set. -/
def hKey (l w : Nat) : Nat := (hSlice l * 2048 + hSet l) * 16 + w

/-- Key of an entry in the table itself, if way w holds a line. -/
def Mem.hWay (m : Mem) (k : Nat) : Option HLine := (m.hearth.find? fun e => e.1 = k).map (·.2)

/-- The way that holds a line, whatever its key ID. -/
def Mem.hFind (m : Mem) (l : Nat) : Option (Nat × HLine) :=
  ((List.range 16).filterMap fun w => (m.hWay (hKey l w)).map fun h => (hKey l w, h)).find? fun e => e.2.line = l

/-- Ordinary ways are those below 16 − LOCKW (R210). -/
def Mem.ordWays (m : Mem) : Nat := 16 - min m.lockw 12

/-- R209: the lowest invalid ordinary way, else the least recently used unlocked one. -/
def Mem.victim (m : Mem) (l : Nat) : Option Nat :=
  let ws := (List.range m.ordWays).map fun w => (w, m.hWay (hKey l w))
  match ws.find? fun e => e.2.isNone with
  | some e => some e.1
  | none =>
    (ws.foldl (fun (a : Option (Nat × Nat)) e => match e.2 with
      | some h => if h.locked.isSome then a else
          match a with | some b => if h.age < b.2 then some (e.1, h.age) else a | none => some (e.1, h.age)
      | none => a) none).map (·.1)

def Mem.hPut (m : Mem) (k : Nat) (h : HLine) : Mem :=
  { m with hearth := SMap.ins (SMap.del m.hearth k) k { h with age := m.hclock }, hclock := m.hclock + 1 }

/-- One access of a line by key ID (R207, R208): hit, key mismatch, or miss with or without allocation. -/
def Mem.hAccess (m : Mem) (l kid : Nat) (write alloc : Bool) : Mem :=
  let miss (m : Mem) : Mem :=
    if !alloc then m
    else match m.victim l with
      | some w => m.hPut (hKey l w) ⟨l, kid, write, none, 0⟩
      | none => m
  match m.hFind l with
  | some (k, h) => if h.kid = kid then m.hPut k { h with dirty := h.dirty || write } else miss { m with hearth := SMap.del m.hearth k }
  | none => miss m

/-- R211, R212: the threshold in force. -/
def Mem.thr (m : Mem) : Nat := if m.streamThr = 0 then 0 else max 8 m.streamThr

/-- R211: a full-line write goes through its port's trackers; it answers the run count. -/
def trkFull (l kid : Nat) (ts : List Trk) : List Trk × Nat :=
  match ts.find? fun t => t.line + 1 = l ∧ t.kid = kid with
  | some t => (⟨l, kid, t.c + 1⟩ :: (ts.filter fun u => u ≠ t), t.c + 1)
  | none => ((⟨l, kid, 1⟩ :: ts).take 4, 1)

def trkPartial (l : Nat) (ts : List Trk) : List Trk := ts.map fun t => if t.line = l then { t with c := 0 } else t

/-- A write of one line's part through the Hearth: detector, allocation, poison (R208, R211). -/
def Mem.hWrite (m : Mem) (port l kid : Nat) (full : Bool) : Mem :=
  let ts := SMap.get [] m.trk port
  if full then
    let r := trkFull l kid ts
    let m := { m with trk := SMap.put [] m.trk port r.1, poison := SMap.put 0 m.poison l 0 }
    m.hAccess l kid true (m.thr = 0 || decide (r.2 ≤ m.thr))
  else ({ m with trk := SMap.put [] m.trk port (trkPartial l ts) }).hAccess l kid true true

/-- Lines that a byte run touches. -/
def linesOf (a n : Nat) : List Nat := if n = 0 then [] else (List.range ((a + n - 1) / 128 - a / 128 + 1)).map (a / 128 + ·)

def Mem.poisoned (m : Mem) (a n : Nat) : Option Nat := (linesOf a n).find? fun l => SMap.get 0 m.poison l ≠ 0

/-- Any access ends a same-core AMO run on its lines (R228). -/
def Mem.touch (m : Mem) (a n : Nat) : Mem := { m with lastAmo := (linesOf a n).foldl (fun t l => SMap.put 0 t l 0) m.lastAmo }

/-- A write at the home by a non-coherent agent or a cache write-back (R208, R225). -/
def Mem.homeWrite (m : Mem) (port kid ep a : Nat) (bs : List Byte) : Mem :=
  let m := (linesOf a bs.length).foldl
    (fun m l => m.hWrite port l kid (decide (a ≤ 128 * l) && decide (128 * l + 128 ≤ a + bs.length))) (m.touch a bs.length)
  m.setTier ep a bs

/-- A read at the home: the Hearth allocates, the bytes come under the reader's key (R207, R208). -/
def Mem.homeRead (m : Mem) (kid ep a n : Nat) : Mem × List Byte :=
  ((linesOf a n).foldl (fun m l => m.hAccess l kid false true) (m.touch a n), m.tierBytes ep a n)

/-- R210: unlocks and invalidates the locked lines that p selects. -/
def Mem.unlock (m : Mem) (p : HLine → Bool) : Mem :=
  { m with hearth := m.hearth.filter fun e => !(e.2.locked.isSome && p e.2) }

def Mem.lockedCount (m : Mem) : Nat := (m.hearth.filter fun e => e.2.locked.isSome).length
def Mem.lockedOf (m : Mem) (n : Nat) : Nat := (m.hearth.filter fun e => e.2.locked = some n).length

/-- R210, R260 LOCK: loads a line and locks it in a lock way of its set, or loads it unlocked and counts the refusal. -/
def Mem.lock (m : Mem) (l kid part quota : Nat) : Mem :=
  match m.hFind l with
  | some (_, h) =>
    if h.locked.isSome ∧ h.kid = kid then m else go { m with hearth := m.hearth.filter fun e => e.2.line ≠ l }
  | none => go m
where
  go (m : Mem) : Mem :=
    let free := (List.range 16).find? fun w => decide (m.ordWays ≤ w) && (m.hWay (hKey l w)).isNone
    match free with
    | some w =>
      if m.lockedOf part < quota then m.hPut (hKey l w) ⟨l, kid, false, some part, 0⟩ else refuse m
    | none => refuse m
  refuse (m : Mem) : Mem := ({ m with lockRefused := sat 20 (m.lockRefused + 1) }).hAccess l kid false true

/-- R260 CLEAN, R212 FLUSH: the selected dirty lines become clean and stay valid. -/
def Mem.hClean (m : Mem) (p : HLine → Bool) : Mem :=
  { m with hearth := m.hearth.map fun e => (e.1, if p e.2 then { e.2 with dirty := false } else e.2) }

/-- Lines that p selects leave the Hearth after any write-back (R259). -/
def Mem.hDrop (m : Mem) (p : HLine → Bool) : Mem := { m with hearth := m.hearth.filter fun e => !p e.2 }

/-! ### Anvil caches (R222 to R228) -/

def Mem.cache (m : Mem) (core : Nat) : List CLine := SMap.get [] m.caches core
def Mem.cLine (m : Mem) (core l : Nat) : Option CLine := (m.cache core).find? fun c => c.line = l

/-- Cores that hold a line: its directory entry (R222). -/
def Mem.holders (m : Mem) (l : Nat) : List Nat :=
  (m.caches.filter fun e => e.2.any fun c => c.line = l).map (·.1)

def Mem.setCache (m : Mem) (core : Nat) (ls : List CLine) : Mem := { m with caches := SMap.put [] m.caches core ls }

/-- Removes a line from a core's caches. -/
def Mem.cDrop (m : Mem) (core l : Nat) : Mem := m.setCache core ((m.cache core).filter fun c => c.line ≠ l)

/-- Writes a dirty line of a core to the home under the line's own key ID, `ep` giving the generation of a key ID; the whole 128 bytes go (R186, R221). -/
def Mem.cWriteBack (m : Mem) (ep : Nat → Nat) (core l : Nat) : Mem :=
  match m.cLine core l with
  | some c =>
    if c.dirty then
      (m.homeWrite (200 + core) c.kid (ep c.kid) (128 * l) c.data).setCache core
        ((m.cache core).map fun d => if d.line = l then { d with dirty := false } else d)
    else m
  | none => m

/-- A line leaves a core, written back if it is dirty (R222). -/
def Mem.cEvict (m : Mem) (ep : Nat → Nat) (core l : Nat) : Mem := (m.cWriteBack ep core l).cDrop core l

/-- Recalls a line from every core: dirty copies go home, every copy is invalidated (R227, R224). -/
def Mem.recall (m : Mem) (ep : Nat → Nat) (l : Nat) : Mem := (m.holders l).foldl (fun m c => m.cEvict ep c l) m

/-- Copies of a line under another key ID go home under their own and are invalidated (R221). -/
def Mem.purge (m : Mem) (ep : Nat → Nat) (kid l : Nat) : Mem :=
  ((m.holders l).filter fun o => (m.cLine o l).any fun c => c.kid ≠ kid).foldl (fun m c => m.cEvict ep c l) m

/-- Lines a level-2 cache holds: 1 MiB of 128-byte lines. -/
def l2Lines : Nat := 8192

/-- The other lines whose directory entries share the set of a line (R222: 16 ways, the slice and the set function of R206). -/
def Mem.dirSet (m : Mem) (l : Nat) : List Nat :=
  ((m.caches.map fun e => e.2.map (·.line)).flatten.filter fun x => x ≠ l ∧ hSlice x = hSlice l ∧ hSet x = hSet l).eraseDups

/-- The element of a list that a free choice picks. -/
def pickOf (f : List Nat → Nat) (ls : List Nat) : Nat := nthD 0 ls (f ls % max 1 ls.length)

/-- A new line: where the cache or the directory set is full, a line of a free choice leaves it first (R222, R224, log 24). -/
def Mem.cInsert (m : Mem) (ep : Nat → Nat) (core : Nat) (c : CLine) : Mem :=
  let own := ((m.cache core).map (·.line)).filter fun x => x ≠ c.line
  let m := if own.length < l2Lines then m else m.cEvict ep core (pickOf Config.cacheVictim own)
  let set := m.dirSet c.line
  let m := if set.length < 16 then m else m.recall ep (pickOf Config.directoryVictim set)
  m.setCache core (c :: (m.cache core).filter fun d => d.line ≠ c.line)

/-- R223: a core gains a readable copy of a line. -/
def Mem.cRead (m : Mem) (kid : Nat) (ep : Nat → Nat) (core l : Nat) : Mem × List Byte :=
  let m := m.purge ep kid l
  match m.cLine core l with
  | some c => (m, c.data)
  | none => fetch m
where
  fetch (m : Mem) : Mem × List Byte :=
    match (m.holders l).filterMap (fun o => (m.cLine o l).map fun c => (o, c)) |>.find? (fun e => e.2.owned) with
    | some (o, c) =>
      let m := m.cWriteBack ep o l
      let m := m.setCache o ((m.cache o).map fun d => if d.line = l then { d with owned := false } else d)
      (m.cInsert ep core ⟨l, kid, false, false, c.data⟩, c.data)
    | none =>
      let r := m.homeRead kid (ep kid) (128 * l) 128
      (r.1.cInsert ep core ⟨l, kid, (m.holders l).isEmpty, false, r.2⟩, r.2)

/-- R223: a core gains a line in OWNED state: its data, and whether it came from or was taken off another core, or was already owned here. -/
def Mem.cOwn (m : Mem) (kid : Nat) (ep : Nat → Nat) (core l : Nat) : Mem × List Byte × Bool × Bool :=
  let m := m.purge ep kid l
  match m.cLine core l with
  | some c =>
    if c.owned then (m, c.data, false, true)
    else
      let others := (m.holders l).filter fun o => o ≠ core
      let m := others.foldl (fun m o => m.cDrop o l) m
      (m.setCache core ((m.cache core).map fun d => if d.line = l then { d with owned := true } else d), c.data,
        !others.isEmpty, false)
  | none => take m
where
  take (m : Mem) : Mem × List Byte × Bool × Bool :=
    let os := m.holders l
    let own := os.filterMap (fun o => (m.cLine o l).map fun c => (o, c)) |>.find? (fun e => e.2.owned)
    let r := match own with
      | some e => (m, e.2.data)
      | none => m.homeRead kid (ep kid) (128 * l) 128
    let dirty := match own with | some e => e.2.dirty | none => false
    let m := os.foldl (fun m o => m.cDrop o l) r.1
    (m.cInsert ep core ⟨l, kid, true, dirty, r.2⟩, r.2, !os.isEmpty, false)

/-- Replaces bytes of a run. -/
def patch (base : List Byte) (o : Nat) (bs : List Byte) : List Byte := base.take o ++ bs ++ base.drop (o + bs.length)

/-- A store of one naturally aligned word or vector part within a line into an owned line. -/
def Mem.cStore (m : Mem) (kid : Nat) (ep : Nat → Nat) (core a : Nat) (bs : List Byte) : Mem :=
  let l := a / 128
  let r := m.cOwn kid ep core l
  let m := r.1.setCache core ((r.1.cache core).map fun d =>
    if d.line = l then { d with dirty := true, data := patch d.data (a % 128) bs } else d)
  m.touch a bs.length

/-- Predictor index of a line (R228). -/
def predIdx (l : Nat) : Nat := fld l 7 0 ^^^ fld l 15 8

def Mem.predUpd (m : Mem) (core l : Nat) (up : Bool) : Mem :=
  { m with pred := SMap.upd 0 m.pred (256 * core + predIdx l) fun c => if up then min 3 (c + 1) else c - 1 }

/-! ### Credit windows (R201 to R205) -/

/-- Granules of a write of b bytes (R202). -/
def granules (b : Nat) : Nat := (b + 255) / 256

/-- R201: applies an accepted CFG word once OUTST is 0; requests too large for the new ring fail and are answered. -/
def Win.apply (w : Win) : Win × List CReq :=
  match w.cfg with
  | none => (w, [])
  | some v =>
    if w.outst ≠ 0 then (w, [])
    else
      let en := wb v 63
      let len := wf v 31 16
      let bad := if en then w.queue.filter fun r => decide (len < granules r.bytes) else w.queue
      ({ w with en := en, len := len, base := wf v 15 0, landed := 0, rp := 0, tp := 0, taken := 0, cfg := none,
                queue := w.queue.filter fun r => !bad.contains r }, bad)

/-- R201: a CFG write; `usable` is the granules of the receiver. Requests that fail are answered. -/
def Win.cfgWrite (w : Win) (usable : Nat) (fixed : Bool) (v : Word) : Win × List CReq :=
  if fixed then (w, [])
  else if wb v 63 ∧ (wf v 31 16 = 0 ∨ usable < wf v 15 0 + wf v 31 16) then ({ w with badcfg := true }, [])
  else
    let gone := if wb v 63 then [] else w.queue
    let r := ({ w with cfg := some v, en := w.en && wb v 63, queue := if wb v 63 then w.queue else [] }).apply
    (r.1, gone ++ r.2)

/-- R202: a request arrives; it fails at once on a disabled window or when it cannot ever fit. -/
def Win.request (w : Win) (r : CReq) : Win × Bool :=
  if !w.en || decide (w.len < granules r.bytes) then (w, false) else ({ w with queue := w.queue ++ [r] }, true)

/-- R202: the oldest request is granted once FREE covers it and `held` does not block its granules. -/
def Win.grant (w : Win) (held : Nat → Nat → Bool) : Win :=
  match w.queue with
  | [] => w
  | r :: rest =>
    let g := granules r.bytes
    if !w.en || w.cfg.isSome || decide (w.free < g) || held w.tp g then w
    else { w with queue := rest, granted := w.granted ++ [{ r with start := w.tp }], tp := (w.tp + g) % w.len,
                  taken := w.taken + g, outst := w.outst + g }

/-- R203: the first granted row lands. -/
def Win.land (w : Win) : Win × List CReq :=
  match w.granted with
  | [] => (w, [])
  | r :: rest =>
    ({ w with granted := rest, landed := (w.landed + 1) % 2 ^ 32, outst := w.outst - granules r.bytes }).apply

/-- R203: a release of n granules. -/
def Win.release (w : Win) (n : Nat) : Win :=
  let k := min n (w.taken - w.outst)
  { w with rp := if w.len = 0 then 0 else (w.rp + k) % w.len, taken := w.taken - k, badrel := w.badrel || decide (k < n) }

/-- The STAT word (Table 6.3). -/
def Win.stat (w : Win) : Word :=
  pack [(w.rp, 48), (w.free, 32), (w.outst, 16), (b2n w.badcfg, 2), (b2n w.badrel, 1), (b2n w.badwr, 0)]

def Win.cfgWord (w : Win) : Word := pack [(b2n w.en, 63), (w.len, 16), (w.base, 0)]

/-- Byte address (from the start of the receiver) of byte i of a row granted at ring index `start` (R202 step 5). -/
def Win.byteAt (w : Win) (start i : Nat) : Nat :=
  256 * w.base + (256 * start + i) % (256 * max 1 w.len)

/-- An enabled window covers a byte of the receiver (R204). -/
def Win.covers (w : Win) (a n : Nat) : Bool :=
  w.en && decide (0 < n) && decide (a < 256 * (w.base + w.len)) && decide (256 * w.base < a + n)

/-! ### Physical addresses (Table 7.1) -/

/-- Where a local address lies. -/
inductive Place where
  | ftier (site : Nat)
  | dtier (site : Nat)
  | yard (off : Nat)
  | store (brick tile off : Nat)
  | priv (off : Nat)
  | unpriv (n off : Nat)
  | host (off : Nat)
  | reserved
deriving DecidableEq, Repr

/-- R229, Table 7.1. -/
def place (a : Nat) : Place :=
  if a < 0xC000000000 then .ftier (a / 0x800000000)
  else if a < 0x10000000000 then .reserved
  else if a < 0x24000000000 then .dtier ((a - 0x10000000000) / 0x800000000)
  else if a < 0x80000000000 then .reserved
  else if a < 0x80100000000 then .yard (a - 0x80000000000)
  else if a < 0x90000000000 then .reserved
  else if a < 0x94000000000 then
    let o := a - 0x90000000000
    if o % 2 ^ 20 < 0x80000 then .store (o / 2 ^ 32) (o / 2 ^ 20 % 4096) (o % 2 ^ 20) else .reserved
  else if a < 0xF0000000000 then .reserved
  else if a < 0xF0004000000 then .priv (a - 0xF0000000000)
  else if a < 0xF0006000000 then .unpriv ((a - 0xF0004000000) / 0x100000) ((a - 0xF0004000000) % 0x100000)
  else if a < 0x800000000000 then .reserved
  else .host (a - 0x800000000000)

end Sys2Proof.Machine
end

