-- ==== Sys2Proof/Machine/TongsState.lean ====
section
/-! DEFINITION. Machine/TongsState.lean: what the Tongs keeps: brick roles and power states, messages, and each partition's serving block (chapter 08). -/

namespace Sys2Proof.Machine

open Sys2Proof

/-- A brick by physical ID (Table 8.1, R288, R291). -/
structure Brick where
  role : Nat
  /-- Role epoch, modulo 2^12. -/
  epoch : Nat
  /-- 0 LIT, 1 BANKING, 2 BANKED, 3 COLD. -/
  pstate : Nat
  /-- Time of the last role change (R263), if any. -/
  roleAt : Option Nat
  /-- Since when it has been IDLE with no task, or has been BANKED (Table 8.11). -/
  since : Nat
deriving DecidableEq, Repr

/-- The memory side of a Mortar region (R291). -/
structure MemSide where
  pstate : Nat
  since : Nat
deriving DecidableEq, Repr

/-- TNG_REQ (Table 8.2). -/
structure TngReq where
  go : Bool
  err : Bool
  kind : Nat
  target : Nat
  pstate : Nat
  role : Nat
deriving DecidableEq, Repr

/-- What a dispatch message carries (R288): a task for a tile, or a span for a brick. -/
inductive Load where
  | task (t : Task)
  | span (part node item span : Nat)
deriving DecidableEq, Repr

/-- A dispatch message: logical brick, tile, the epoch it carries, its re-resolutions so far (R288, R289). -/
structure Msg where
  load : Load
  brick : Nat
  tile : Nat
  epoch : Nat
  tries : Nat
deriving DecidableEq, Repr

/-- A billet that the Tongs has allocated (R269, R284). -/
structure Billet where
  slot : Nat
  /-- Billet index b and layer l within the sequence. -/
  b : Nat
  layer : Nat
  /-- Level 0 to 3, and its local address (Table 8.6). -/
  level : Nat
  loc : Nat
  heat : Nat
deriving DecidableEq, Repr

/-- An item of a batch list (Table 8.8). -/
structure BItem where
  slot : Nat
  gen : Nat
  decode : Bool
  ntok : Nat
  pos : Nat
  tokoff : Nat
  btab : Word
deriving DecidableEq, Repr

/-- A node of the running graph: 0 not started, 1 running, 2 completed with a status. -/
structure NodeRun where
  phase : Nat
  status : Nat
  /-- Spans already run, of an ATTEND node, as (item, span) pairs, and the number of its spans. -/
  spans : List (Nat × Nat)
  nspan : Nat
  /-- Its 64 bytes and its successors, as read when the graph started (R279). -/
  desc : List Byte
  succ : List Nat
  /-- Predecessors that have completed. -/
  met : Nat
  /-- An ATTEND node's attend block, as read at its start (Table 8.10). -/
  att : List Byte
deriving DecidableEq, Repr

/-- The STEP that a partition runs (R275 to R280). -/
structure StepRun where
  cmd : CmdRef
  batch : Word
  items : List BItem
  nodes : List NodeRun
deriving DecidableEq, Repr

/-- A partition's serving block (Table 8.7) with the Tongs' own records for it. -/
structure Tng where
  seqbase : Word
  seqcap : Nat
  bfmt : Nat
  hq : Nat
  hkv : Nat
  dhc : Nat
  nlayer : Nat
  graph : Word
  maxtok : Nat
  chunk : Nat
  maxbatch : Nat
  span : Nat
  biltile : Nat
  bilyard : Nat
  stepno : Nat
  active : Nat
  slagcnt : Nat
  rolefail : Nat
  badcfg : Bool
  /-- Scan cursor (R276). -/
  cursor : Nat
  billets : List Billet
  /-- Heats and tier preferences of pool pages by page number VA / 2 MiB (R284, R260): 1 F, 2 D. -/
  heats : SMap Nat
  prefs : SMap Nat
  run : Option StepRun
  /-- Window of R287: STEPs completed in it, and windows to skip. -/
  winSteps : Nat
  cool : Nat
deriving DecidableEq, Repr

def Tng.reset : Tng :=
  { seqbase := 0, seqcap := 0, bfmt := 5, hq := 0, hkv := 0, dhc := 0, nlayer := 0, graph := 0, maxtok := 0, chunk := 512,
    maxbatch := 4096, span := 64, biltile := 0, bilyard := 0, stepno := 0, active := 0, slagcnt := 0, rolefail := 0,
    badcfg := false, cursor := 0, billets := [], heats := [], prefs := [], run := none, winSteps := 0, cool := 0 }

/-- The package's one Tongs. -/
structure Tongs where
  bricks : SMap Brick
  regions : SMap MemSide
  req : TngReq
  /-- TNG_PWRCTL (Table 8.12). -/
  coldms : Nat
  bankus : Nat
  /-- Dispatch messages on their way to a hub, and the slag queue (R288). -/
  inflight : List Msg
  slag : List Msg
  /-- Spans that a brick's hub has taken (R281, R288). -/
  spans : List Msg
  /-- Domains for which address-routed traffic waits (R292). -/
  want : List PDom
  /-- The ready task of each tile's dispatch arbiter, by tile key (R267). -/
  ready : SMap (List Task)
deriving DecidableEq, Repr

def Brick.off : Brick := { role := 7, epoch := 0, pstate := 3, roleAt := none, since := 0 }
def MemSide.lit : MemSide := { pstate := 0, since := 0 }

def Tongs.reset : Tongs :=
  { bricks := [], regions := [], req := ⟨false, false, 0, 0, 0, 0⟩, coldms := 1000, bankus := 0, inflight := [], slag := [], spans := [],
    want := [], ready := [] }

end Sys2Proof.Machine
end

