-- ==== Sys2Proof/Machine/CmdState.lean ====
section
/-! DEFINITION. Machine/CmdState.lean: commands, queues, partitions, barriers, counters, trace and hang rings as data (chapters 10, 11 and 15). -/

namespace Sys2Proof.Machine

open Sys2Proof

/-- Where a translated access goes (R230, R368). -/
inductive Acc where
  | loc (a : Nat)
  | host (bus : Nat)
  | remote (pkg addr : Nat)
  | bad (kind : Nat)
  /-- It waits by handshake: its domain is not LIT (R292). -/
  | wait
deriving DecidableEq, Repr

/-- A row that has been translated and is being read or written (R249). -/
structure RowBuf where
  row : Nat
  /-- Its destination address. -/
  dva : Nat
  /-- Pieces of its destination, in order, with their lengths; empty for a credited write. -/
  dst : List (Acc × Nat)
  /-- Remote responses outstanding. -/
  need : Nat
  data : List Byte
  /-- The row counter to add to, translated with the row (CNT = 1). -/
  ctr : Option Acc
  /-- All its bytes have been read, and its credited write has been requested. -/
  read : Bool
  asked : Bool
deriving DecidableEq, Repr

/-- Progress of a MOVE or COPY (R249, R252, R253). -/
structure MoveRun where
  /-- Next row to start, and rows delivered and counted. -/
  next : Nat
  delivered : Nat
  /-- Rows in progress, and rows whose bytes are all written and that are not delivered yet. -/
  bufs : List RowBuf
  wrote : List (Nat × Option Acc)
  /-- Runs read and written so far: write, row, key, length (R250). -/
  marks : List (Bool × Nat × Nat × Nat)
  /-- Row `next` has met an ending fault: no row at or after it starts; the status the command ends with. -/
  stop : Option Nat
  /-- A parked MOVE's deadline (R253), in the time of the model. -/
  parked : Option Nat
  fgen : Nat
deriving DecidableEq, Repr

def MoveRun.init : MoveRun := ⟨0, 0, [], [], [], none, none, 0⟩

/-- One task of a KERNEL command or of a node of a step graph (R265, R267). -/
structure TRun where
  task : Task
  /-- Key of its tile: logical brick · 128 + tile. -/
  tile : Nat
  /-- 0 dispatched or ready, 1 granted and running, 2 ended. -/
  phase : Nat
  status : Nat
  wbound : Bool
deriving DecidableEq, Repr

/-- The fault that ended a task, for its kernel fault entry (Table 15.2). -/
structure KFault where
  reason : Nat
  unit : Nat
  tile : Nat
  thread : Nat
  insn : Nat
  pc : Word
  addr : Word
  layer : Nat
  oper : Nat
deriving DecidableEq, Repr

/-- What a waiting command has reached; the meaning of `n` is the command's own. -/
inductive Phase where
  /-- Accepted, not started. -/
  | waiting
  /-- Running. -/
  | running
  /-- BARRIER or SNAPSHOT counted at its combining point (R373). -/
  | arrived
  /-- SNAPSHOT holding and draining, then copying (R377). -/
  | draining
  | copying
  /-- DUMP armed, then fired (R466). -/
  | armed
  | fired
  /-- Completed; its record waits to be written (R342). -/
  | done
deriving DecidableEq, Repr

/-- An accepted command (R340): its slot is reserved until its record has been written. -/
structure Cmd where
  ref : CmdRef
  /-- The partition for which it acts. -/
  part : Nat
  desc : List Byte
  at_ : Nat
  /-- Counter set and first latch (R460). -/
  cset : Nat
  latch : List Word
  phase : Phase
  status : Nat
  reason : Nat
  wbound : Bool
  nospace : Bool
  doneAt : Nat
  /-- Second latch minus the first, taken at completion. -/
  delta : List Nat
  /-- Marked by a CANCEL (R294). -/
  marked : Bool
  /-- Attempts of the whole command that were re-struck (R37, R215). -/
  restruck : Nat
  /-- Tasks have been placed (R265). -/
  placed : Bool
  tasks : List TRun
  move : MoveRun
  /-- Commands held back by this DUMP (R466), or commands that a CANCEL waits for (R294). -/
  hold : List CmdRef
  /-- When a WAIT read last (R346), or pages that a PREFETCH has moved (R257). -/
  polled : Nat
  /-- Local address of the word whose error caused the last re-strike (R215). -/
  badAt : Option Nat
  /-- Serving fields as STEP and ADMIT found them at acceptance (R272). -/
  cfg : Option Tng
deriving DecidableEq, Repr

/-- Table 10.10, Q_RESET and the device's own pointers of one queue. -/
structure Queue where
  sqbase : Word
  cqbase : Word
  en : Bool
  log : Nat
  irqmode : Nat
  itr : Nat
  cntset : Nat
  cqtail : Nat
  sqhead : Nat
  cqhead : Nat
  baddb : Bool
  ringfault : Bool
  /-- The device's tail (R339), the next slot to accept and the completion phase (R338). -/
  tail : Nat
  acc : Nat
  phase : Bool
  /-- Slots whose commands have completed, in completion order (R342). -/
  out : List Nat
  /-- Q_RESET.GO (R428). -/
  rst : Bool
  /-- Time of the last message and whether one waits for ITR (R350). -/
  lastIrq : Option Nat
  irqWait : Bool
deriving DecidableEq, Repr

/-- R338, Table 10.10: every field at its Reset value. -/
def Queue.reset : Queue :=
  { sqbase := 0, cqbase := 0, en := false, log := 0, irqmode := 0, itr := 0, cntset := 0, cqtail := 0, sqhead := 0,
    cqhead := 0, baddb := false, ringfault := false, tail := 0, acc := 0, phase := true, out := [], rst := false,
    lastIrq := none, irqWait := false }

/-- R338: ring depth. -/
def Queue.depth (q : Queue) : Nat := if q.log = 0 then 65536 else 2 ^ q.log

/-- XLAT partition registers (Table 7.4). -/
structure Xlat where
  root : Word
  en : Bool
  hwbase : Word
  hwsize : Nat
  bar2va : Word
  invva : Word
  go : Bool
  /-- Rows and remote requests in flight when GO was set (R244). -/
  goRows : List (CmdRef × Nat)
  goTids : List Nat
  npages : Nat
  parkms : Nat
  /-- Cached engine translations: virtual page number (VA / 2 MiB) to the leaf read, with its level (R243). -/
  tlb : SMap Word
deriving DecidableEq, Repr

def Xlat.reset : Xlat :=
  { root := 0, en := false, hwbase := 0, hwsize := 0, bar2va := 0, invva := 0, go := false, goRows := [], goTids := [], npages := 0, parkms := 1000, tlb := [] }

/-- A hang-ring event (R467, Table 15.10). -/
structure HEntry where
  ukind : Nat
  unit : Nat
  code : Nat
  time : Nat
  pf : Bool
  queue : Nat
  slot : Nat
  layer : Nat
  oper : Nat
  detail : Word
  wctr : Nat
  wyard : Bool
  /-- Whose event it is: a partition, or 1000 + job tag for a barrier context; 32 where its unit says it (R468). -/
  part : Nat
deriving DecidableEq, Repr

/-- DBG partition block (Table 15.6). -/
structure Dbg where
  frbase : Word
  frlog : Nat
  fren : Bool
  lost : Nat
  tail : Nat
  head : Nat
  phase : Bool
  tren : Bool
  denied : Bool
  mode : Bool
  src : Nat
  operf : Nat
  trbase : Nat
  trlen : Nat
  wraps : Nat
  wp : Nat
  hgo : Bool
  refused : Bool
  hangms : Nat
  hgbuf : Word
  hglen : Nat
  /-- A capture in progress: its start time, whether HANGMS started it, and the entries latched at its start; captures taken (Table 15.9). -/
  cap : Option (Nat × Bool × List HEntry)
  seq : Nat
  /-- When a command of the partition last completed or a task last began (R468). -/
  last : Nat
deriving DecidableEq, Repr

def Dbg.reset : Dbg :=
  { frbase := 0, frlog := 4, fren := false, lost := 0, tail := 0, head := 0, phase := true, tren := false, denied := false,
    mode := false, src := 0, operf := 0xFFFF, trbase := 0, trlen := 0, wraps := 0, wp := 0, hgo := false, refused := false,
    hangms := 0, hgbuf := 0, hglen := 0, cap := none, seq := 0, last := 0 }

/-- PART block and what a partition holds of its own (chapter 10). -/
structure Part where
  /-- 0 ABSENT, 1 RUNNING, 2 RESETTING, 3 STOPPED. -/
  st : Nat
  faulted : Bool
  reason : Nat
  rcount : Nat
  /-- PART_CTL.RESET (Table 10.4). -/
  rst : Bool
  pfen : Nat
  en : Nat
  pend : Nat
  aroot : Word
  aentry : Word
  acore : Nat
  aerr : Bool
  /-- The view's PKG_CAP_GEN (R479). -/
  capgen : Nat
  x : Xlat
  d : Dbg
  /-- The SNAPSHOT that holds the partition (R377). -/
  snap : Option CmdRef
  /-- It cannot be made whole (R331): it is STOPPED at the end of each reset. -/
  short : Bool
deriving DecidableEq, Repr

def Part.absent : Part :=
  { st := 0, faulted := false, reason := 0, rcount := 0, rst := false, pfen := 0, en := 0, pend := 0, aroot := 0, aentry := 0,
    acore := 0, aerr := false, capgen := 0, x := .reset, d := .reset, snap := none, short := false }

/-- One MSI-X vector: message address, data and the mask bit of its control word (R350). -/
structure Vec where
  addr : Word
  data : Nat
  mask : Bool
  pend : Bool
deriving DecidableEq, Repr

def Vec.reset : Vec := ⟨0, 0, true, false⟩

/-- A barrier context at a combining point (R373, R375): level 0 package, 1 chassis, 2 system. -/
structure BCtx where
  tag : Nat
  barid : Nat
  gen : Nat
  level : Nat
  scope : Nat
  need : Nat
  got : Nat
  nlocal : Nat
  pkgcnt : Nat
  chcnt : Nat
  chlead : Nat
  root : Nat
  blen : Nat
  /-- Local arrivals, or the packages below. -/
  cmds : List CmdRef
  pkgs : List Nat
  /-- Arrivals that carry BSRC, local and below, and whether the arrival has gone upward. -/
  bsrc : Nat
  sent : Bool
  /-- The release has come and payload is still on its way (R374); payload bytes that have passed. -/
  rel : Bool
  recv : Nat
deriving DecidableEq, Repr

/-- An entry of the generation table (R376), most recent first in its list. -/
structure GenE where
  level : Nat
  tag : Nat
  barid : Nat
  gen : Nat
deriving DecidableEq, Repr

/-- A traced source's unwritten branch outcomes (oldest first) and records written, modulo 256 (R463). -/
structure TSrc where
  outs : List Bool
  n : Nat
deriving DecidableEq, Repr

def TSrc.init : TSrc := ⟨[], 0⟩

/-- An Anvil core (Tables 5.2, 5.14, 5.15). -/
structure Core where
  run : Bool
  wfi : Bool
  pc : Word
  x : SMap Word
  f : SMap Word
  v : SMap (BitVec 512)
  /-- m1 to m7, key the register. -/
  m : SMap (BitVec 16)
  cpl : Nat
  ppl : Nat
  pie : Bool
  ie : Bool
  sum : Bool
  ven : Bool
  fen : Bool
  tvec : Word
  epc : Word
  cause : Word
  tval : Word
  scratch : Word
  ien : Nat
  /-- SOFT, EVENT, ERROR pending (bits 0, 2, 3); TIMER is computed (R180). -/
  ipend : Nat
  ptroot : Word
  tcmp : Word
  fsr : Nat
  strokes : Nat
  retired : Nat
deriving DecidableEq, Repr

/-- Table 5.14 and 5.15 at reset. -/
def Core.reset : Core :=
  { run := false, wfi := false, pc := 0, x := [], f := [], v := [], m := [], cpl := 2, ppl := 0, pie := false, ie := false,
    sum := false, ven := true, fen := true, tvec := 0, epc := 0, cause := 0, tval := 0, scratch := 0, ien := 0, ipend := 0,
    ptroot := 0, tcmp := BitVec.allOnes 64, fsr := 0x20, strokes := 0, retired := 0 }

/-- A host access through a BAR2 that has been answered, a message or a packet that leaves the block. -/
inductive Out where
  /-- MSI-X message: function, vector, address, data (R350). -/
  | msix (fn vec : Nat) (addr : Word) (data : Nat)
  /-- A fabric packet handed to a link (R365). -/
  | packet (p : Packet)
  /-- A management-port response: TYPE, SEQ, source, STATUS, body (R410). -/
  | bmp (typ : Nat) (h : BmpHdr) (status : Nat) (body : List Byte)
  /-- An EVENT message to one destination: code and detail (R413). -/
  | event (dst : BitVec 144) (code : Nat) (time : Nat) (detail : Word)
  /-- A TELEMETRY record to one subscriber (R413). -/
  | telemetry (dst : BitVec 144) (body : List Byte)
  /-- Data of a host read through BAR2, or of a register read (R13, R337). -/
  | read (bs : List Byte)
  /-- What a TAP instruction acts as: its code, or 0xFF for BYPASS (R470). -/
  | tap (code : Byte)
  /-- The ACK, NAK, CVC and CRD fields that a link sends back for a flit (R361, R363). -/
  | control (l : LinkRef) (ack : Nat) (nak : Bool) (cvc crd : Nat)
  /-- A flit that a link sends again (R363). -/
  | flit (l : LinkRef) (bs : List Byte)
deriving DecidableEq, Repr

end Sys2Proof.Machine
end

