-- ==== Sys2Proof/Machine/Image.lean ====
section
/-! DEFINITION. Machine/Image.lean: the Aelrun structure image: fields, defaults, checks, the factory image (chapter 09). -/

namespace Sys2Proof.Machine

open Sys2Proof

/-- The three products (Table 0.2). -/
inductive Variant where
  | lk9600 | lk9440 | lk9220
deriving DecidableEq, Repr

namespace Variant
def code : Variant → Nat | .lk9600 => 0x9600 | .lk9440 => 0x9440 | .lk9220 => 0x9220
/-- Populated brick sites, active bricks, Anvil dies, optical engines (Tables 0.2 and 1.1). -/
def sites : Variant → Nat | .lk9600 => 72 | .lk9440 => 54 | .lk9220 => 36
def active : Variant → Nat | .lk9600 => 64 | .lk9440 => 48 | .lk9220 => 32
def dies : Variant → Nat | .lk9600 => 4 | .lk9440 => 2 | .lk9220 => 1
def engines : Variant → Nat | .lk9600 => 9 | .lk9440 => 6 | .lk9220 => 3
def ports (v : Variant) : Nat := 4 * v.engines
def groups (v : Variant) : Nat := 8 * v.dies
def cores (v : Variant) : Nat := 32 * v.dies
/-- F-tier and D-tier sites populated (Table 1.1). -/
def hasF (v : Variant) (s : Nat) : Bool := decide (s < 24) && (v ≠ .lk9220 || decide (s % 6 < 4))
def hasD (v : Variant) (s : Nat) : Bool :=
  match v with
  | .lk9600 => decide (s < 40)
  | .lk9440 => decide (s < 40 ∧ s % 10 < 6)
  | .lk9220 => false
/-- Weld mode is present (R10). -/
def weld (v : Variant) : Bool := v ≠ .lk9220
/-- Design power and instantaneous ceiling in watts (Table 0.2). -/
def design : Variant → Nat | .lk9600 => 7500 | .lk9440 => 5600 | .lk9220 => 3800
def ceiling : Variant → Nat | .lk9600 => 8200 | .lk9440 => 6100 | .lk9220 => 4200
/-- Tier bandwidth at the reference point, GB/s (R312). -/
def tierBw : Variant → Nat | .lk9600 => 58240 | .lk9440 => 54144 | .lk9220 => 32000
end Variant

/-- The structure in force: the section bodies by ID − 1, defaults filled in (R301, R306, R320). -/
structure Struct where
  bodies : List (List Byte)
  seq : Nat
  /-- The 16 TAG bytes, little-endian. -/
  tag : Nat
deriving DecidableEq, Repr

/-- A bit field of a section body or header at a byte offset. -/
def bfld (b : List Byte) (off hi lo : Nat) : Nat := fld (leNat ((b.drop off).take (hi / 8 + 1))) hi lo

def Struct.body (s : Struct) (id : Nat) : List Byte := nthD [] s.bodies (id - 1)
def Struct.f (s : Struct) (id off hi lo : Nat) : Nat := bfld (s.body id) off hi lo

/-- Single-byte fields of a section from a byte offset on, each with its index. -/
def Struct.run (s : Struct) (id off n : Nat) : List (Nat × Nat) :=
  (((s.body id).drop off ++ List.replicate n (0 : Byte)).take n).zipIdx.map fun (b, i) => (i, b.toNat)

/-- Copies of a field, one every `stride` bytes: each is what lies from its first byte on. -/
def copies (stride : Nat) : Nat → List Byte → List (List Byte)
  | 0, _ => []
  | n + 1, b => b :: copies stride n (b.drop stride)

/-! Accessors (Tables 9.10 to 9.18). -/
def Struct.brickEn (s : Struct) (p : Nat) : Bool := (s.f 1 0 63 0 + 2 ^ 64 * s.f 1 8 7 0).testBit p
def Struct.spare (s : Struct) (g : Nat) : Nat := s.f 1 (0x10 + g) 7 0
def Struct.en (s : Struct) (n : Nat) : Bool := decide (s.f 2 (32 * n) 63 63 = 1)
def Struct.prio (s : Struct) (n : Nat) : Nat := s.f 2 (32 * n) 62 60
def Struct.jobtag (s : Struct) (n : Nat) : Nat := s.f 2 (32 * n) 47 32
def Struct.memcap (s : Struct) (n : Nat) : Nat := s.f 2 (32 * n) 31 0
def Struct.bwfloor (s : Struct) (n : Nat) : Nat := s.f 2 (32 * n + 8) 63 32
def Struct.cshare (s : Struct) (n : Nat) : Nat := s.f 2 (32 * n + 8) 10 0
def Struct.qown (s : Struct) (i : Nat) : Nat := bfld ((s.body 2).drop 0x400) i 7 0
def Struct.aown (s : Struct) (a : Nat) : Nat := bfld ((s.body 2).drop 0x500) a 7 0
def Struct.role (s : Struct) (b : Nat) : Nat := s.f 3 b 7 0
def Struct.pol (s : Struct) (n k : Nat) : Nat := s.f 3 (0x40 + 16 * n + k) 7 0
def Struct.win (s : Struct) (n : Nat) : Nat := s.f 3 (0x48 + 16 * n) 12 0
def Struct.streamThr (s : Struct) : Nat := s.f 4 0 47 32
def Struct.lockw (s : Struct) : Nat := s.f 4 0 3 0
def Struct.lockq (s : Struct) (n : Nat) : Nat := s.f 4 (0x10 + 4 * n) 20 0
def Struct.yown (s : Struct) (y : Nat) : Nat := s.f 4 (0x90 + y) 7 0
def Struct.town (s : Struct) (u : Nat) : Nat := bfld ((s.body 4).drop 0x190) u 7 0
def Struct.portEn (s : Struct) (p : Nat) : Bool := (s.f 5 0 35 0).testBit p
def Struct.tbmaster (s : Struct) : Bool := decide (s.f 5 0 36 36 = 1)
def Struct.chbase (s : Struct) : Nat := s.f 5 8 31 16
def Struct.pkgid (s : Struct) : Nat := s.f 5 8 15 0
def Struct.fshare (s : Struct) (n : Nat) : Nat := s.f 5 (0x10 + n) 7 0
def Struct.qhold (s : Struct) : Nat := s.f 6 0 47 32
def Struct.slope (s : Struct) : Nat := s.f 6 0 31 16
def Struct.cap (s : Struct) : Nat := s.f 6 0 7 0
def Struct.ssvid (s : Struct) : Nat := s.f 7 0 63 48
def Struct.ssid (s : Struct) : Nat := s.f 7 0 47 32
def Struct.lossms (s : Struct) : Nat := s.f 7 0 31 16
def Struct.bar2log (s : Struct) : Nat := s.f 7 0 10 6
def Struct.maxgen (s : Struct) : Nat := s.f 7 0 2 0
def Struct.ceown (s : Struct) (e : Nat) : Nat := s.f 7 (8 + e) 7 0
def Struct.jtag (s : Struct) : Nat := s.f 8 0 11 10
def Struct.hang (s : Struct) : Bool := decide (s.f 8 0 9 9 = 1)
def Struct.ringdepth (s : Struct) : Nat := s.f 8 0 8 0
def Struct.dumpen (s : Struct) (n : Nat) : Bool := (s.f 8 8 63 32).testBit n
def Struct.traceen (s : Struct) (n : Nat) : Bool := (s.f 8 8 31 0).testBit n
def Struct.partialOk (s : Struct) (n : Nat) : Bool := (s.f 9 0 63 32).testBit n
def Struct.mgmtSpdm (s : Struct) : Bool := decide (s.f 9 0 1 1 = 1)
def Struct.raise (s : Struct) : Bool := decide (s.f 9 0 0 0 = 1)

/-- Body bytes of each defined section (Table 9.3). -/
def secLen (id : Nat) : Option Nat :=
  match id with
  | 1 => some 24 | 2 => some 1312 | 3 => some 576 | 4 => some 2448 | 5 => some 48 | 6 => some 8 | 7 => some 24 | 8 => some 16
  | 9 => some 8 | _ => none

/-- The partition that owns all four quarters of logical brick b under a PARTITIONS body. -/
def wholeOwner (p : List Byte) (b : Nat) : Option Nat :=
  let q := fun u => bfld (p.drop 0x400) (4 * b + u) 7 0
  if q 0 ≠ 0xFF ∧ q 1 = q 0 ∧ q 2 = q 0 ∧ q 3 = q 0 then some (q 0) else none

def enabledParts (p : List Byte) : List Nat := (List.range 32).filter fun n => bfld p (32 * n) 63 63 = 1

/-- The default body of a missing section (Tables 9.10 to 9.18, R313, R315, R317). -/
def defBody (v : Variant) (p : List Byte) (id : Nat) : List Byte :=
  match id with
  | 1 => List.replicate 9 0xFF ++ List.replicate 7 0 ++ List.replicate 8 0xFF
  | 3 => ((List.range 64).map fun b => if (wholeOwner p b).isSome then (4 : Byte) else 0) ++
      ((List.range 32).map fun _ => ([0, 0xFF, 0, 0xFF, 0, 0xFF, 10, 4, 0, 0, 0, 0, 0, 0, 0, 0] : List Byte)).flatten
  | 5 => bytesOf 8 (2 ^ v.ports - 1) ++ bytesOf 8 0xFFFF ++
      List.replicate 32 (BitVec.ofNat 8 (256 / max 1 (enabledParts p).length))
  | 6 => bytesOf 8 (2000 * 2 ^ 32 + 250 * 2 ^ 16 + 100)
  | 7 => bytesOf 8 (100 * 2 ^ 16 + 30 * 2 ^ 6 + 6) ++ List.replicate 16 (BitVec.ofNat 8 ((enabledParts p).headD 0xFF))
  | 8 => bytesOf 8 (1 * 2 ^ 10 + 64) ++ bytesOf 8 (2 ^ 64 - 1)
  | 9 => bytesOf 8 ((2 ^ 32 - 1) * 2 ^ 32)
  | _ => []

/-- Table 9.19. -/
def factory (v : Variant) : Struct :=
  let p : List Byte := bytesOf 8 (2 ^ 63 + (if v = .lk9600 then 2044 else if v = .lk9440 then 1532 else 508)) ++ bytesOf 8 1024 ++
    List.replicate 1008 0 ++ ((List.range 256).map fun i => if i < 4 * v.active then (0 : Byte) else 0xFF) ++
    (List.range 32).map fun a => if a < v.groups then (0 : Byte) else 0xFF
  let unit (u : Nat) : Byte :=
    if u < 4 then 0x40
    else if u < 768 then (if v.hasF (u / 32) then 0 else 0xFF)
    else if v.hasD ((u - 768) / 32) then 0 else 0xFF
  let m : List Byte := bytesOf 8 (64 * 2 ^ 32) ++ List.replicate 8 0 ++ List.replicate 128 0 ++ List.replicate 256 0 ++
    (List.range 2048).map unit
  { bodies := [defBody v p 1, p, defBody v p 3, m, defBody v p 5, defBody v p 6, defBody v p 7, defBody v p 8, defBody v p 9]
    seq := Config.factorySeq.toNat, tag := Config.factoryTag.toNat }

/-- Byte i of the factory slot: Table 9.2 fixes the header but for its VMIN, SIGNED, LENGTH and NSECT; the rest is open (log 6). -/
def factoryAt (v : Variant) (i : Nat) : Byte :=
  if i < 4 then nthD 0 (bytesOf 4 0x524C4541) i
  else if i < 6 then nthD 0 (bytesOf 2 1) (i - 4)
  else if i < 8 then Config.factoryByte i
  else if i < 10 then nthD 0 (bytesOf 2 v.code) (i - 8)
  else if i < 11 then 0
  else if i < 12 then Config.factoryByte i &&& 0x80
  else if i < 0x12 then Config.factoryByte i
  else if i < 0x14 then 0
  else if i < 0x18 then nthD 0 (bytesOf 4 (factory v).seq) (i - 0x14)
  else if i < 0x28 then nthD 0 (bytesOf 16 (factory v).tag) (i - 0x18)
  else if i < 0x40 then 0
  else Config.factoryByte i

/-! ### CRC-32C (R302) -/

def crcBit (c : Nat) : Nat := if c % 2 = 1 then (c / 2) ^^^ 0x82F63B78 else c / 2
def crcByte (c b : Nat) : Nat :=
  let x := c ^^^ b
  crcBit (crcBit (crcBit (crcBit (crcBit (crcBit (crcBit (crcBit x)))))))
def crcGo (c : Nat) : List Byte → Nat
  | [] => c
  | b :: bs => crcGo (crcByte c b.toNat) bs
def crc32c (bs : List Byte) : Nat := crcGo 0xFFFFFFFF bs ^^^ 0xFFFFFFFF

/-! ### Checks (Table 9.4, R306) -/

/-- A failure: byte offset, reason code (Table 9.5), section. -/
structure ImgErr where
  off : Nat
  reason : Nat
  sec : Nat
deriving DecidableEq, Repr

/-- The failure of lowest offset. -/
def firstErr (es : List ImgErr) : Option ImgErr :=
  es.foldl (fun a e => match a with | none => some e | some f => if e.off < f.off then some e else a) none

/-- Kinds of value check of a field (step 6). -/
inductive VChk where
  | any | range (lo hi : Nat) | own | town | spare | role | jtag | ring
deriving DecidableEq, Repr

def VChk.bad (c : VChk) (v : Nat) : Option Nat :=
  match c with
  | .any => none
  | .range lo hi => if lo ≤ v ∧ v ≤ hi then none else some 0x14
  | .own => if v < 32 ∨ v = 0xFF then none else some 0x13
  | .town => if v ≤ 0x40 ∨ v = 0xFF then none else some 0x13
  | .spare => if v ≤ 8 ∨ v = 0xFF then none else some 0x13
  | .role => if v ≤ 4 ∨ v = 7 then none else if v < 7 then some 0x13 else some 0x14
  | .jtag => if v = 3 then some 0x13 else none
  | .ring => if 16 ≤ v ∧ v ≤ 256 ∧ v % 16 = 0 then none else some 0x14

/-- A field of a section: offset, bits, instances, stride, check. -/
structure FSpec where
  off : Nat
  hi : Nat
  lo : Nat
  n : Nat
  stride : Nat
  chk : VChk
deriving DecidableEq, Repr

/-- Fields of a section (Tables 9.10 to 9.18). -/
def secFields (v : Variant) (id : Nat) : List FSpec :=
  match id with
  | 1 => [⟨0, 63, 0, 1, 0, .any⟩, ⟨8, 7, 0, 1, 0, .any⟩, ⟨0x10, 7, 0, v.sites / 9, 1, .spare⟩,
      ⟨0x10 + v.sites / 9, 7, 0, 8 - v.sites / 9, 1, .any⟩]
  | 2 => [⟨0, 63, 63, 32, 32, .any⟩, ⟨0, 62, 60, 32, 32, .any⟩, ⟨0, 47, 32, 32, 32, .any⟩, ⟨0, 31, 0, 32, 32, .any⟩,
      ⟨8, 63, 32, 32, 32, .any⟩, ⟨8, 10, 0, 32, 32, .range 0 1024⟩, ⟨0x400, 7, 0, 256, 1, .own⟩, ⟨0x500, 7, 0, 32, 1, .own⟩]
  | 3 => [⟨0, 7, 0, 64, 1, .role⟩, ⟨0x40, 47, 0, 32, 16, .any⟩, ⟨0x40, 55, 48, 32, 16, .range 0 100⟩,
      ⟨0x40, 63, 56, 32, 16, .any⟩, ⟨0x48, 12, 0, 32, 16, .range 0 4096⟩]
  | 4 => [⟨0, 47, 32, 1, 0, .any⟩, ⟨0, 3, 0, 1, 0, .range 0 12⟩, ⟨0x10, 20, 0, 32, 4, .any⟩, ⟨0x90, 7, 0, 256, 1, .own⟩,
      ⟨0x190, 7, 0, 2048, 1, .town⟩]
  | 5 => [⟨0, 36, 0, 1, 0, .any⟩, ⟨8, 31, 0, 1, 0, .any⟩, ⟨0x10, 7, 0, 32, 1, .any⟩]
  | 6 => [⟨0, 47, 32, 1, 0, .range 100 10000⟩, ⟨0, 31, 16, 1, 0, .range 25 1000⟩, ⟨0, 7, 0, 1, 0, .range 35 100⟩]
  | 7 => [⟨0, 63, 32, 1, 0, .any⟩, ⟨0, 31, 16, 1, 0, .range 10 1000⟩, ⟨0, 10, 6, 1, 0, .range 21 36⟩, ⟨0, 2, 0, 1, 0, .range 1 6⟩,
      ⟨8, 7, 0, 16, 1, .own⟩]
  | 8 => [⟨0, 11, 10, 1, 0, .jtag⟩, ⟨0, 9, 9, 1, 0, .any⟩, ⟨0, 8, 0, 1, 0, .ring⟩, ⟨8, 63, 0, 1, 0, .any⟩]
  | 9 => [⟨0, 63, 32, 1, 0, .any⟩, ⟨0, 1, 0, 1, 0, .any⟩]
  | _ => []

/-- Clears the bits of byte k that the fields of a section cover. -/
def uncovered (fs : List FSpec) (k : Nat) (b : Nat) : Nat :=
  fs.foldl
    (fun b f =>
      -- the copy whose word could hold byte k
      let hit (i : Nat) (b : Nat) : Nat :=
        let base := f.off + i * f.stride
        if base ≤ k ∧ k ≤ base + f.hi / 8 then
          let o := 8 * (k - base)
          if f.lo ≤ o ∧ o + 7 ≤ f.hi then 0
          else (List.range 8).foldl (fun b j => if f.lo ≤ o + j ∧ o + j ≤ f.hi then clrBit b j else b) b
        else b
      if b = 0 ∨ f.n = 0 ∨ k < f.off then b
      else if f.stride = 0 then hit 0 b
      else if (k - f.off) / f.stride < f.n then hit ((k - f.off) / f.stride) b else b) b

/-- A section found by the walk of R301: ID, FLAGS, offset of its header, LEN. -/
structure Sect where
  id : Nat
  flags : Nat
  off : Nat
  len : Nat
deriving DecidableEq, Repr

def pad8 (n : Nat) : Nat := (n + 7) / 8 * 8

/-- The walk of the section headers from `pos`; an error is the offset it reports (R306). -/
def walk (d : List Byte) (s : Nat) : Nat → Nat → Except Nat (List Sect)
  | 0, pos => if pos = s then .ok [] else .error pos
  | n + 1, pos =>
    let len := bfld d pos 63 32
    if s < pos + 8 ∨ s < pos + 8 + len then .error pos
    else match walk d s n (pos + 8 + pad8 len) with
      | .ok r => .ok (⟨bfld d pos 15 0, bfld d pos 31 16, pos, len⟩ :: r)
      | .error e => .error e

/-- What a check compares an image with. -/
structure ImgCtx where
  variant : Variant
  key : Option (BitVec 256)
  floor : Nat
  /-- A partial image checked against the structure in force (R320); none for a slot. -/
  cur : Option Struct
  /-- Units that are absent at a partial's check (R306): quarters by index, Anvil groups, tier units. -/
  absentQ : List Nat
  absentA : List Nat
  absentU : List Nat

def ImgCtx.isPartial (c : ImgCtx) : Bool := c.cur.isSome

/-- Offsets at which two bodies differ. -/
def diffs (a b : List Byte) : List Nat := (List.range (max a.length b.length)).filter fun i => nthD 0 a i ≠ nthD 0 b i

/-- R320: byte i of section id may differ for target p. Bits of one byte are compared by `same`. -/
def scopeOk (p id i : Nat) (old new : List Byte) (newParts : List Byte) (oldParts : List Byte) : Bool :=
  let o := (nthD 0 old i).toNat
  let n := (nthD 0 new i).toNat
  let swap : Bool := (o == 0xFF && n == p) || (o == p && n == 0xFF)
  match id with
  | 2 => if i < 0x400 then i / 32 == p else swap
  | 3 =>
    if i < 0x40 then decide (wholeOwner newParts i = some p) || ((List.range 4).any fun u => bfld oldParts (0x400 + 4 * i + u) 7 0 == p)
    else (i - 0x40) / 16 == p
  | 4 =>
    if i < 0x10 then false
    else if i < 0x90 then (i - 0x10) / 4 == p
    else if i < 0x190 then swap
    else (o == 0xFF || o == p || o == 0x20 + p) && (n == 0xFF || n == p || n == 0x20 + p)
  | 5 => i == 0x10 + p
  | 7 => decide (8 ≤ i) && swap
  | 8 =>
    if i < 8 then false
    else
      (i - 8) % 4 == p / 8 && (o ^^^ n) == 2 ^ (p % 8)
  | _ => false

/-- Running sums: the place at which a sum first exceeds its limit. -/
def overAt (lim : Nat) : Nat → List (Nat × Nat) → Option Nat
  | _, [] => none
  | acc, (k, x) :: r => if lim < acc + x then some k else overAt lim (acc + x) r

/-- Step 8 on the resulting structure (R261, R312 to R317, R320). `at_ id off` is the offset in the image. -/
def consistency (c : ImgCtx) (st : Struct) (at_ : Nat → Nat → Nat) (target : Nat) : List ImgErr :=
  let v := c.variant
  let ens := (List.range 32).filter st.en
  let owner (id off cnt : Nat) (pool : Bool) : List ImgErr :=
    ((st.run id off cnt).filter fun (_, o) =>
      if pool then decide (o < 0x40) && !st.en (o % 32) else decide (o < 32) && !st.en o).map
      fun e => ⟨at_ id (off + e.1), 0x16, id⟩
  let units := st.run 4 0x190 2048
  let carve := (units.filter fun e => e.2 = 0x40).map (·.1)
  let carveErr : List ImgErr :=
    (if carve.isEmpty then [⟨at_ 4 (0x190 + 2047), 0x16, 4⟩] else []) ++
    (if 64 < carve.length then [⟨at_ 4 (0x190 + nthD 0 carve 64), 0x16, 4⟩] else []) ++
    ((carve.filter fun u => 768 ≤ u).map fun u => ⟨at_ 4 (0x190 + u), 0x16, 4⟩)
  let capErr : List ImgErr := (ens.filter fun n =>
      st.memcap n ≠ (units.filter fun e => e.2 = n ∨ e.2 = 0x20 + n).length).map
      fun _ => ⟨at_ 4 (0x190 + 2047), 0x16, 4⟩
  let sum (id : Nat) (ns : List Nat) (off : Nat → Nat) (val : Nat → Nat) (lim : Nat) : List ImgErr :=
    match overAt lim 0 (ns.map fun n => (off n, val n)) with | some k => [⟨at_ id k, 0x16, id⟩] | none => []
  let parts := st.body 2
  let roleErr : List ImgErr := ((List.range v.active).filter fun b =>
      let r := st.role b
      let none4 := (List.range 4).all fun u => st.qown (4 * b + u) == 0xFF
      r == 7 || (none4 && r != 0) || ((wholeOwner parts b).isNone && r != 0 && r != 4)).map fun b => ⟨at_ 3 b, 0x17, 3⟩
  let polErr : List ImgErr := (ens.map fun n => ((List.range 3).filter fun k =>
      let lo := st.pol n (2 * k)
      let hi := st.pol n (2 * k + 1)
      let cnt := ((List.range v.active).filter fun b => wholeOwner parts b = some n ∧ st.role b = k + 1).length
      decide (cnt < lo) || (hi != 0xFF && (decide (hi < lo) || decide (hi < cnt)))).map
      fun k => (⟨at_ 3 (0x40 + 16 * n + 2 * k + 1), 0x17, 3⟩ : ImgErr)).flatten
  let part : List ImgErr :=
    match c.cur with
    | none => []
    | some cur =>
      (if cur.partialOk target then [] else [⟨0x0B, 0x19, 0⟩]) ++
      ((List.range 9).map fun k =>
        let id := k + 1
        ((diffs (cur.body id) (st.body id)).filter fun i =>
          !scopeOk target id i (cur.body id) (st.body id) parts (cur.body 2)).map
          fun i => (⟨at_ id i, 0x18, id⟩ : ImgErr)).flatten ++
      ((List.range 64).filter fun b => wholeOwner (cur.body 2) b = some target ∧ wholeOwner parts b ≠ some target ∧ st.role b ≠ 0).map
        fun b => ⟨at_ 3 b, 0x18, 3⟩
  owner 2 0x400 256 false ++ owner 2 0x500 32 false ++ owner 4 0x90 256 false ++ owner 4 0x190 2048 true ++ owner 7 8 16 false ++
    carveErr ++ capErr ++ sum 2 ens (fun n => 32 * n + 8) st.cshare 1024 ++ sum 2 ens (fun n => 32 * n + 12) st.bwfloor v.tierBw ++
    sum 5 ens (fun n => 0x10 + n) st.fshare 256 ++ sum 4 (List.range 32) (fun n => 0x10 + 4 * n) st.lockq (st.lockw * 131072) ++
    roleErr ++ polErr ++ part

/-- Step 7 (R306, R315): named units that the variant lacks; for a partial also those absent now that it grants to its target. -/
def absence (c : ImgCtx) (st : Struct) (at_ : Nat → Nat → Nat) (target : Nat) : List ImgErr :=
  let v := c.variant
  let p := c.isPartial
  ((st.run 2 0x400 256).filter fun (i, o) => o ≠ 0xFF ∧ (4 * v.active ≤ i ∨ (p ∧ o = target ∧ c.absentQ.contains i))).map
      (fun e => ⟨at_ 2 (0x400 + e.1), 0x15, 2⟩) ++
  ((st.run 2 0x500 32).filter fun (a, o) => o ≠ 0xFF ∧ (v.groups ≤ a ∨ (p ∧ o = target ∧ c.absentA.contains a))).map
      (fun e => ⟨at_ 2 (0x500 + e.1), 0x15, 2⟩) ++
  ((st.run 4 0x190 2048).filter fun (u, o) => o ≠ 0xFF ∧
      (!(if u < 768 then v.hasF (u / 32) else v.hasD ((u - 768) / 32)) ∨ (p ∧ o % 32 = target ∧ o < 0x40 ∧ c.absentU.contains u))).map
      (fun e => ⟨at_ 4 (0x190 + e.1), 0x15, 4⟩) ++
  ((st.run 3 0 64).filter fun (b, r) => v.active ≤ b ∧ r ≠ 0).map (fun e => ⟨at_ 3 e.1, 0x15, 3⟩) ++
  (if st.f 5 0 35 0 < 2 ^ v.ports then [] else [⟨at_ 5 0, 0x15, 5⟩])

/-- R306: the checks of Table 9.4 in order, over at most `limit` bytes; a slot's unwritten bytes are 0xFF. -/
def checkImage (c : ImgCtx) (limit : Nat) (count : Option Nat) (raw : List Byte) : Except ImgErr (Struct × Nat) := do
  let d := raw
  let fail (off reason sec : Nat) : Except ImgErr Unit := .error ⟨off, reason, sec⟩
  -- step 1
  if bfld d 0 31 0 ≠ 0x524C4541 then fail 0 0x01 0
  if bfld d 4 15 0 ≠ 1 then fail 4 0x02 0
  if bfld d 8 23 16 ≠ (if c.isPartial then 1 else 0) then fail 0xA 0x04 0
  let len := bfld d 0xC 31 0
  let signed := decide (bfld d 8 31 31 = 1)
  let s := len - 4 - (if signed then 64 else 0)
  if limit < len ∨ len < 4 + (if signed then 64 else 0) + 0x40 ∨ s % 8 ≠ 0 ∨ count.getD len ≠ len then
    fail 0xC 0x03 0
  let secs ← match walk d s (bfld d 0x10 15 0) 0x40 with
    | .ok r => pure r
    | .error e => .error ⟨e, 0x03, 0⟩
  -- step 2
  if bfld d (len - 4) 31 0 ≠ crc32c (d.take (len - 4)) then fail (len - 4) 0x05 0
  -- step 3
  let seq := bfld d 0x14 31 0
  match c.key with
  | none => pure ()
  | some k =>
    if !signed then fail 0xB 0x06 0
    if !Config.ed25519Verifies k (d.take s) ((d.drop s).take 64) then fail s 0x07 0
    if seq < c.floor then fail 0x14 0x08 0
  -- step 4
  let notAllowed (id : Nat) : Bool := c.isPartial && (id == 1 || id == 6 || id == 9)
  let order : List ImgErr := ((List.range secs.length).filter fun i =>
      0 < i ∧ (nthD ⟨0, 0, 0, 0⟩ secs i).id ≤ (nthD ⟨0, 0, 0, 0⟩ secs (i - 1)).id).map
      fun i => let x := nthD ⟨0, 0, 0, 0⟩ secs i; ⟨x.off, 0x10, x.id⟩
  let each : List ImgErr := (secs.map fun x =>
      (if notAllowed x.id then [(⟨x.off, 0x10, x.id⟩ : ImgErr)] else []) ++
      (match secLen x.id with
        | some l => if l ≠ x.len then [⟨x.off + 4, 0x10, x.id⟩] else []
        | none => if x.flags % 2 = 1 then [⟨x.off, 0x11, x.id⟩] else []) ++
      (((List.range (pad8 x.len - x.len)).map fun i => x.off + 8 + x.len + i).filter fun o => nthD 0 d o ≠ 0).map
        fun o => ⟨o, 0x10, x.id⟩).flatten
  let need : List ImgErr := (if c.isPartial then [] else [2, 4]).filterMap fun id =>
      if secs.any fun x => x.id == id then none
      else some ⟨match secs.find? fun x => decide (id < x.id) with | some x => x.off | none => s, 0x10, id⟩
  match firstErr (order ++ each ++ need) with
  | some e => .error e
  | none => pure ()
  -- step 5
  if bfld d 8 15 0 ≠ c.variant.code then fail 8 0x12 0
  -- step 6
  let target := bfld d 8 28 24
  let resv : List ImgErr :=
    (if bfld d 8 30 29 ≠ 0 ∨ (!c.isPartial ∧ target ≠ 0) then [⟨0xB, 0x13, 0⟩] else []) ++
    (if bfld d 0x10 31 16 ≠ 0 then [⟨0x12, 0x13, 0⟩] else []) ++
    (((List.range 24).map (0x28 + ·)).filter fun o => nthD 0 d o ≠ 0).map fun o => ⟨o, 0x13, 0⟩
  let vals : List ImgErr := (secs.map fun x =>
      (if x.flags / 2 ≠ 0 then [(⟨x.off + 2, 0x13, x.id⟩ : ImgErr)] else []) ++
      (if (secLen x.id).isNone then []
       else
        let fs := secFields c.variant x.id
        ((((d.drop (x.off + 8)).take x.len).zipIdx.filter fun e => uncovered fs e.2 e.1.toNat ≠ 0).map fun e =>
          (⟨x.off + 8 + e.2, 0x13, x.id⟩ : ImgErr)) ++
        (fs.map fun f => (copies f.stride f.n (d.drop (x.off + 8 + f.off))).zipIdx.filterMap fun e =>
          (f.chk.bad (bfld e.1 0 f.hi f.lo)).map fun r =>
            (⟨x.off + 8 + f.off + e.2 * f.stride + f.lo / 8, r, x.id⟩ : ImgErr)).flatten)).flatten
  match firstErr (resv ++ vals) with
  | some e => .error e
  | none => pure ()
  -- the resulting structure
  let bodyOf (id : Nat) : Option (List Byte) :=
    (secs.find? fun x => x.id == id).map fun x => (d.drop (x.off + 8)).take x.len
  let base (id : Nat) : List Byte := match c.cur with | some cur => cur.body id | none => []
  let p := (bodyOf 2).getD (base 2)
  let st : Struct :=
    { bodies := (List.range 9).map fun k =>
        match bodyOf (k + 1) with
        | some b => b
        | none => if c.isPartial then base (k + 1) else defBody c.variant p (k + 1)
      seq := match c.cur with | some cur => cur.seq | none => seq
      tag := match c.cur with | some cur => cur.tag | none => leNat ((d.drop 0x18).take 16) }
  let at_ (id off : Nat) : Nat := match secs.find? fun x => x.id == id with | some x => x.off + 8 + off | none => 0
  -- steps 7 and 8
  match firstErr (absence c st at_ target) with
  | some e => .error e
  | none => pure ()
  match firstErr (consistency c st at_ target) with
  | some e => .error e
  | none => pure ()
  return (st, target)

/-- Reasons below 0x10 are structural (Table 9.5). -/
def ImgErr.structural (e : ImgErr) : Bool := decide (e.reason < 0x10)

end Sys2Proof.Machine
end

