-- ==== Sys2Proof/Machine/PkgState.lean ====
section
/-! DEFINITION. Machine/PkgState.lean: units in service, package registers, fabric, power, start-up, pins and the Bellows as data (chapters 09, 11 to 14 and 16). -/

namespace Sys2Proof.Machine

open Sys2Proof

/-- Units in service, as bit maps (Tables 16.5 to 16.8). -/
structure Units where
  /-- Physical IDs of logical bricks 0, 1, … (R11); V = 1 for each. -/
  lb : List Nat
  /-- Physical bricks active and in service; spares that passed self-test. -/
  brick : Nat
  spare : Nat
  /-- Quarters by 4b + u. -/
  qtr : Nat
  /-- Present exposed tiles of logical brick b. -/
  tiles : SMap Nat
  /-- Working physical tiles of quarter 4p + u not mapped to an exposed tile (R33). -/
  tspare : SMap Nat
  anvil : Nat
  fsite : Nat
  dsite : Nat
  port : Nat
  eng : Nat
deriving DecidableEq, Repr

def Units.none_ : Units :=
  { lb := [], brick := 0, spare := 0, qtr := 0, tiles := [], tspare := [], anvil := 0, fsite := 0, dsite := 0, port := 0, eng := 0 }

/-- PKG block registers that hold state (Tables 13.4, 16.2 to 16.13). -/
structure Pkg where
  capGen : Nat
  intSum : Nat
  intEn : Nat
  badcnt : Nat
  /-- PKG_ERR_SUM bits 6:0. -/
  err : Nat
  errAddr : Word
  agains : Nat
  busys : Nat
  load : Nat
  failed : Bool
  maxlevel : Nat
  level : Nat
  ready : Bool
  warm : Bool
  cause : Nat
  warmcnt : Nat
  stfail : Nat
deriving DecidableEq, Repr

def Pkg.reset : Pkg :=
  { capGen := 0, intSum := 0, intEn := 0, badcnt := 0, err := 0, errAddr := 0, agains := 0, busys := 0, load := 0, failed := false,
    maxlevel := 0, level := 0, ready := false, warm := false, cause := 0, warmcnt := 0, stfail := 0 }

/-- IMG block (Tables 9.6 to 9.9) and the image in force. -/
structure Img where
  src : Nat
  defaulted : Bool
  mismatch : Bool
  sigchk : Bool
  failslot : Nat
  reason : Nat
  section_ : Nat
  offset : Nat
  st : Struct
  paddr : Word
  go : Bool
  psrc : Bool
  ptarget : Nat
  pstate : Nat
  plen : Nat
  preason : Nat
  psection : Nat
  poffset : Nat
  /-- The structure that a partial in progress applies, and step of R321. -/
  next : Option Struct
  /-- Grants that lapsed or moved under R308 and R331: owner of tier unit u where it differs from the image, 0x100 + code. -/
  town : SMap Nat
  /-- CHECKING's result: the failure, if any; and whether the partial carries a ROLES section (R320). -/
  pcheck : Option ImgErr
  proles : Bool
deriving DecidableEq, Repr

def Struct.empty : Struct := ⟨[], 0, 0⟩

def Img.reset : Img :=
  { src := 0, defaulted := false, mismatch := false, sigchk := false, failslot := 0, reason := 0, section_ := 0, offset := 0,
    st := Struct.empty, paddr := 0, go := false, psrc := false, ptarget := 0, pstate := 0, plen := 0, preason := 0, psection := 0,
    poffset := 0, next := none, town := [], pcheck := none, proles := false }

/-- Flash, fuses and what survives a power cycle (R296, Table 13.8). -/
structure Flash where
  slotA : SMap Byte
  slotB : SMap Byte
  fw0 : SMap Byte
  fw1 : SMap Byte
  /-- The two BOOTSEL copies: primary slot B, update count, valid (R297). -/
  boot0 : Bool × Nat × Bool
  boot1 : Bool × Nat × Bool
  key : Option (BitVec 256)
  floor : Nat
  /-- Event log, oldest first: code, time, detail (R411, R417). -/
  log : List (Nat × Nat × Word)
deriving DecidableEq, Repr

/-- Manufacture state: both slots empty (R296); no copy of BOOTSEL valid (R297); no key, floor 0 (R304, R305). -/
def Flash.new : Flash :=
  { slotA := [], slotB := [], fw0 := [], fw1 := [], boot0 := (false, 0, false), boot1 := (false, 0, false), key := none, floor := 0, log := [] }

/-- A fabric port (Table 11.9). -/
structure Port where
  st : Nat
  replays : Nat
  crcerr : Nat
  downs : Nat
deriving DecidableEq, Repr

def Port.off : Port := ⟨0, 0, 0, 0⟩

/-- A lane (Table 11.10). -/
structure Lane where
  ppkg : Nat
  pport : Nat
  plane : Nat
  sw : Bool
  up : Bool
  mis : Bool
deriving DecidableEq, Repr

def Lane.off : Lane := ⟨0, 0, 0, false, false, false⟩

/-- A link (R358) with its link-layer state (R361 to R363). -/
structure Link where
  ref : LinkRef
  up : Bool
  /-- Next SEQ to send, highest SEQ acknowledged by the partner, replay buffer (SEQ and flit), resends of its oldest flit. -/
  tx : Nat
  acked : Nat
  replay : List (Nat × List Byte)
  resent : Nat
  /-- Next SEQ expected, and credits held per channel. -/
  rx : Nat
  credit : List Nat
  /-- Packages whose route this link's switch advertises (R366). -/
  routes : List Nat
  /-- Bytes of the packet being put together from its first flit. -/
  part : List Byte
  /-- Packets that wait for link credits (R362). -/
  outq : List Packet
deriving DecidableEq, Repr

/-- Where the data of an agent's access go. -/
inductive Dest where
  /-- A store. -/
  | none_
  /-- Register r of a thread: float, and the size code of the load. -/
  | reg (thread r : Nat) (flt : Bool) (size : Nat)
  /-- The bytes of v[vd] that the mask selects, the response's first byte going to byte `off`. -/
  | lanes (vd : Nat) (mask : BitVec 64) (off : Nat)
deriving DecidableEq, Repr

/-- What waits for a remote response (R368). -/
inductive Waiter where
  /-- A row's read of n bytes at an offset of the row, or its write. -/
  | rowRead (c : CmdRef) (row off n : Nat)
  | rowWrite (c : CmdRef) (row : Nat)
  /-- The window grant of a credited row (R202). -/
  | credit (c : CmdRef) (row : Nat)
  /-- An access of an agent: where its data go, the length of its instruction, its virtual and physical address. -/
  | agent (a : Agent) (dst : Dest) (len : Nat) (va pa : Word)
  /-- The AMO of a SIGNAL or WAIT (R346), or of a row counter (R249). -/
  | sync (c : CmdRef)
  /-- A host access through a VF's BAR2 (R337): function, address, length. -/
  | bar2 (f : Nat) (va len : Nat) (wr : Bool)
deriving DecidableEq, Repr

/-- A request to another package that has no response yet (R368, R381). -/
structure Await where
  tid : Nat
  pkg : Nat
  who : Waiter
deriving DecidableEq, Repr

/-- The FAB block and the fabric's own state (chapter 11). -/
structure Fab where
  pkgid : Nat
  noid : Bool
  tbm : Nat
  locked : Bool
  master : Bool
  offset : Int
  offs : List Int
  jgo : Bool
  jerr : Bool
  jscope : Nat
  jtag : Nat
  ports : SMap Port
  lanes : SMap Lane
  links : List Link
  /-- SSEQ to send, by stream · 65536 + destination; expected, by stream · 65536 + source (R367). -/
  sout : SMap Nat
  sin : SMap Nat
  /-- Packets received ahead of their order. -/
  held : List Packet
  gone : List Nat
  tid : Nat
  waits : List Await
  ctxs : List BCtx
  gens : List GenE
  /-- Barrier arrivals that wait for a context (R375). -/
  barWait : List CmdRef
  barPkt : List Packet
  /-- In-order packets of packages that have departed, which have yet to be acted on (R381). -/
  ingress : List Packet
  /-- Chassis members known to have TBMASTER = 1, and the correction of the time base under way, in ns (R370). -/
  tbs : List Nat
  slew : Int
deriving DecidableEq, Repr

def Fab.reset : Fab :=
  { pkgid := 0xFFFF, noid := false, tbm := 0xFFFF, locked := false, master := false, offset := 0, offs := [], jgo := false, jerr := false,
    jscope := 0, jtag := 0, ports := [], lanes := [], links := [], sout := [], sin := [], held := [], gone := [], tid := 0, waits := [],
    ctxs := [], gens := [], barWait := [], barPkt := [], ingress := [], tbs := [], slew := 0 }

/-- Power, heat and quench (chapter 12). -/
structure Pwr where
  /-- Cap in percent and SLOPE in W/µs in force, and a CAP_SET stored during a quench or a reset (R404, R430). -/
  cap : Nat
  slope : Nat
  stored : Option (Nat × Nat)
  /-- Package V_A set point in mV and dwell duty k in sixteenths (R387, R389). -/
  vset : Nat
  duty : Nat
  /-- Duty in force by domain, where it differs from `duty` (R389), and the time of the last duty step. -/
  domDuty : SMap Nat
  dutyAt : Nat
  /-- Average powers in watts: 10 µs and 1 ms. -/
  p10 : Nat
  p1m : Nat
  /-- Temperatures read in °C by sensor key; unlisted reads 0. -/
  temp : SMap Int
  /-- Thermal target as a step below the cap target, in steps of 5 mV or one duty step (R396); none when withdrawn. -/
  ttarget : Option Nat
  tAt : Nat
  /-- Coupling target of F-tier stack s, in mV (R50), with the time of its last step; doubled refresh and halved command rate, one bit per site. -/
  couple : SMap Nat
  cAt : SMap Nat
  refresh2 : Nat
  fhalf : Nat
  dhalf : Nat
  /-- Grants by unit of the admission gates (R393). -/
  grants : SMap Nat
  /-- Tier bandwidth floors and transfer-engine floors met, in MB/s by partition (R329, R330). -/
  shares : SMap Nat
  cshares : SMap Nat
  /-- 0 running, 1 quenched, 2 in hold, 3 rails shut (Table 12.13). -/
  q : Nat
  qcause : Nat
  qcause2 : Nat
  /-- End of the hold. -/
  hold : Option Nat
  rails : Bool
  /-- First-stage converters that failed, regulator failures, and loss of the reference (R30, R31, R42). -/
  conv : Nat
  osc : Bool
  alert : Bool
deriving DecidableEq, Repr

def Pwr.reset : Pwr :=
  { cap := 100, slope := 250, stored := none, vset := 720, duty := 16, domDuty := [], dutyAt := 0, p10 := 0, p1m := 0, temp := [],
    ttarget := none, tAt := 0, couple := [], cAt := [], refresh2 := 0, fhalf := 0, dhalf := 0, grants := [], shares := [], cshares := [], q := 0, qcause := 0,
    qcause2 := 0, hold := none, rails := false, conv := 0, osc := false, alert := false }

/-- Steps of a cold start (Table 13.2), of a warm reset (R425) and the states between. -/
inductive Stage where
  /-- V_AON out of regulation. -/
  | off
  /-- V_AON in regulation; waits for PWR_GOOD_IN and PKG_RESET_N. -/
  | aon
  /-- Image loaded; the rails wait for COOLANT_OK. -/
  | loaded
  /-- Rails up; self-test. -/
  | test
  | memory
  | fabric
  /-- Keys and partitions are up; waits for PERST_N to be released. -/
  | keys
  | ready
  /-- Warm reset under way: it waits for the fabric to train. -/
  | warm
  /-- Stopped for good at V_AON (R417). -/
  | halted
deriving DecidableEq, Repr

/-- Start-up, pins and the host link (chapters 13 and 14). -/
structure Start where
  stage : Stage
  /-- Cold cause of the start under way (Table 13.6). -/
  cause : Nat
  /-- The image is loaded and kept across a rail shutdown (R430). -/
  imgKept : Bool
  /-- Balls: PWR_GOOD_IN, PKG_RESET_N released, PERST_N released, COOLANT_OK; 48 V input in range. -/
  pwrGood : Bool
  rstRel : Bool
  perstRel : Bool
  coolant : Bool
  vin : Bool
  /-- SLOT_ID straps, and the value sampled at the last image load (R438). -/
  straps : Nat
  slot : Nat
  /-- TAP instruction in force (R470). -/
  tap : Nat
  /-- Host link: in L0 or L0p at the last sample, and the run of samples outside it (R354). -/
  linkUp : Bool
  downUs : Nat
  /-- VF BAR2 size (log 2) and VF Memory Space Enable (R337). -/
  bar2log : Nat
  vfMse : Bool
  /-- Time base zero, in the model's time (R371, R415). -/
  t0 : Int
  failures : List TestFail
deriving DecidableEq, Repr

def Start.reset : Start :=
  { stage := .off, cause := 0, imgKept := false, pwrGood := false, rstRel := true, perstRel := false, coolant := false, vin := false,
    straps := 63, slot := 0, tap := 0xFE, linkUp := false, downUs := 0, bar2log := 21, vfMse := false, t0 := 0,
    failures := [] }

/-- The Bellows (R405 to R413). -/
structure Bell where
  fwver : Nat
  fwcopy : Bool
  /-- Watchdog failure: queues stopped, until the warm reset (R408). -/
  failedAt : Option Nat
  /-- Subscribers: destination, interval in ms, interval in force. -/
  subs : List (BitVec 144 × Nat × Nat)
  /-- Source of the last CAP_SET. -/
  capSrc : Option (BitVec 144)
  /-- Requests of the last second: source, SEQ, time, response (R411). -/
  seen : List (BitVec 144 × Nat × Nat × Out)
  /-- A partial image being assembled from PARTIAL messages. -/
  pbuf : SMap Byte
  /-- SPDM exchanges so far, and whether the session is authenticated (R412). -/
  spdm : Nat
  auth : Bool
deriving DecidableEq, Repr

def Bell.reset : Bell :=
  { fwver := 0, fwcopy := false, failedAt := none, subs := [], capSrc := none, seen := [],
    pbuf := [], spdm := 0, auth := false }

end Sys2Proof.Machine
end

