-- ==== Sys2Proof/Machine/State.lean ====
section
/-! DEFINITION. Machine/State.lean: the state of the block, its faults and refusals, and the state right after reset. -/

namespace Sys2Proof.Machine

open Sys2Proof

/-- Everything the package holds but the queue of waiting commands. -/
structure Dev where
  var : Variant
  /-- Time in nanoseconds, ticked when the block idles (log 1). -/
  now : Nat
  /-- Index of the next free value (log 2): the model's own field. -/
  fi : Nat
  start : Start
  pkg : Pkg
  un : Units
  img : Img
  flash : Flash
  fab : Fab
  pwr : Pwr
  bell : Bell
  mem : Mem
  /-- Tiles by logical brick · 128 + tile (R52). -/
  tiles : SMap Tile
  /-- Credit counters: tile key · 8 + i, or 2^20 + Yard unit · 8 + i (R192, R196). -/
  wins : SMap Win
  /-- Ingress credits held, by receiver · 65536 + sender (R198). -/
  ingr : SMap Nat
  cores : SMap Core
  /-- Serving blocks by partition (Table 8.7). -/
  tng : SMap Tng
  tongs : Tongs
  /-- Key generation in force for key ID 0 to 32 (0: discarded), and the next one (R238, R239). -/
  keys : SMap Nat
  nextKey : Nat
  parts : SMap Part
  /-- Queues by function · 64 + number. -/
  queues : SMap Queue
  /-- Accepted commands, oldest first. -/
  cmds : List Cmd
  /-- MSI-X vectors by function · 256 + vector. -/
  vecs : SMap Vec
  /-- Queue banks and partition totals (R459): (function · 64 + queue) · 64 + event, partition · 64 + event. -/
  cntQ : SMap Word
  cntP : SMap Word
  /-- Remainders of the counts in units of 1,024 (R457), by command queue · 64 + event. -/
  rem : SMap Nat
  /-- Hang rings by UKIND · 65536 + unit, oldest entry first (R467). -/
  hang : SMap (List HEntry)
  /-- Trace sources: tile key, or 65536 + Anvil core (R463). -/
  trace : SMap TSrc
  /-- Strokes completed by each quarter-domain (R180), by quarter index. -/
  qstrokes : SMap Nat
  /-- Corrected blocks and uncorrectable lines by site (tier · 64 + site), with address and time (R398). -/
  corr : List (Nat × Nat × Nat)
  uncorr : List (Nat × Nat × Nat)
  /-- What has left the block, oldest first: messages, packets, interrupts and read data. -/
  out : List Out
deriving DecidableEq, Repr

/-- The state: the package, and the commands that wait, first in, first out. -/
structure State where
  dev : Dev
  pending : List Instr
deriving DecidableEq, Repr

/-- What stops the block. -/
inductive Fault where
  /-- INPUT_OUT_OF_RANGE with an input beyond the absolute maximum of Table 14.2: R433 gives no behaviour there. Safe. -/
  | beyondAbsoluteMaximum
deriving DecidableEq, Repr

/-- Why a command is turned away. -/
inductive Refusal where
  /-- A command that has no meaning yet. Safe. -/
  | notModelled (mnemonic : String)
deriving DecidableEq, Repr

/-- The package before its first power-up: the 48 V input absent, every pin at its open state (R437), every register at the value of its Reset column. -/
def Dev.reset : Dev :=
  { var := .lk9600, now := 0, fi := 0, start := .reset, pkg := .reset, un := .none_, img := .reset, flash := .new, fab := .reset, pwr := .reset,
    bell := .reset, mem := .clear, tiles := [], wins := [], ingr := [], cores := [], tng := [], tongs := .reset, keys := [], nextKey := 1,
    parts := [], queues := [], cmds := [], vecs := [], cntQ := [], cntP := [], rem := [], hang := [], trace := [], qstrokes := [], corr := [],
    uncorr := [], out := [] }

/-- Right after reset: the queue is empty. -/
def State.reset : State := { dev := .reset, pending := [] }

end Sys2Proof.Machine
end

