-- ==== Sys2Proof/Machine/Ops.lean ====
section
/-! DEFINITION. Machine/Ops.lean: the named operations over the package: accessors, events and messages, counters and completion of commands. -/

namespace Sys2Proof

open Machine

/-- Keys of the tables of State: queue, tile, tile window, Yard window. -/
def Machine.qKey (fn q : Nat) : Nat := fn * 64 + q
def Machine.tKey (b t : Nat) : Nat := b * 128 + t
def Machine.tileWin (tk i : Nat) : Nat := tk * 8 + i
def Machine.yardWin (u i : Nat) : Nat := 2 ^ 20 + u * 8 + i
def QRef.key (q : QRef) : Nat := qKey q.fn.val q.q.val
def TileRef.key (t : TileRef) : Nat := tKey t.brick.val t.tile.val
def WinRef.key : WinRef → Nat
  | .tile t i => tileWin t.key i.val
  | .yard u i => yardWin u.val i.val
def CmdRef.qk (c : CmdRef) : Nat := qKey c.fn.val c.q.val
/-- Unit number of a queue in hang records (Table 15.10). -/
def CmdRef.hunit (c : CmdRef) : Nat := c.q.val + 64 * b2n (c.fn.val == 0)

end Sys2Proof

namespace Sys2Proof.Machine

open Sys2Proof

/-- What a command does to the package; the queue is left to the step. -/
def State.act (s : State) (f : Dev → Dev) : Host.Outcome State Fault Refusal := .next { s with dev := f s.dev }

/-! ### Accessors -/

def Dev.part (d : Dev) (n : Nat) : Part := SMap.get Part.absent d.parts n
def Dev.setPart (d : Dev) (n : Nat) (f : Part → Part) : Dev := { d with parts := SMap.upd Part.absent d.parts n f }
def Dev.queue (d : Dev) (k : Nat) : Queue := SMap.get Queue.reset d.queues k
def Dev.setQueue (d : Dev) (k : Nat) (f : Queue → Queue) : Dev := { d with queues := SMap.upd Queue.reset d.queues k f }
def Dev.tile (d : Dev) (k : Nat) : Tile := SMap.get Tile.clear d.tiles k
def Dev.setTile (d : Dev) (k : Nat) (f : Tile → Tile) : Dev := { d with tiles := SMap.upd Tile.clear d.tiles k f }
def Dev.core (d : Dev) (c : Nat) : Core := SMap.get Core.reset d.cores c
def Dev.setCore (d : Dev) (c : Nat) (f : Core → Core) : Dev := { d with cores := SMap.upd Core.reset d.cores c f }
def Dev.serving (d : Dev) (n : Nat) : Tng := SMap.get Tng.reset d.tng n
def Dev.setServing (d : Dev) (n : Nat) (f : Tng → Tng) : Dev := { d with tng := SMap.upd Tng.reset d.tng n f }
def Dev.brick (d : Dev) (p : Nat) : Brick := SMap.get Brick.off d.tongs.bricks p
def Dev.setBrick (d : Dev) (p : Nat) (f : Brick → Brick) : Dev :=
  { d with tongs := { d.tongs with bricks := SMap.upd Brick.off d.tongs.bricks p f } }
/-- The structure image in force. -/
def Dev.st (d : Dev) : Struct := d.img.st
/-- Generation of the key of key ID n (R238). -/
def Dev.gen (d : Dev) (n : Nat) : Nat := SMap.get 0 d.keys n

/-- What an unlisted credit counter holds: CC0 to CC3 of a tile are fixed (R200). -/
def winReset (k : Nat) : Win := if k < 2 ^ 20 ∧ k % 8 < 4 then Win.bank else Win.off
def Dev.win (d : Dev) (k : Nat) : Win := SMap.get (winReset k) d.wins k
def Dev.putWin (d : Dev) (k : Nat) (w : Win) : Dev := { d with wins := SMap.put (winReset k) d.wins k w }
/-- Usable granules of a window's receiver (R201). -/
def winRoom (k : Nat) : Nat := if k < 2 ^ 20 then 2047 else 65535

/-- The time base (R180, R415). -/
def Dev.time (d : Dev) : Nat := ((d.now : Int) - d.start.t0).toNat
def Dev.timeW (d : Dev) : Word := BitVec.ofNat 64 d.time
/-- The package is ready and not quenched: work goes on (R401, R423). -/
def Dev.live (d : Dev) : Bool := decide (d.start.stage = .ready) && decide (d.pwr.q = 0)
/-- The register views answer (R401, R423). -/
def Dev.answers (d : Dev) : Bool := decide (d.start.stage = .ready) && d.start.perstRel

/-- A fresh free value (log 2). -/
def Dev.free (d : Dev) : Word × Dev := (Config.free d.fi, { d with fi := d.fi + 1 })

def Dev.emit (d : Dev) (o : Out) : Dev := { d with out := d.out ++ [o] }

/-! ### Units in service -/

/-- Physical ID of a logical brick (R11). -/
def Dev.phys (d : Dev) (b : Nat) : Option Nat := d.un.lb[b]?
/-- Logical ID of a physical brick. -/
def Dev.logical (d : Dev) (p : Nat) : Option Nat := firstIdx (fun (x : Nat) => x = p) d.un.lb 0
def Dev.qtrIn (d : Dev) (i : Nat) : Bool := d.un.qtr.testBit i
def Dev.tileIn (d : Dev) (k : Nat) : Bool := (SMap.get 0 d.un.tiles (k / 128)).testBit (k % 128)
def Dev.brickIn (d : Dev) (b : Nat) : Bool := match d.phys b with | some p => d.un.brick.testBit p | none => false
def Dev.coreIn (d : Dev) (c : Nat) : Bool := d.un.anvil.testBit (c / 4)
/-- Owner of a tile's quarter (R312). -/
def Dev.tileOwner (d : Dev) (k : Nat) : Nat := d.st.qown (4 * (k / 128) + k % 128 / 24)
def Dev.coreOwner (d : Dev) (c : Nat) : Nat := d.st.aown (c / 4)
/-- Owner code of a tier unit: the image's (R314), or what R331 has made of it. -/
def Dev.town (d : Dev) (u : Nat) : Nat :=
  let o := SMap.get 0 d.img.town u
  if o = 0 then d.st.town u else o - 0x100
/-- Site of a tier unit: (tier D, site). -/
def unitSite (u : Nat) : Bool × Nat := if u < 768 then (false, u / 32) else (true, (u - 768) / 32)
def Dev.siteIn (d : Dev) (s : Bool × Nat) : Bool := if s.1 then d.un.dsite.testBit s.2 else d.un.fsite.testBit s.2
/-- Tier unit of a local address in a tier. -/
def unitOf (a : Nat) : Nat := if a < 0xC000000000 then a / 2 ^ 30 else 768 + (a - 0x10000000000) / 2 ^ 30
def unitBase (u : Nat) : Nat := if u < 768 then u * 2 ^ 30 else 0x10000000000 + (u - 768) * 2 ^ 30
/-- The table carve in ascending units (R314). -/
def Dev.carve (d : Dev) : List Nat := (List.range 768).filter fun u => d.town u = 0x40
/-- A byte run lies wholly in carve units that are in service (R241). -/
def Dev.inCarve (d : Dev) (a n : Nat) : Bool :=
  decide (a + n ≤ 0xC000000000) && (decide (n = 0) ||
    ((List.range (unitOf (a + n - 1) - unitOf a + 1)).all fun i =>
      decide (d.town (unitOf a + i) = 0x40) && d.siteIn (unitSite (unitOf a + i))))
/-- A local address lies in a Tongs pool: of partition n, or of any. -/
def Dev.inPool (d : Dev) (n : Option Nat) (a : Nat) : Bool :=
  match place a with
  | .ftier _ | .dtier _ =>
    let o := d.town (unitOf a)
    match n with | some n => decide (o = 0x20 + n) | none => decide (0x20 ≤ o ∧ o < 0x40)
  | _ => false

/-! ### Interrupts, events and messages -/

/-- Sends vector v of function fn, or marks it in the PBA while it is masked or while no message may be issued (R350, R401). -/
def Dev.sendVec (d : Dev) (fn v : Nat) : Dev :=
  let k := fn * 256 + v
  let e := SMap.get Vec.reset d.vecs k
  if e.mask || !d.live then { d with vecs := SMap.put Vec.reset d.vecs k { e with pend := true } }
  else d.emit (.msix fn v e.addr e.data)

/-- R481: package event i. -/
def Dev.raisePkg (d : Dev) (i : Nat) : Dev :=
  if d.pkg.intSum.testBit i then d
  else
    let d := { d with pkg := { d.pkg with intSum := setBit d.pkg.intSum i } }
    if d.pkg.intEn.testBit i then d.sendVec 0 (96 + i) else d

/-- R351: function event e of partition n. -/
def Dev.raiseEvt (d : Dev) (n e : Nat) : Dev :=
  let p := d.part n
  if p.pend.testBit e then d
  else
    let d := d.setPart n fun p => { p with pend := setBit p.pend e }
    let d := if p.en.testBit e then d.sendVec (n + 1) (64 + e) else d
    if p.pfen.testBit e then d.sendVec 0 (64 + n) else d

/-- R482: an error bit of PKG_ERR_SUM. -/
def Dev.pkgErr (d : Dev) (b : Nat) : Dev :=
  if d.pkg.err.testBit b then d
  else ({ d with pkg := { d.pkg with err := setBit d.pkg.err b } }).raisePkg 0

/-- Destinations of EVENT messages (R413). -/
def Dev.eventDsts (d : Dev) : List (BitVec 144) :=
  let s := d.bell.subs.map (·.1)
  match d.bell.capSrc with | some c => if s.contains c then s else s ++ [c] | none => s

/-- R413: an EVENT message to every subscriber; none leaves while the reference is lost (R400). The event log keeps it. -/
def Dev.event (d : Dev) (code : Nat) (detail : Word) : Dev :=
  let d := { d with flash := { d.flash with log := d.flash.log ++ [(code, d.time, detail)] } }
  if d.pwr.osc then d else d.eventDsts.foldl (fun d t => d.emit (.event t code d.time detail)) d

/-! ### Counters (R457 to R460) -/

/-- To whom an event is attributed (R458). -/
structure Acct where
  cmd : Option CmdRef
  part : Option Nat
deriving DecidableEq, Repr


/-- R459: adds n to event e. -/
def Dev.count (d : Dev) (a : Acct) (e n : Nat) : Dev :=
  if n = 0 then d
  else
    let d := match a.cmd with
      | some c => { d with cntQ := SMap.upd 0 d.cntQ (c.qk * 64 + e) fun v => v + BitVec.ofNat 64 n }
      | none => d
    match a.part with
    | some p => { d with cntP := SMap.upd 0 d.cntP (p * 64 + e) fun v => v + BitVec.ofNat 64 n }
    | none => d

/-- R457: an event in units of 1,024 with its remainder kept. -/
def Dev.countK (d : Dev) (a : Acct) (e n : Nat) : Dev :=
  let k := (match a.cmd with | some c => c.qk + 1 | none => 0) * 64 + e
  let r := SMap.get 0 d.rem k + n
  ({ d with rem := SMap.put 0 d.rem k (r % 1024) }).count a e (r / 1024)

/-- Started 64-byte units of n bytes (R457). -/
def units64 (n : Nat) : Nat := cdiv n 64

/-- Events that count elapsed strokes, microseconds or waits: their values are open (log 1). -/
def timedEvent (e : Nat) : Bool := e == 0 || e == 9 || e == 11 || e == 24 || e == 26 || e == 29 || e == 30 || e == 48 || e == 51

/-- The eight counters of a set, as a latch takes them. -/
def Dev.latch (d : Dev) (qk set : Nat) : List Word :=
  (List.range 8).map fun i => SMap.get 0 d.cntQ (qk * 64 + 8 * set + i)

/-- R460: second latch minus first, limited to 2^32 − 1; a timed event's delta is a free value. -/
def Dev.deltas (d : Dev) (qk set : Nat) (first : List Word) : List Nat :=
  (List.range 8).map fun i =>
    if timedEvent (8 * set + i) then (Config.free (d.fi + i)).toNat % 2 ^ 32
    else min (2 ^ 32 - 1) (SMap.get 0 d.cntQ (qk * 64 + 8 * set + i) - nthD 0 first i).toNat

/-! ### Descriptors and commands -/

/-- Field of a descriptor: bits hi:lo of the word at a byte offset. -/
def Cmd.f (c : Cmd) (off hi lo : Nat) : Nat := bfld c.desc off hi lo
def Cmd.w (c : Cmd) (off : Nat) : Word := BitVec.ofNat 64 (bfld c.desc off 63 0)
/-- Common header (Table 10.11). -/
def Cmd.op (c : Cmd) : Nat := c.f 0 5 0
def Cmd.rsafe (c : Cmd) : Bool := c.f 0 8 8 == 1
def Cmd.after (c : Cmd) : Bool := c.f 0 9 9 == 1
def Cmd.irq (c : Cmd) : Bool := c.f 0 10 10 == 1
def Cmd.layer (c : Cmd) : Nat := c.f 0x10 51 32
def Cmd.step (c : Cmd) : Nat := c.f 0x10 31 0
def Cmd.oper (c : Cmd) : Nat := c.f 0x18 15 0
def Cmd.viaPf (c : Cmd) : Bool := c.ref.fn.val == 0
def Cmd.acct (c : Cmd) : Acct := ⟨some c.ref, if c.part < 32 then some c.part else none⟩

def Dev.cmd (d : Dev) (c : CmdRef) : Option Cmd := d.cmds.find? fun x => x.ref = c
def Dev.setCmd (d : Dev) (c : CmdRef) (f : Cmd → Cmd) : Dev :=
  { d with cmds := updFirst (fun x => x.ref = c) f d.cmds }

/-- Status codes of Table 0.9. -/
def stOk : Nat := 0x00
def stOkRestruck : Nat := 0x01
def stCancelBefore : Nat := 0x02
def stCancelFlight : Nat := 0x03
def stRole : Nat := 0x31
def stAgain : Nat := 0x32
def stPartReset : Nat := 0x40
def stLinkLost : Nat := 0x41

/-- R467: an event of a unit's ring; only in RING mode. -/
def Dev.ring (d : Dev) (ukind unit code : Nat) (c : Option Cmd) (detail : Word) (wctr : Nat := 0) (wyard : Bool := false) (part : Nat := 32) : Dev :=
  if d.st.hang then d
  else
    let e : HEntry := match c with
      | some c => ⟨ukind, unit, code, d.time, c.viaPf, c.ref.q.val, c.ref.slot.toNat, c.layer, c.oper, detail, wctr, wyard, c.part⟩
      | none => ⟨ukind, unit, code, d.time, false, 0, 0, 0, 0, detail, wctr, wyard, part⟩
    let k := ukind * 65536 + (if ukind = 4 then unit * 16 + wctr + 8 * b2n wyard else unit)
    { d with hang := SMap.upd [] d.hang k fun l => (l ++ [e]).drop ((l.length + 1) - d.st.ringdepth) }


/-- The command has started and runs on, or has not started. -/
def Cmd.open_ (c : Cmd) : Bool := decide (c.phase ≠ .done)

/-- R466: armed DUMPs that match the identifiers of completed work fire, oldest first; each holds the commands of the matched queue that have not started, and for a node the STEP itself, with the node's index. -/
def Dev.fireDumps (d : Dev) (part layer oper step : Nat) (r : CmdRef) (node : Option Nat) : Dev :=
  { d with cmds := d.cmds.map fun x =>
      if x.phase = .armed ∧ x.part = part ∧ x.f 0x28 19 0 = layer ∧ x.f 0x20 31 16 = oper ∧
          (x.f 0x20 0 0 = 1 ∨ x.f 0x20 63 32 = step) then
        { x with
          phase := .fired
          hold := (if node.isSome then [r] else []) ++
            (d.cmds.filter fun y => y.ref.qk = r.qk ∧ y.phase = .waiting).map (·.ref)
          polled := match node with | some i => i + 1 | none => 0 }
      else x }

/-- R342, R460: a command completes: its status and second latch are taken, and it joins its queue's records in completion order. -/
def Dev.complete (d : Dev) (r : CmdRef) (status : Nat) (reason : Nat := 0) : Dev :=
  match d.cmd r with
  | none => d
  | some c =>
    if !c.open_ then d
    else
      let dl := d.deltas c.ref.qk c.cset c.latch
      let d := { d with fi := d.fi + 8 }
      let d := d.setCmd r fun c => { c with phase := .done, status := status, reason := reason, doneAt := d.time, delta := dl,
                                            move := { c.move with parked := none, bufs := [], wrote := [], marks := [] } }
      let d := d.setQueue r.qk fun q => { q with out := q.out ++ [r.slot.toNat] }
      let d := if c.part < 32 then d.setPart c.part fun p => { p with d := { p.d with last := d.now } } else d
      let d := d.ring 0 r.hunit 0x03 (some c) (BitVec.ofNat 64 status)
      let d := if 2 ≤ c.op ∧ c.op ≤ 4 then d.ring 2 0 0x03 (some c) (BitVec.ofNat 64 status) else d
      if status = stPartReset then d else d.fireDumps c.part c.layer c.oper c.step r none

end Sys2Proof.Machine
end

