-- ==== Sys2Proof/Machine/Net.lean ====
section
/-! DEFINITION. Machine/Net.lean: packets, flits, routes, streams and requests to other packages (R361 to R369). -/

namespace Sys2Proof.Machine

open Sys2Proof

/-! ### Packets and flits -/

/-- Table 11.2: the 32-byte header and the data. -/
def pktBytes (p : Packet) : List Byte :=
  bytesOf 8 (p.dst.toNat * 2 ^ 48 + p.src.toNat * 2 ^ 32 + p.jobtag.toNat * 2 ^ 16 + p.kind.toNat * 2 ^ 10 + p.vc.toNat * 2 ^ 8) ++
  bytesOf 8 (p.stream.toNat * 2 ^ 48 + p.sseq.toNat * 2 ^ 32 + p.data.length * 2 ^ 23 + p.tid.toNat) ++
  bytesOf 8 p.addr.toNat ++ bytesOf 8 p.opinfo.toNat ++ p.data

/-- Bytes of a packet, from its first 32. -/
def packetLen (b : List Byte) : Nat := 32 + min 256 (bfld b 8 31 23)

def packetOf (b : List Byte) : Packet :=
  { dst := BitVec.ofNat 16 (bfld b 0 63 48), src := BitVec.ofNat 16 (bfld b 0 47 32), jobtag := BitVec.ofNat 16 (bfld b 0 31 16)
    kind := BitVec.ofNat 6 (bfld b 0 15 10), vc := BitVec.ofNat 2 (bfld b 0 9 8), stream := BitVec.ofNat 16 (bfld b 8 63 48)
    sseq := BitVec.ofNat 16 (bfld b 8 47 32), tid := BitVec.ofNat 16 (bfld b 8 15 0), addr := BitVec.ofNat 48 (bfld b 0x10 47 0)
    opinfo := BitVec.ofNat 64 (bfld b 0x18 63 0), data := (b.drop 32).take (packetLen b - 32) }

/-- One bit of the CRC-64 of R361 (ECMA-182 polynomial, most significant bit first, initial value 0, no inversion). -/
def crc64Bit (c : Nat) : Nat := if c.testBit 63 then ((c * 2) % 2 ^ 64) ^^^ 0x42F0E1EBA9EA3693 else c * 2
def crc64Byte (c b : Nat) : Nat :=
  crc64Bit (crc64Bit (crc64Bit (crc64Bit (crc64Bit (crc64Bit (crc64Bit (crc64Bit (c ^^^ b * 2 ^ 56))))))))
def crc64 (bs : List Byte) : Nat := bs.foldl (fun c b => crc64Byte c b.toNat) 0

/-- Bytes padded with zeros to n. -/
def padTo (n : Nat) (bs : List Byte) : List Byte := (bs ++ List.replicate (n - bs.length) 0).take n

/-- Table 11.1: a flit with its header word, payload and CRC. -/
def mkFlit (seq ack typ : Nat) (payload : List Byte) : List Byte :=
  let b := bytesOf 8 (seq % 2 ^ 14 * 2 ^ 50 + ack % 2 ^ 14 * 2 ^ 36 + typ * 2 ^ 33) ++ padTo 240 payload
  b ++ bytesOf 8 (crc64 b)

/-- R365: a packet occupies whole flits, one or two. -/
def payloads (p : Packet) : List (List Byte) :=
  let b := pktBytes p
  if b.length ≤ 240 then [b] else [b.take 240, b.drop 240]

/-! ### Links -/

def Dev.laneAt (d : Dev) (p l : Nat) : Lane := SMap.get Lane.off d.fab.lanes (8 * p + l)
/-- Lanes in a link (R358). -/
def Dev.lanesOf (d : Dev) (r : LinkRef) : List Nat :=
  (List.range 8).filter fun l =>
    let x := d.laneAt r.port.val l
    x.up && x.ppkg == r.ppkg.toNat && x.pport == r.pport.toNat
def Dev.linkIsSwitch (d : Dev) (r : LinkRef) : Bool := (d.lanesOf r).any fun l => (d.laneAt r.port.val l).sw
/-- Packages of one chassis (R366). -/
def sameChassis (a b : Nat) : Bool := a / 64 == b / 64

/-- R366: links that carry traffic to a package: the direct links while any is up, else the uplinks that advertise it. -/
def Dev.routesTo (d : Dev) (pkg : Nat) : List LinkRef :=
  let up := d.fab.links.filter fun l => l.up
  let direct := up.filter fun l => !d.linkIsSwitch l.ref && l.ref.ppkg.toNat == pkg && sameChassis pkg d.fab.pkgid
  let dn := if direct.isEmpty then up.filter fun l => d.linkIsSwitch l.ref && l.routes.contains pkg else direct
  dn.map (·.ref)

def Dev.link (d : Dev) (r : LinkRef) : Option Link := d.fab.links.find? fun l => l.ref = r
def Dev.setLink (d : Dev) (r : LinkRef) (f : Link → Link) : Dev :=
  { d with fab := { d.fab with links := updFirst (fun l => l.ref = r) f d.fab.links } }

/-- R362: packets leave in order while their channel holds a credit for each of their flits; each flit stays in the replay buffer (R363). -/
def Link.drain (l : Link) : Nat → Link × List Packet
  | 0 => (l, [])
  | k + 1 =>
    match l.outq.find? fun p => decide ((payloads p).length ≤ nthD 0 l.credit p.vc.toNat) with
    | none => (l, [])
    | some p =>
      let fs := payloads p
      let vc := p.vc.toNat
      let add := (List.range fs.length).map fun i => ((l.tx + i) % 2 ^ 14, mkFlit (l.tx + i) (l.rx + 2 ^ 14 - 1) 0 (nthD [] fs i))
      let l := { l with outq := l.outq.erase p, replay := l.replay ++ add, tx := (l.tx + fs.length) % 2 ^ 14,
                        credit := setNth l.credit vc (nthD 0 l.credit vc - fs.length) }
      let r := l.drain k
      (r.1, p :: r.2)

/-- Lets a link send what its credits allow; the packets sent are in the block's output. -/
def Dev.drainLink (d : Dev) (r : LinkRef) : Dev :=
  match d.link r with
  | none => d
  | some l =>
    let x := l.drain l.outq.length
    x.2.foldl (fun d p => d.emit (.packet p)) (d.setLink r fun _ => x.1)

/-- R365 to R367: numbers a packet in its stream and hands it to a link; none where no route leads to its package. -/
def Dev.sendPkt (d : Dev) (p : Packet) : Option Dev :=
  let dst := p.dst.toNat
  let rs := d.routesTo dst
  if rs.isEmpty || d.fab.gone.contains dst then none
  else
    let k := p.stream.toNat * 65536 + dst
    let q := { p with src := BitVec.ofNat 16 d.fab.pkgid, sseq := BitVec.ofNat 16 (SMap.get 0 d.fab.sout k) }
    match rs[Config.streamHash p.stream rs.length % rs.length]? with
    | none => none
    | some r =>
      let d := { d with fab := { d.fab with sout := SMap.upd 0 d.fab.sout k fun n => (n + 1) % 65536 } }
      some ((d.setLink r fun l => { l with outq := l.outq ++ [q] }).drainLink r)

/-- A control or response packet: dropped where no route leads to its package. -/
def Dev.post (d : Dev) (dst kind vc : Nat) (jobtag : Nat) (tid : BitVec 16) (addr : Nat) (op : Word) (data : List Byte) : Dev :=
  (d.sendPkt { dst := BitVec.ofNat 16 dst, src := 0, jobtag := BitVec.ofNat 16 jobtag, kind := BitVec.ofNat 6 kind, vc := BitVec.ofNat 2 vc
               stream := 0xFFFF, sseq := 0, tid := tid, addr := BitVec.ofNat 48 addr, opinfo := op, data := data }).getD d

/-- Packet kinds (Table 11.2). -/
def kRead : Nat := 1
def kWrite : Nat := 2
def kAmo : Nat := 3
def kResp : Nat := 4
def kCredreq : Nat := 5
def kCredgnt : Nat := 6
def kBarArrive : Nat := 8
def kBarRelease : Nat := 9
def kBcast : Nat := 10
def kTime : Nat := 16
def kDepart : Nat := 17
def kJobreset : Nat := 18
def kRoute : Nat := 19

/-- R368: a request of partition n to another package, with what waits for its response; none where no route leads there. -/
def Dev.request (d : Dev) (n port pkg kind addr : Nat) (op : Word) (data : List Byte) (who : Waiter) (acct : Acct) : Option Dev :=
  let tid := d.fab.tid
  match d.sendPkt { dst := BitVec.ofNat 16 pkg, src := 0, jobtag := BitVec.ofNat 16 (d.st.jobtag n), kind := BitVec.ofNat 6 kind, vc := 0
                    stream := BitVec.ofNat 16 port, sseq := 0, tid := BitVec.ofNat 16 tid, addr := BitVec.ofNat 48 addr, opinfo := op, data := data } with
  | none => none
  | some d =>
    let d := { d with fab := { d.fab with tid := (tid + 1) % 65536, waits := d.fab.waits ++ [Await.mk tid pkg who] } }
    some (d.count acct (if kind = kRead then 44 else if kind = kAmo then 46 else 45) 1)

/-- Data of an AMO packet: operation, size code and comparand (encoding: log 30). -/
def amoData (op size : Nat) (cmp : Word) : List Byte := bytesOf 1 op ++ bytesOf 1 size ++ bytesOf 8 cmp.toNat

/-- A waiter for which a request is outstanding. -/
def Dev.awaits (d : Dev) (p : Waiter → Bool) : Bool := d.fab.waits.any fun a => p a.who
/-- Forgets the requests that p selects: their responses find nobody. -/
def Dev.forget (d : Dev) (p : Waiter → Bool) : Dev := { d with fab := { d.fab with waits := d.fab.waits.filter fun a => !p a.who } }
/-- The command of a waiter. -/
def Waiter.cmd : Waiter → Option CmdRef
  | .rowRead c _ _ _ | .rowWrite c _ | .credit c _ | .sync c => some c
  | _ => none
def Waiter.by_ : Waiter → Option Agent
  | .agent a .. => some a
  | _ => none

/-- Runs of at most 256 bytes (R365) of a byte range, as (offset, length). -/
def runs256 (n : Nat) : List (Nat × Nat) := (List.range (cdiv n 256)).map fun i => (256 * i, min 256 (n - 256 * i))

end Sys2Proof.Machine
end

