-- ==== Sys2Proof/Machine/Store.lean ====
section
/-! DEFINITION. Machine/Store.lean: credit counters, and memory by place and key (chapters 06 and 07). -/

namespace Sys2Proof.Machine

open Sys2Proof

/-! ### Credit counters (R200 to R205) -/

/-- The outcome of a credited write whose request failed (R202). -/
def Dev.failReq (d : Dev) (r : CReq) : Dev :=
  match r.who with
  | .cmd c _ => d.complete c stPermission
  | .remote pkg tid => d.post pkg.toNat kResp 1 0 tid 0 (BitVec.ofNat 64 stPermission) []

/-- A word of a credit counter (Table 6.3). -/
def Dev.winRead (d : Dev) (k w : Nat) : Word :=
  let x := d.win k
  match w with | 0 => x.cfgWord | 2 => BitVec.ofNat 64 x.landed | 3 => x.stat | _ => 0

/-- R201. -/
def Dev.winCfg (d : Dev) (k : Nat) (v : Word) : Dev :=
  let r := (d.win k).cfgWrite (winRoom k) (decide (k < 2 ^ 20) && decide (k % 8 < 4)) v
  r.2.foldl Dev.failReq (d.putWin k r.1)

/-- Hang-record unit of a window (Table 15.10). -/
def winUnit (k : Nat) : Nat × Nat × Bool := if k < 2 ^ 20 then (k / 8, k % 8, false) else ((k - 2 ^ 20) / 8, k % 8, true)
def Dev.winRing (d : Dev) (k code n : Nat) : Dev :=
  let u := winUnit k
  d.ring 4 u.1 code none (BitVec.ofNat 64 n) u.2.1 u.2.2

/-- R203. -/
def Dev.winRelease (d : Dev) (k n : Nat) : Dev := (d.putWin k ((d.win k).release n)).winRing k 0x09 n

/-- A write of a credit counter's word: CFG, release, or the W1C bits of STAT (Table 6.3). -/
def Dev.winWrite (d : Dev) (k w : Nat) (v : Word) : Dev :=
  match w with
  | 0 => d.winCfg k v
  | 1 => d.winRelease k (wf v 15 0)
  | 3 =>
    let x := d.win k
    d.putWin k { x with badcfg := x.badcfg && !wb v 2, badrel := x.badrel && !wb v 1, badwr := x.badwr && !wb v 0 }
  | _ => d

/-- Credit counter word at an offset of a tile store or a Yard unit, if it lies in the credit block (R192, R196). -/
def creditAt (base size off : Nat) : Option (Nat × Nat) :=
  if size - 256 ≤ off ∧ off < size then some (base + (off - (size - 256)) / 32, (off - (size - 256)) % 32 / 8) else none

/-! ### Memory by place -/

/-- Requester ports of the Mortar (R211): brick hubs 0 to 63, copy engines 100 up, PCIe 120, Bellows 121, transfer engines 122, Anvil cores 200 up. -/
def portCopy (e : Nat) : Nat := 100 + e
def portPcie : Nat := 120
def portBellows : Nat := 121
def portXfer : Nat := 122
def portCore (c : Nat) : Nat := 200 + c

/-- Whose access it is: requester port, key ID, and to whom its events are attributed. -/
structure Req where
  port : Nat
  kid : Nat
  acct : Acct
deriving DecidableEq, Repr

/-- Lines of a run that hit the Hearth under a key ID. -/
def Mem.hits (m : Mem) (kid a n : Nat) : Nat :=
  ((linesOf a n).filter fun l => match m.hFind l with | some (_, h) => h.kid == kid | none => false).length

def Dev.countTier (d : Dev) (q : Req) (a n : Nat) : Dev :=
  let h := d.mem.hits q.kid a n
  let d := d.count q.acct 32 h
  let d := d.count q.acct 33 ((linesOf a n).length - h)
  d.count q.acct (if a < 0xC000000000 then 34 else 35) (units64 n)

/-- A read of local memory at the home: tiers, Yard, tile stores, host window (its address is a bus address). Register space reads 0 here. -/
def Dev.read (d : Dev) (q : Req) (a n : Nat) : Dev × List Byte :=
  match place a with
  | .ftier _ | .dtier _ =>
    let d := d.countTier q a n
    let r := d.mem.homeRead q.kid (d.gen q.kid) a n
    ({ d with mem := r.1 }, r.2)
  | .yard o =>
    match creditAt (yardWin (o / 2 ^ 24) 0) (2 ^ 24) (o % 2 ^ 24) with
    | some (k, w) => (d, bytesOf n (d.winRead k w).toNat)
    | none => (d.count q.acct 36 (units64 n), SMap.bytes 0 d.mem.yard o n)
  | .store b t o =>
    match creditAt (tileWin (tKey b t) 0) storeSize o with
    | some (k, w) => (d, bytesOf n (d.winRead k w).toNat)
    | none => (d, SMap.bytes 0 (d.tile (tKey b t)).store o n)
  | _ => (d, List.replicate n 0)

/-- R204: a write by address from outside the receiver falls in an enabled window. -/
def Dev.winCovers (d : Dev) (a n : Nat) : Option Nat :=
  match place a with
  | .yard o => ((List.range 8).map (yardWin (o / 2 ^ 24))).find? fun k => (d.win k).covers (o % 2 ^ 24) n
  | .store b t o => ((List.range 4).map fun i => tileWin (tKey b t) (4 + i)).find? fun k => (d.win k).covers o n
  | _ => none

/-- Writes bytes of a tile store; the words written have fresh parity (R213). -/
def Tile.put (t : Tile) (o : Nat) (bs : List Byte) : Tile :=
  { t with store := SMap.putBytes 0 t.store o bs, bad := t.bad.filter fun w => !(decide (o < 4 * w + 4) && decide (4 * w < o + bs.length)) }

/-- A write of local memory at the home. A credit counter takes whole words. -/
def Dev.write (d : Dev) (q : Req) (a : Nat) (bs : List Byte) : Dev :=
  match place a with
  | .ftier _ | .dtier _ =>
    let d := d.countTier q a bs.length
    { d with mem := d.mem.homeWrite q.port q.kid (d.gen q.kid) a bs }
  | .yard o =>
    match creditAt (yardWin (o / 2 ^ 24) 0) (2 ^ 24) (o % 2 ^ 24) with
    | some (k, w) => d.winWrite k w (BitVec.ofNat 64 (leNat bs))
    | none =>
      let d := d.count q.acct 36 (units64 bs.length)
      { d with mem := { d.mem with
          yard := SMap.putBytes 0 d.mem.yard o bs
          yardBad := SMap.drop (fun w => decide (o < 4 * w + 4) && decide (4 * w < o + bs.length)) d.mem.yardBad } }
  | .store b t o =>
    match creditAt (tileWin (tKey b t) 0) storeSize o with
    | some (k, w) => d.winWrite k w (BitVec.ofNat 64 (leNat bs))
    | none => d.setTile (tKey b t) fun x => x.put o bs
  | _ => d

/-- Host memory of partition n at a host-window offset (R245). -/
def Dev.busAddr (d : Dev) (n o : Nat) : Nat := ((d.part n).x.hwbase.toNat * 4096 + o) % 2 ^ 64
def Dev.hostRead (d : Dev) (q : Req) (bus n : Nat) : Dev × List Byte :=
  (d.count q.acct 42 (units64 n), (List.range n).map fun i => SMap.get 0 d.mem.host ((bus + i) % 2 ^ 64))
def Dev.hostWrite (d : Dev) (q : Req) (bus : Nat) (bs : List Byte) : Dev :=
  let d := d.count q.acct 42 (units64 bs.length)
  let h := (List.range bs.length).foldl (fun m i => SMap.put 0 m ((bus + i) % 2 ^ 64) (nthD 0 bs i)) d.mem.host
  { d with mem := { d.mem with host := h } }

/-- A parity event at a Yard word's address, or in a tile at any other: MEM_SRAM_ERR counts it (Table 6.6) and so does event 56; a poisoned line in a tier is event 57. -/
def Dev.sawBad (d : Dev) (q : Acct) (tile : Bool) (a : Nat) : Dev :=
  match tile, place a with
  | false, .ftier _ | false, .dtier _ => d.count q 57 1
  | _, .yard _ => { d.count q 56 1 with mem := { d.mem with errYard := min 0xFFFF (d.mem.errYard + 1) } }
  | _, _ => { d.count q 56 1 with mem := { d.mem with errTile := min 0xFFFF (d.mem.errTile + 1) } }

/-- A poisoned line or a word with bad parity in a run (R213, R214): its local address. -/
def Dev.bad (d : Dev) (a n : Nat) : Option Nat :=
  match place a with
  | .ftier _ | .dtier _ => (d.mem.poisoned a n).map (128 * ·)
  | .yard o => ((List.range ((o + n + 3) / 4 - o / 4)).find? fun i => SMap.get 0 d.mem.yardBad (o / 4 + i) ≠ 0).map
      fun i => 0x80000000000 + 4 * (o / 4 + i)
  | .store b t o => ((d.tile (tKey b t)).bad.find? fun w => decide (o / 4 ≤ w ∧ 4 * w < o + n)).map fun w => a - o + 4 * w
  | _ => none

/-- The power domain that holds a local address (R291, R292). -/
def Dev.domOf (d : Dev) (a : Nat) : Option PDom :=
  match place a with
  | .ftier s => some (.region ⟨(s / 6 * 16 + s % 6) % 64, Nat.mod_lt _ (by decide)⟩)
  | .dtier s => some (.region ⟨(s / 10 * 16 + 6 + s % 10) % 64, Nat.mod_lt _ (by decide)⟩)
  | .store b _ _ => (d.phys b).map fun p => .brick ⟨p % 72, Nat.mod_lt _ (by decide)⟩
  | _ => none

def Dev.pstate (d : Dev) : PDom → Nat
  | .brick p => (d.brick p.val).pstate
  | .region r => (SMap.get MemSide.lit d.tongs.regions r.val).pstate

/-- The domain that holds a local address is LIT. -/
def Dev.lit (d : Dev) (a : Nat) : Bool := match d.domOf a with | some p => decide (d.pstate p = 0) | none => true

/-- Tier unit u is granted to partition n, or is its Tongs pool (R314). -/
def Dev.granted (d : Dev) (n u : Nat) : Bool := decide (d.town u = n) || decide (d.town u = 0x20 + n)

/-- R230: a local run is within grant of partition n and its backing is in service. Register views answer for themselves. -/
def Dev.grant (d : Dev) (n a len : Nat) : Bool :=
  match place a with
  | .ftier s => decide (a + len ≤ 0xC000000000) && d.un.fsite.testBit s && d.granted n (unitOf a) && (decide (len = 0) || d.granted n (unitOf (a + len - 1)))
  | .dtier s => decide (a + len ≤ 0x24000000000) && d.un.dsite.testBit s && d.granted n (unitOf a) && (decide (len = 0) || d.granted n (unitOf (a + len - 1)))
  | .yard o => decide (o + len ≤ 2 ^ 32) && decide (d.st.yown (o / 2 ^ 24) = n) && (decide (len = 0) || decide (d.st.yown ((o + len - 1) / 2 ^ 24) = n))
  | .store b t o => decide (o + len ≤ storeSize) && d.tileIn (tKey b t) && decide (t < 96) && decide (d.tileOwner (tKey b t) = n)
  | .unpriv m o => decide (m = n) && decide (o + len ≤ 0x100000)
  | .host o => decide (o + len ≤ (d.part n).x.hwsize * 4096)
  | _ => false

/-- A package ID names this package (R229). -/
def Dev.here (d : Dev) (pkg : Nat) : Bool := decide (pkg = 0xFFFF) || decide (pkg = d.fab.pkgid)

/-- A word of the Yard or of a tile store with bad parity that a write of n bytes fills in part: its writer meets a parity error (R213). -/
def Dev.badEdge (d : Dev) (a n : Nat) : Option Nat :=
  match place a with
  | .yard _ | .store .. =>
    if n = 0 then none
    else match (if a % 4 ≠ 0 then d.bad (a / 4 * 4) 4 else none) with
      | some x => some x
      | none => if (a + n) % 4 ≠ 0 then d.bad ((a + n) / 4 * 4) 4 else none
  | _ => none

end Sys2Proof.Machine
end

