-- ==== Sys2Proof/Machine/Xlat.lean ====
section
/-! DEFINITION. Machine/Xlat.lean: translation in both regimes, checked accesses, atomics and the fault ring (chapter 07, R226 to R228, R455, R456). -/

namespace Sys2Proof.Machine

open Sys2Proof

/-- Outcome of a walk: a leaf with the physical address of the byte, or a fault of KIND 1 translation, 2 malformed entry, 3 permission, 4 detected (Table 7.6). -/
inductive XR where
  | ok (pa : Nat) (leaf : Word)
  | bad (kind : Nat)
deriving DecidableEq, Repr

/-- R240: bits 63:57 equal bit 56. -/
def canonical (va : Nat) : Bool := decide (fld va 63 56 = 0) || decide (fld va 63 56 = 0xFF)

/-- Page size of a level in bits (R240). -/
def pageBits (level : Nat) : Nat := if level = 0 then 16 else 12 + 9 * level

/-- Index of a table at a level (R240). -/
def tblIdx (level va : Nat) : Nat :=
  if level = 0 then fld va 20 16 else fld va (20 + 9 * level) (12 + 9 * level)

/-- One step of R241 on an entry: next table, or the end of the walk. `lo` is the regime's lowest level. -/
def entryStep (level lo va : Nat) (e : Word) : Except XR Nat :=
  let leaf := wb e 1
  if !wb e 0 then .error (.bad 1)
  else if wf e 11 10 ≠ 0 ∨ wf e 3 2 ≠ 0 then .error (.bad 2)
  else if (leaf ∧ level = 4) ∨ (!leaf ∧ level = lo) then .error (.bad 2)
  else if leaf then
    if (wf e 63 12 * 4096) % 2 ^ pageBits level ≠ 0 then .error (.bad 2)
    else .error (.ok (wf e 63 12 * 4096 + va % 2 ^ pageBits level) e)
  else .ok (wf e 47 12 * 4096)

/-- R240, R241: a walk from a table over the levels given; `tok` says whether a table pointer is allowed and which fault it gives. -/
def walkGo (q : Req) (lo : Nat) (tok : Nat → Option Nat) (va : Nat) : List Nat → Nat → Dev → Dev × XR
  | [], _, d => (d, .bad 2)
  | lv :: rest, tbl, d =>
    match tok tbl with
    | some k => (d, .bad k)
    | none =>
      let a := tbl + 8 * tblIdx lv va
      if (d.bad a 8).isSome then (d, .bad 4)
      else
        let r := d.read q a 8
        let d := r.1.count q.acct 39 1
        match entryStep lv lo va (BitVec.ofNat 64 (leNat r.2)) with
        | .error x => (d, x)
        | .ok nx => walkGo q lo tok va rest nx d

/-- R240 to R242: the engine regime's walk for partition n, with the Tongs-pool rule. -/
def Dev.walkE (d : Dev) (n va : Nat) (acct : Acct) : Dev × XR :=
  let x := (d.part n).x
  if !x.en || !canonical va then (d, .bad 1)
  else
    let r := walkGo ⟨portXfer, 32, acct⟩ 1 (fun t => if d.inCarve t 4096 then none else some 2) va [4, 3, 2, 1] (x.root.toNat * 4096 % 2 ^ 48) d
    match r.2 with
    | .ok pa e =>
      let pool := d.here (pa / 2 ^ 48) && d.inPool (some n) (pa % 2 ^ 48)
      (r.1, if pool == wb e 9 then .ok pa e else .bad 2)
    | .bad k => (r.1, .bad k)

/-- The leaf of a cached translation, for its page of 2 MiB (engine) or 64 KiB (Anvil): the physical page in bits 63:12 and the leaf's low bits. -/
def tlbWord (bits va : Nat) (pa : Nat) (e : Word) : Word :=
  BitVec.ofNat 64 ((pa - va % 2 ^ bits) / 4096 * 4096 + e.toNat % 4096)

/-- R243, R244: translation for partition n. Where a cached entry differs from the tables, an access may use either: a free value chooses. -/
def Dev.xlateE (d : Dev) (n va : Nat) (acct : Acct) : Dev × XR :=
  let vp := va / 2 ^ 21
  let old := SMap.get 0 (d.part n).x.tlb vp
  let r := d.walkE n va acct
  let keep (d : Dev) (w : Word) : Dev := d.setPart n fun p => { p with x := { p.x with tlb := SMap.put 0 p.x.tlb vp w } }
  if old = 0 then
    let d := r.1.count acct 38 1
    match r.2 with
    | .ok pa e => (keep d (tlbWord 21 va pa e), r.2)
    | .bad k => (if k ≤ 2 then d.count acct 59 1 else d, .bad k)
  else
    let cached : XR := .ok (wf old 63 12 * 4096 + va % 2 ^ 21) old
    match r.2 with
    | .ok pa e =>
      if tlbWord 21 va pa e = old then (d, .ok pa e)
      else
        let f := d.free
        if wb f.1 0 then (keep f.2 (tlbWord 21 va pa e), .ok pa e) else (f.2, cached)
    | .bad k =>
      let f := d.free
      if wb f.1 0 then (f.2.count acct 59 1, .bad k) else (f.2, cached)

/-- R230, R368: a physical address as an access of partition n. -/
def Dev.target (d : Dev) (n pa len : Nat) : Acc :=
  let a := pa % 2 ^ 48
  if !d.here (pa / 2 ^ 48) then (if d.st.jobtag n = 0 then .bad 3 else .remote (pa / 2 ^ 48) a)
  else if !d.grant n a len then .bad 3
  else match place a with
    | .host o => .host (d.busAddr n o)
    | _ => if d.lit a then .loc a else .wait

/-- R292: traffic for a domain that is not LIT waits, and asks for its wake. -/
def Dev.wantWake (d : Dev) (a : Nat) : Dev :=
  match d.domOf a with
  | some p => if d.tongs.want.contains p then d else { d with tongs := { d.tongs with want := p :: d.tongs.want } }
  | none => d

/-- R284: a pool page gains 1 for each sampled access of those that miss the Hearth, one in 64; which ones are sampled is open, so a free value says. -/
def Dev.heatPage (d : Dev) (n va a : Nat) : Dev :=
  if d.mem.hits n a 1 ≠ 0 then d
  else
    let f := d.free
    if wf f.1 5 0 ≠ 0 then f.2
    else f.2.setServing n fun t => { t with heats := SMap.upd 0 t.heats (va / 2 ^ 21) fun h => sat 8 (h + 1) }

/-- One checked access of the engine regime within one page: read or write. -/
def Dev.accE (d : Dev) (n va len : Nat) (write : Bool) (acct : Acct) : Dev × Acc :=
  let r := d.xlateE n va acct
  match r.2 with
  | .bad k => (r.1, .bad k)
  | .ok pa e =>
    if !wb e (if write then 6 else 5) then (r.1.count acct 60 1, .bad 3)
    else
      let t := r.1.target n pa len
      match t with
      | .bad k => (r.1.count acct 60 1, .bad k)
      | .wait => (r.1.wantWake (pa % 2 ^ 48), .wait)
      | .loc a => (if wb e 9 then r.1.heatPage n va a else r.1, .loc a)
      | t => (r.1, t)

/-- Runs of a byte range cut at 2 MiB pages, then at 1 GiB units of the tiers by construction. -/
def pieces (va len : Nat) : List (Nat × Nat) :=
  if len = 0 then []
  else (List.range ((va + len - 1) / 2 ^ 21 - va / 2 ^ 21 + 1)).map fun i =>
    let lo := max va ((va / 2 ^ 21 + i) * 2 ^ 21)
    let hi := min (va + len) ((va / 2 ^ 21 + i + 1) * 2 ^ 21)
    (lo, hi - lo)

/-- All pieces of a range translate before any byte moves (R249): the accesses with their lengths, or the faulting address and kind; kind 0 is a wait. -/
def Dev.accRange (n : Nat) (write : Bool) (acct : Acct) : List (Nat × Nat) → Dev → Dev × Except (Nat × Nat) (List (Acc × Nat))
  | [], d => (d, .ok [])
  | (va, len) :: rest, d =>
    let r := d.accE n va len write acct
    match r.2 with
    | .bad k => (r.1, .error (va, k))
    | .wait => (r.1, .error (va, 0))
    | a =>
      let q := Dev.accRange n write acct rest r.1
      match q.2 with
      | .ok l => (q.1, .ok ((a, len) :: l))
      | .error e => (q.1, .error e)

/-- Reads local pieces in order; a remote piece gives zeros here and is fetched by the fabric. -/
def Dev.readAll (q : Req) : List (Acc × Nat) → Dev → Dev × List Byte
  | [], d => (d, [])
  | (a, n) :: rest, d =>
    let r := match a with
      | .loc p => d.read q p n
      | .host b => d.hostRead q b n
      | _ => (d, List.replicate n 0)
    let s := Dev.readAll q rest r.1
    (s.1, r.2 ++ s.2)

/-- Writes bytes over pieces in order. -/
def Dev.writeAll (q : Req) : List (Acc × Nat) → List Byte → Dev → Dev
  | [], _, d => d
  | (a, n) :: rest, bs, d =>
    let d := match a with
      | .loc p => d.write q p (bs.take n)
      | .host b => d.hostWrite q b (bs.take n)
      | _ => d
    Dev.writeAll q rest (bs.drop n) d

/-- A local piece that R204 refuses for a writer outside the receiver: its window. -/
def Dev.refusedBy (d : Dev) (l : List (Acc × Nat)) : Option Nat :=
  l.findSome? fun p => match p.1 with | .loc a => d.winCovers a p.2 | _ => none

/-- A local piece that touches a credit block, whose words take only aligned 64-bit accesses (R192). -/
def touchesCredit (l : List (Acc × Nat)) : Bool :=
  l.any fun p => match p.1 with
    | .loc a => (match place a with
        | .store _ _ o => decide (0x7FF00 < o + p.2) && !(p.2 == 8 && o % 8 == 0)
        | .yard o => decide (0xFFFF00 < o % 2 ^ 24 + p.2) && !(p.2 == 8 && o % 8 == 0)
        | _ => false)
    | _ => false

/-- BADWR of a window whose range a refused write met (R204). -/
def Dev.badWr (d : Dev) (k : Nat) : Dev := d.putWin k { d.win k with badwr := true }

/-- A poisoned line or bad word among local pieces. -/
def Dev.badIn (d : Dev) (l : List (Acc × Nat)) : Option Nat :=
  l.findSome? fun p => match p.1 with | .loc a => d.bad a p.2 | _ => none

/-- A word with bad parity that the writes of a run fill in part (R213). -/
def Dev.badEdges (d : Dev) (l : List (Acc × Nat)) : Option Nat :=
  l.findSome? fun p => match p.1 with | .loc a => d.badEdge a p.2 | _ => none

/-! ### Atomics (R167, R226 to R228, R486) -/

/-- A far AMO on a local word, or a held read and write in the host window: the old value. `f` gives the new value, none for no write. -/
def Dev.farAmo (d : Dev) (q : Req) (a : Acc) (bytes : Nat) (f : Nat → Option Nat) (core : Option Nat) : Dev × Nat :=
  match a with
  | .loc p =>
    let l := p / 128
    let prev := SMap.get 0 d.mem.lastAmo l
    let tier := match place p with | .ftier _ | .dtier _ => true | _ => false
    let d := if tier then { d with mem := d.mem.recall d.gen l } else d
    let r := d.read q p bytes
    let old := leNat r.2
    let d := match f old with
      | some v => r.1.write q p (bytesOf bytes v)
      | none => r.1
    let d := if tier then d.count q.acct 47 1 else d
    let d := match core with
      | some c => if tier then { d with mem := d.mem.predUpd c l (decide (prev ≠ c + 1)) } else d
      | none => d
    (if tier then { d with mem := { d.mem with lastAmo := SMap.put 0 d.mem.lastAmo l (match core with | some c => c + 1 | none => 0) } } else d, old)
  | .host b =>
    let r := d.hostRead q b bytes
    let old := leNat r.2
    match f old with
    | some v => (if v = old then r.1 else r.1.hostWrite q b (bytesOf bytes v), old)
    | none => (r.1, old)
  | _ => (d, 0)

/-- A near AMO in a core's own cache (R226, R228). -/
def Dev.nearAmo (d : Dev) (core kid a bytes : Nat) (f : Nat → Option Nat) : Dev × Nat :=
  let l := a / 128
  let r := d.mem.cOwn kid d.gen core l
  let old := leNat ((r.2.1.drop (a % 128)).take bytes)
  let m := match f old with
    | some v => r.1.cStore kid d.gen core a (bytesOf bytes v)
    | none => r.1
  let m := if r.2.2.1 then m.predUpd core l true else if r.2.2.2 then m.predUpd core l false else m
  ({ d with mem := { m with lastAmo := SMap.put 0 m.lastAmo l (core + 1) } }, old)

/-! ### The Anvil regime -/

/-- R241: the Anvil regime's walk for a core. -/
def Dev.walkA (d : Dev) (core va : Nat) : Dev × XR :=
  let n := d.coreOwner core
  if !canonical va then (d, .bad 1)
  else
    let acct : Acct := ⟨none, some n⟩
    walkGo ⟨portCore core, n, acct⟩ 0 (fun t => if d.grant n t 4096 then none else some 3) va [4, 3, 2, 1, 0]
      (wf (d.core core).ptroot 47 12 * 4096) d

/-- One checked access of an Anvil core: kind 0 read, 1 write, 2 fetch. The flag says that the access is cached (R182, Table 7.3). -/
def Dev.accA (d : Dev) (core va len kind : Nat) : Dev × Acc × Bool :=
  let c := d.core core
  let n := d.coreOwner core
  let acct : Acct := ⟨none, some n⟩
  let r := d.walkA core va
  match r.2 with
  | .bad k => (r.1.count acct (if k = 3 then 60 else 59) 1, .bad k, false)
  | .ok pa e =>
    let a := pa % 2 ^ 48
    let here := d.here (pa / 2 ^ 48)
    let no : Dev × Acc × Bool := (r.1.count acct 60 1, .bad 3, false)
    if !wb e (if kind = 0 then 5 else if kind = 1 then 6 else 7) then no
    else if c.cpl = 0 ∧ !wb e 4 then no
    else if c.cpl = 1 ∧ wb e 4 ∧ !c.sum then no
    else if here ∧ (d.inCarve a 1 ∨ d.inPool none a) then no
    else match r.1.target n pa len with
      | .bad _ => no
      | .loc x => (r.1, .loc x, (match place x with | .ftier _ | .dtier _ => !wb e 8 | _ => false))
      | .wait => (r.1.wantWake a, .wait, false)
      | t => (r.1, t, false)

/-- An Anvil read of up to 64 bytes within one line: none on a poisoned line (R217). -/
def Dev.readA (d : Dev) (core : Nat) (a : Acc) (cached : Bool) (n : Nat) : Dev × Option (List Byte) :=
  let kid := d.coreOwner core
  let q : Req := ⟨portCore core, kid, ⟨none, some kid⟩⟩
  match a with
  | .loc p =>
    if cached then
      if (d.mem.holders (p / 128)).isEmpty ∧ (d.bad p n).isSome then (d, none)
      else
        let miss := (d.mem.cLine core (p / 128)).isNone
        let d := if miss then d.countTier q (p / 128 * 128) 128 else d
        let r := d.mem.cRead kid d.gen core (p / 128)
        ({ d with mem := r.1 }, some ((r.2.drop (p % 128)).take n))
    else if (d.bad p n).isSome then (d, none)
    else let r := d.read q p n; (r.1, some r.2)
  | .host b => let r := d.hostRead q b n; (r.1, some r.2)
  | _ => (d, none)

/-- An Anvil store within one line; false where R192 or R204 refuses it. -/
def Dev.writeA (d : Dev) (core : Nat) (a : Acc) (cached : Bool) (bs : List Byte) : Dev × Bool :=
  let kid := d.coreOwner core
  let q : Req := ⟨portCore core, kid, ⟨none, some kid⟩⟩
  match a with
  | .loc p =>
    if cached then ({ d with mem := d.mem.cStore kid d.gen core p bs }, true)
    else if touchesCredit [(a, bs.length)] then (d, false)
    else match d.refusedBy [(a, bs.length)] with
      | some k => (d.badWr k, false)
      | none => (d.write q p bs, true)
  | .host b => (d.hostWrite q b bs, true)
  | _ => (d, false)

/-! ### The fault ring (R455, R456) -/

/-- Depth of a fault ring (Table 15.6). -/
def frDepth (log : Nat) : Nat := 2 ^ (max 4 (min 12 log))

/-- R456: an entry for partition n, written through its engine translations or discarded and counted; the fault event is raised either way. -/
def Dev.faultEntry (d : Dev) (n rtype : Nat) (body : List Byte) (pf : Bool) (layer : Nat) (addr : Word) : Dev :=
  let g := (d.part n).d
  let lose (d : Dev) : Dev := d.setPart n fun p => { p with d := { p.d with lost := sat 16 (p.d.lost + 1) } }
  let d1 :=
    if !g.fren || decide ((g.tail + 1) % frDepth g.frlog = g.head) then lose d
    else
      let va := g.frbase.toNat * 4096 + 64 * g.tail
      let r := d.accE n va 64 true ⟨none, some n⟩
      let e := body ++ bytesOf 8 (b2n g.phase * 2 ^ 63 + rtype * 2 ^ 56 + b2n pf * 2 ^ 55 + layer) ++ bytesOf 8 d.time ++ bytesOf 8 addr.toNat ++
        bytesOf 8 0
      match r.2 with
      | .loc _ | .host _ =>
        let d := Dev.writeAll ⟨portXfer, n, ⟨none, some n⟩⟩ [(r.2, 64)] e r.1
        let nt := (g.tail + 1) % frDepth g.frlog
        d.setPart n fun p => { p with d := { p.d with tail := nt, phase := if nt = 0 then !g.phase else g.phase } }
      | _ => lose r.1
  d1.raiseEvt n 0

/-- IDS word of a fault body: STEP and OPER (R455). -/
def idsWord (step oper : Nat) : Nat := step + oper * 2 ^ 32

/-- Body of Table 7.6. -/
def xferBody (va : Nat) (parked side : Bool) (kind row fgen slot queue step oper : Nat) : List Byte :=
  bytesOf 8 va ++ bytesOf 8 (b2n parked * 2 ^ 57 + b2n side * 2 ^ 56 + kind * 2 ^ 48 + row) ++
    bytesOf 8 (fgen * 2 ^ 48 + slot * 2 ^ 32 + queue) ++ bytesOf 8 (idsWord step oper)

/-- The fault record of a transfer command (R252, R456). -/
def Dev.xferFault (d : Dev) (c : Cmd) (va : Nat) (parked side : Bool) (kind row fgen : Nat) : Dev :=
  d.faultEntry c.part 1 (xferBody va parked side kind row fgen c.ref.slot.toNat c.ref.q.val c.step c.oper) c.viaPf c.layer 0

/-- Status of a fault kind (R241). -/
def kindStatus (k : Nat) : Nat := if k = 3 then stPermission else if k = 4 then stDetected else stTranslation

/-- Body of Table 15.2 and its entry (R456): one per KERNEL command that ends with a fault. -/
def Dev.kernelFault (d : Dev) (c : Cmd) (k : KFault) : Dev :=
  let body := bytesOf 8 k.pc.toNat ++
    bytesOf 8 (k.reason * 2 ^ 56 + k.unit * 2 ^ 52 + (k.tile / 128) * 2 ^ 45 + (k.tile % 128) * 2 ^ 38 + k.thread * 2 ^ 32 + k.insn) ++
    bytesOf 8 (c.ref.slot.toNat * 2 ^ 32 + c.ref.q.val) ++ bytesOf 8 (idsWord c.step k.oper)
  let addr := if k.reason = 2 ∨ k.reason = 4 ∨ k.reason = 5 ∨ k.reason = 9 ∨ k.reason = 0xA then k.addr else 0
  d.faultEntry c.part 2 body c.viaPf k.layer addr

end Sys2Proof.Machine
end

