-- ==== Sys2Proof/Machine/Cmds.lean ====
section
/-! DEFINITION. Machine/Cmds.lean: the life of a command: start rules, partition faults, tasks on tiles, failure, re-strike and stop (R215, R327, R341, R348). -/

namespace Sys2Proof.Machine

open Sys2Proof

/-! ### Start rules (R341, R346, R372, R377, R466) -/

/-- Earlier commands of the same queue. -/
def Dev.earlier (d : Dev) (c : Cmd) : List Cmd := (d.cmds.takeWhile fun x => x.ref ≠ c.ref).filter fun x => x.ref.qk = c.ref.qk
def Dev.earlierDone (d : Dev) (c : Cmd) : Bool := (d.earlier c).all fun x => !x.open_
/-- Opcodes that act after every earlier command of their queue: SIGNAL, FENCE, MARK, BARRIER, SNAPSHOT. -/
def waitsForAll (op : Nat) : Bool := op == 0x18 || op == 0x1A || op == 0x21 || op == 0x30 || op == 0x31
/-- A fired DUMP holds the command (R466). -/
def Dev.dumpHeld (d : Dev) (r : CmdRef) : Bool := d.cmds.any fun x => decide (x.phase = .fired) && x.hold.contains r
/-- A SNAPSHOT of the partition keeps the command from starting tasks, rows and page moves (R377): every command but the earlier ones of its own queue. -/
def Dev.snapHeld (d : Dev) (c : Cmd) : Bool :=
  match (d.part c.part).snap with
  | none => false
  | some r =>
    decide (r ≠ c.ref) && match d.cmd r with
      | some s => !((d.earlier s).any fun x => x.ref = c.ref)
      | none => false

/-- R341: the command may start. -/
def Dev.canStart (d : Dev) (c : Cmd) : Bool :=
  d.live && decide (c.phase = .waiting) && ((!c.after && !waitsForAll c.op) || d.earlierDone c) &&
    (d.earlier c).all (fun x => !(x.open_ && (x.op == 0x19 || x.op == 0x1A))) && !d.dumpHeld c.ref

/-- The command of opcode op starts if it may; one that is marked completes without effect (R295). -/
def Dev.start_ (d : Dev) (r : CmdRef) (op : Nat) (k : Cmd → Dev → Dev) : Dev :=
  match d.cmd r with
  | none => d
  | some c =>
    if c.op ≠ op || !d.canStart c then d
    else if c.marked then d.complete r stCancelBefore
    else k { c with phase := .running } ((d.setCmd r fun c => { c with phase := .running }).ring 0 r.hunit 0x02 (some c) 0)

/-- A command of opcode op that has started and not completed. -/
def Dev.running_ (d : Dev) (r : CmdRef) (op : Nat) : Option Cmd :=
  match d.cmd r with
  | some c => if c.op = op ∧ c.phase = .running ∧ d.live then some c else none
  | none => none

/-! ### Partition faults (R327) -/

def Dev.partFault (d : Dev) (n : Nat) : Dev :=
  let d := if (d.part n).faulted then d else (d.setPart n fun p => { p with faulted := true }).raisePkg 4
  d.raiseEvt n 0

/-! ### Tasks on tiles -/

/-- Address of the rank word (R266). -/
def rankAddr : Nat := 0x7FEF8

/-- R266. -/
def Dev.writeRank (d : Dev) (k : Nat) (t : Task) : Dev := d.setTile k fun x => x.put rankAddr (bytesOf 8 (t.rank + t.ntiles * 2 ^ 16))

/-- The task of rank `rank` of a KERNEL command (R173, R344). -/
def kernelTask (c : Cmd) (rank ntiles : Nat) : Task :=
  { cmd := c.ref, part := c.part, rank := rank, node := none, viaPf := c.viaPf, rsafe := c.rsafe, ntiles := ntiles, place := c.w 0x30, pc := c.w 0x20,
    arg := c.w 0x28, seed := c.w 0x38, layer := c.layer, oper := c.oper }

def Dev.setTasks (d : Dev) (r : CmdRef) (p : TRun → Bool) (f : TRun → TRun) : Dev :=
  d.setCmd r fun c => { c with tasks := c.tasks.map fun t => if p t then f t else t }

/-- Whether a command has been cancelled or has failed: its marks are set (R294, R348). -/
def Dev.markedCmd (d : Dev) (r : CmdRef) : Bool :=
  match d.cmd r with | some c => c.marked || !c.open_ | none => true

/-- Requests of an agent on a tile. -/
def onTile (k : Nat) : Waiter → Bool
  | .agent (.smith t) .. | .agent (.group t _) .. => t.key == k
  | _ => false

/-- The task on a tile stops at once: what was in flight is undefined, every queue is dropped (R85, R111, R145, R159). -/
def Dev.stopTile (d : Dev) (k : Nat) : Dev :=
  let r := (d.tile k).scramble d.fi
  let d := { d with fi := r.2 }
  ((d.setTile k fun _ => r.1.stop).forget (onTile k))

/-- Messages and ready tasks that p selects are withdrawn. -/
def Dev.withdraw (d : Dev) (p : Task → Bool) : Dev :=
  let keep (m : Msg) : Bool := match m.load with | .task t => !p t | .span .. => true
  { d with tongs := { d.tongs with
      inflight := d.tongs.inflight.filter keep
      slag := d.tongs.slag.filter keep
      ready := (d.tongs.ready.map fun e => (e.1, e.2.filter fun t => !p t)).filter fun e => !e.2.isEmpty } }

/-- Stops every running task that p selects and withdraws the others. -/
def Dev.stopTasks (d : Dev) (p : Task → Bool) : Dev :=
  let ks := (d.tiles.filter fun e => match e.2.task with | some t => p t | none => false).map (·.1)
  (ks.foldl Dev.stopTile d).withdraw p

/-- R348: a task has failed: the command takes the status of the first failure, writes its kernel fault entry, and its other tasks are cancelled. -/
def Dev.failCmd (d : Dev) (r : CmdRef) (status : Nat) (f : Option KFault) : Dev :=
  match d.cmd r with
  | none => d
  | some c =>
    if c.marked || !c.open_ then d
    else
      let d := d.setCmd r fun c => { c with status := status, marked := true }
      match f with | some k => d.kernelFault c k | none => d

/-- R37, R215: every task that p selects runs again, on the same tiles with the same ranks. -/
def Dev.rerun (d : Dev) (r : CmdRef) (p : Task → Bool) : Dev :=
  match d.cmd r with
  | none => d
  | some c =>
    let ts := c.tasks.filter fun t => p t.task
    let d := (d.stopTasks fun t => t.cmd = r && p t).setTasks r (fun t => p t.task) fun t => { t with phase := 0, status := 0 }
    let d := d.setCmd r fun c => { c with restruck := c.restruck + 1 }
    let d := d.count c.acct 7 1
    ts.foldl (fun d t =>
      let d := d.writeRank t.tile t.task
      { d with tongs := { d.tongs with ready := SMap.upd [] d.tongs.ready t.tile fun l => l ++ [t.task] } }) d

/-- R215: another re-strike of the whole command is allowed after an error at address a. -/
def Cmd.mayRestrike (c : Cmd) (rsafe : Bool) (a : Nat) : Bool := rsafe && decide (c.restruck < 2) && decide (c.badAt ≠ some a)

/-- R215 for a transfer: it starts again from row 0, or ends with DETECTED_ERROR and, where it is not restrike-safe, a partition fault. -/
def Dev.xferError (d : Dev) (r : CmdRef) (a : Nat) : Dev :=
  match d.cmd r with
  | none => d
  | some c =>
    let d := d.sawBad c.acct false a
    if c.mayRestrike c.rsafe a then
      ((d.setCmd r fun c => { c with restruck := c.restruck + 1, badAt := some a, move := { MoveRun.init with fgen := c.move.fgen } }).forget
        fun w => w.cmd = some r).count c.acct 7 1
    else
      let d := d.complete r stDetected
      if c.rsafe then d else d.partFault c.part

end Sys2Proof.Machine
end

