-- ==== Sys2Proof/Machine/Trace.lean ====
section
/-! DEFINITION. Machine/Trace.lean: instruction trace (R462 to R464). A trace source is a tile's key for its Smith core, or 65536 + core for an Anvil core. -/

namespace Sys2Proof.Machine

open Sys2Proof

/-- R462: 16 bytes at WP; a record that would pass the end stops the trace or wraps it. -/
def Dev.traceRaw (d : Dev) (n : Nat) (bs : List Byte) : Dev :=
  let g := (d.part n).d
  let len := g.trlen * 4096
  let set (f : Dbg → Dbg) (d : Dev) : Dev := d.setPart n fun p => { p with d := f p.d }
  let wr (at_ : Nat) (d : Dev) : Dev :=
    { d with mem := { d.mem with yard := SMap.putBytes 0 d.mem.yard ((g.trbase * 4096 + at_) % 2 ^ 32) bs } }
  if !g.tren then d
  else if g.wp + 16 ≤ len then wr g.wp (set (fun g => { g with wp := g.wp + 16 }) d)
  else if !g.mode then (set (fun g => { g with tren := false }) d).raiseEvt n 3
  else
    let d := (set (fun g => { g with wp := min 16 len, wraps := (g.wraps + 1) % 2 ^ 32 }) d).raiseEvt n 3
    if 16 ≤ len then wr 0 d else d

/-- Table 15.7. -/
def traceRec (typ srck src info data : Nat) : List Byte := bytesOf 8 (typ * 2 ^ 60 + srck * 2 ^ 58 + src * 2 ^ 44 + info) ++ bytesOf 8 data

/-- Partition of a source while it is traced (R462). -/
def Dev.traced (d : Dev) (key : Nat) : Option Nat :=
  if key < 65536 then
    match (d.tile key).task with
    | none => none
    | some t =>
      let g := (d.part t.part).d
      if g.tren && g.src.testBit 0 && (g.operf == 0xFFFF || g.operf == t.oper) then some t.part else none
  else
    let n := d.coreOwner (key - 65536)
    let g := (d.part n).d
    if g.tren && g.src.testBit 1 && decide ((d.core (key - 65536)).cpl < 2) then some n else none

/-- A record of a source, with its count. -/
def Dev.srcRec (d : Dev) (n key typ info data : Nat) : Dev :=
  let d := d.traceRaw n (traceRec typ (if key < 65536 then 0 else 1) (key % 65536) info data)
  { d with trace := SMap.upd TSrc.init d.trace key fun s => { s with n := (s.n + 1) % 256 } }

/-- The value of outcomes as bits, outcome 1 lowest. -/
def outBits (l : List Bool) : Nat := (List.range l.length).foldl (fun a i => a + b2n (nthD false l i) * 2 ^ i) 0

/-- A source's TNT record of the outcomes that it holds (R463). -/
def Dev.flushTnt (d : Dev) (n key : Nat) : Dev :=
  let s := SMap.get TSrc.init d.trace key
  if s.outs.isEmpty then d
  else
    let d := d.srcRec n key 2 (s.outs.length * 2 ^ 37 + outBits (s.outs.take 37)) (outBits (s.outs.drop 37))
    { d with trace := SMap.upd TSrc.init d.trace key fun s => { s with outs := [] } }

/-- A SYNC record: the time and the PC of the next instruction. -/
def Dev.sync (d : Dev) (n key : Nat) (next : Word) : Dev := (d.flushTnt n key).srcRec n key 1 (d.time % 2 ^ 44) next.toNat

/-- A record other than TNT and SYNC, and the SYNC that follows it after TRAP, TRET or 256 records. -/
def Dev.traceEv (d : Dev) (key typ info data : Nat) (next : Word) : Dev :=
  match d.traced key with
  | none => d
  | some n =>
    let d := (d.flushTnt n key).srcRec n key typ info data
    if typ = 4 ∨ typ = 5 ∨ (SMap.get TSrc.init d.trace key).n = 0 then d.sync n key next else d

/-- The outcome of a conditional branch. -/
def Dev.traceBranch (d : Dev) (key : Nat) (taken : Bool) (next : Word) : Dev :=
  match d.traced key with
  | none => d
  | some n =>
    let d := { d with trace := SMap.upd TSrc.init d.trace key fun s => { s with outs := s.outs ++ [taken] } }
    if (SMap.get TSrc.init d.trace key).outs.length < 101 then d
    else
      let d := d.flushTnt n key
      if (SMap.get TSrc.init d.trace key).n = 0 then d.sync n key next else d

/-- The target of a JLR. -/
def Dev.traceTarget (d : Dev) (key : Nat) (tgt : Word) : Dev := d.traceEv key 3 0 tgt.toNat tgt

/-- A task begins (R463). -/
def Dev.traceBegin (d : Dev) (key : Nat) (pc : Word) : Dev :=
  match d.traced key with
  | none => d
  | some n => d.sync n key pc

end Sys2Proof.Machine
end

