-- ==== Sys2Proof/Machine/Queues.lean ====
section
/-! DEFINITION. Machine/Queues.lean: doorbells, acceptance, completion records, queue registers and queue reset (R338 to R350, R428). -/

namespace Sys2Proof.Machine

open Sys2Proof

/-! ### Descriptor checks (R10, R343, R344, ch. 07 "Descriptors of this chapter") -/

/-- Used bits of the words from 0x20 on, by opcode; none where the opcode is reserved (Tables 0.8, 7.5, 10.12, 11.3, R254 to R260, R273 to R275, R294, R464, R465). -/
def usedBits (op : Nat) : Option (List Nat) :=
  let all := 2 ^ 64 - 1
  let l40 := 2 ^ 40 - 1
  match op with
  | 0x01 => some [all, all, 0xFFFC3FFF00000000, all]
  | 0x02 | 0x03 | 0x04 => some [all, all, all - 0x3F00000000, all, all, all, all, all, all, all, all, all]
  | 0x05 => some [all, l40, all]
  | 0x08 => some [all, 2 ^ 37 - 1, all]
  | 0x09 => some [all, l40, 0xF]
  | 0x0A => some [0x0001FFFFFFFF007F]
  | 0x10 => some [all, 0xFFFFFFFF00001FFF]
  | 0x11 => some [0xFFFF, all, all, all, all]
  | 0x12 => some [0xFFFF]
  | 0x18 => some [all, all, 3, all, all]
  | 0x19 => some [all, all, 3]
  | 0x1A | 0x3F => some []
  | 0x1B => some [0x00010000FFFF007F]
  | 0x20 => some [0xFFFFFFFFFFFF0001, 0xFFFFF, all, all, l40]
  | 0x21 => some [all]
  | 0x30 => some [all, 0xE000FFFFFFFFFFFF, all, l40]
  | 0x31 => some [all, 0xC000FFFFFFFFFFFF, all, 0x1FFF]
  | _ => none

/-- Used bits of the common header (Table 10.11). -/
def headBits : List Nat := [0xFF0000073F, 2 ^ 64 - 1, 2 ^ 52 - 1, 0xFFFF]

/-- A word with no bit outside its used ones. -/
def within (v m : Nat) : Bool := v &&& m == v

/-- No reserved bit of the descriptor is set, and its opcode is defined. -/
def reservedOk (c : Cmd) : Bool :=
  match usedBits c.op with
  | none => false
  | some us => (List.range 16).all fun i => within (c.f (8 * i) 63 0) (nthD 0 (headBits ++ us) i)

/-- MOVE, COPY_IN or COPY_OUT: the commands with the fields of Table 7.5. -/
def Cmd.isMove (c : Cmd) : Bool := decide (2 ≤ c.op) && decide (c.op ≤ 4)
/-- Rows of a MOVE (R247); a DUMP copies one run, a SNAPSHOT one for each region. -/
def Cmd.cnt (c : Cmd) (k : Nat) : Nat := c.f (0x40 + 16 * (k - 1)) 31 0 + 1
def Cmd.rows (c : Cmd) : Nat :=
  if c.isMove then c.cnt 1 * c.cnt 2 * c.cnt 3 * c.cnt 4 else if c.op = 0x31 then c.f 0x38 12 0 else 1
def Cmd.rowLen (c : Cmd) : Nat := c.f 0x30 63 48 + 1
def Cmd.smode (c : Cmd) : Nat := if c.isMove then c.f 0x30 42 41 else 0
def Cmd.swBits (c : Cmd) : Nat := 4 * 2 ^ c.f 0x30 40 39
def Cmd.dkind (c : Cmd) : Bool := c.isMove && c.f 0x30 46 46 == 1
def Cmd.rowCount (c : Cmd) : Bool := c.isMove && c.f 0x30 38 38 == 1
def Cmd.resumable (c : Cmd) : Bool := c.isMove && c.f 0x30 47 47 == 1

/-- Copy engines that partition n owns in a direction: even engines carry host to device (R317). -/
def Dev.copyEngines (d : Dev) (n : Nat) (toHost : Bool) : List Nat :=
  (List.range 16).filter fun e => d.st.ceown e = n ∧ e % 2 = b2n toHost

/-- Values that the tables mark reserved, ranges, and units that are absent when the descriptor is accepted (R9, R10). -/
def valuesOk (d : Dev) (c : Cmd) : Bool :=
  match c.op with
  | 0x01 =>
    let role := c.f 0x30 63 61
    decide (1 ≤ role ∧ role ≤ 4) && decide (c.f 0x30 60 58 ≤ 4) && (c.f 0x30 57 57 == 0 || d.brickIn (c.f 0x30 56 50))
  | 0x02 | 0x03 | 0x04 =>
    decide (c.smode ≠ 3) && !(c.smode == 1 && c.f 0x30 40 39 == 0) && (c.smode ≠ 0 || c.f 0x30 31 0 == 0) && decide (c.rows ≤ 2 ^ 40) &&
      (c.smode ≠ 1 || 8 * c.rowLen % c.swBits == 0) && (c.smode ≠ 2 || c.rowLen == 8 * c.swBits) && (!c.rowCount || c.f 0x38 2 0 == 0) &&
      (c.op == 0x02 || !(d.copyEngines c.part (c.op == 0x04)).isEmpty)
  | 0x08 => c.f 0x20 20 0 == 0 && c.f 0x30 2 0 == 0
  | 0x09 => decide (c.f 0x30 3 0 ≤ 5)
  | 0x10 => c.f 0x20 5 0 == 0
  | 0x18 => decide (c.f 0x30 1 0 ≠ 3) && c.f 0x20 2 0 == 0
  | 0x19 => decide (c.f 0x30 1 0 ≠ 3) && c.f 0x20 2 0 == 0
  | 0x20 => decide (1 ≤ c.f 0x40 39 0 ∧ c.f 0x40 39 0 ≤ 2 ^ 32)
  | 0x30 | 0x31 =>
    let scope := c.f 0x28 63 62
    decide (scope ≠ 3) && decide (1 ≤ c.f 0x28 47 32 ∧ c.f 0x28 47 32 ≤ 2048) &&
      (scope == 0 || decide (1 ≤ c.f 0x28 31 16 ∧ c.f 0x28 31 16 ≤ 64)) && (scope ≠ 2 || decide (1 ≤ c.f 0x28 15 0 ∧ c.f 0x28 15 0 ≤ 1024)) &&
      (c.op == 0x30 || decide (1 ≤ c.f 0x38 12 0 ∧ c.f 0x38 12 0 ≤ 4096))
  | _ => true

/-- R343. -/
def partOk (d : Dev) (c : Cmd) : Bool :=
  if c.viaPf then decide (c.part < 32) && decide ((d.part c.part).st = 1) else c.f 0 39 32 == 0

/-! ### Ring accesses -/

/-- The queue accepts nothing (Table 10.10 STOPPED): partition fault, reset or a state other than RUNNING. -/
def Dev.qStopped (d : Dev) (fn : Nat) : Bool := decide (fn ≠ 0) && (decide ((d.part (fn - 1)).st ≠ 1) || (d.part (fn - 1)).faulted)

/-- A ring range of a function: VF rings at virtual addresses of the partition, PF rings in the table carve. -/
def Dev.ringAcc (d : Dev) (fn va len : Nat) (write : Bool) : Dev × Except (Nat × Nat) (List (Acc × Nat)) :=
  if fn = 0 then (d, if d.inCarve va len then .ok [(.loc va, len)] else .error (va, 3))
  else
    let r := Dev.accRange (fn - 1) write ⟨none, some (fn - 1)⟩ (pieces va len) d
    match r.2 with
    | .ok l => if l.any (fun p => match p.1 with | .remote .. => true | _ => false) then (r.1, .error (va, 3)) else r
    | .error _ => r

def ringReq (fn : Nat) : Req := ⟨portPcie, if fn = 0 then 32 else fn - 1, ⟨none, if fn = 0 then none else some (fn - 1)⟩⟩

/-- R347. -/
def Dev.ringFault (d : Dev) (qk va : Nat) (completion : Bool) (layer : Nat) : Dev :=
  let d := d.setQueue qk fun q => { q with en := false, ringfault := true }
  if qk / 64 = 0 then d.pkgErr 1
  else
    let n := qk / 64 - 1
    let d := d.faultEntry n 4 (bytesOf 8 va ++ bytesOf 8 (b2n completion * 256 + qk % 64) ++ bytesOf 16 0) false layer 0
    d.partFault n

/-! ### Completion records (R342, R349, R350) -/

/-- Table 10.13. -/
def recordBytes (c : Cmd) (phase : Bool) : List Byte :=
  bytesOf 8 (b2n phase * 2 ^ 63 + c.status * 2 ^ 48 + c.reason * 2 ^ 40 + b2n c.wbound * 2 ^ 39 + b2n c.nospace * 2 ^ 38 + c.op * 2 ^ 24 +
    c.ref.q.val * 2 ^ 16 + c.ref.slot.toNat) ++
  bytesOf 8 (c.f 8 63 0) ++ bytesOf 8 (c.layer * 2 ^ 32 + c.step) ++ bytesOf 8 (c.oper * 2 ^ 48 + min (2 ^ 48 - 1) (c.doneAt - c.at_)) ++
  ((List.range 8).map fun i => bytesOf 4 (nthD 0 c.delta i)).flatten

/-- The slot still names a command (R340). -/
def Dev.reservedSlot (d : Dev) (qk slot : Nat) : Bool := d.cmds.any fun c => c.ref.qk == qk && c.ref.slot.toNat == slot

/-- R340: SQHEAD advances over consecutive released slots. -/
def Dev.advance (d : Dev) (qk : Nat) : Nat → Dev
  | 0 => d
  | k + 1 =>
    let q := d.queue qk
    if q.sqhead = q.acc || d.reservedSlot qk q.sqhead then d
    else Dev.advance (d.setQueue qk fun q => { q with sqhead := (q.sqhead + 1) % q.depth }) qk k

/-- Commands of a queue that hold slots. -/
def Dev.qCmds (d : Dev) (qk : Nat) : List Cmd := d.cmds.filter fun c => c.ref.qk = qk

/-- Clears the bank of a queue (R459). -/
def Dev.clearBank (d : Dev) (qk : Nat) : Dev := { d with cntQ := SMap.drop (fun k => k / 64 == qk) d.cntQ, rem := SMap.drop (fun k => k / 64 == qk + 1) d.rem }

/-- R428 step 4: an idle queue whose reset is under way returns to its Reset values. -/
def Dev.settleQueue (d : Dev) (qk : Nat) : Dev :=
  if (d.queue qk).rst ∧ (d.qCmds qk).isEmpty then (d.setQueue qk fun _ => Queue.reset).clearBank qk else d

/-- The slot of a command is released. -/
def Dev.releaseSlot (d : Dev) (r : CmdRef) : Dev :=
  let d := { d with cmds := d.cmds.filter fun c => c.ref ≠ r }
  let d := d.setQueue r.qk fun q => { q with out := q.out.filter fun s => s ≠ r.slot.toNat }
  (d.advance r.qk 65536).settleQueue r.qk

/-- R350: the message of a record, held back until ITR µs have passed since the queue's last one. -/
def Dev.queueIrq (d : Dev) (qk : Nat) : Dev :=
  let q := d.queue qk
  let go := match q.lastIrq with | some t => decide (t + 1000 * q.itr ≤ d.now) | none => true
  if go then (d.setQueue qk fun q => { q with lastIrq := some d.now, irqWait := false }).sendVec (qk / 64) (qk % 64)
  else d.setQueue qk fun q => { q with irqWait := true }

/-- R342: the record of the queue's oldest completion; held while the ring is full, written in completion order. `drop` discards it instead where the ring is full. -/
def Dev.writeRecord (d : Dev) (r : CmdRef) (drop : Bool) : Dev :=
  match d.cmd r with
  | none => d
  | some c =>
    let q := d.queue r.qk
    let fn := r.fn.val
    if c.phase ≠ .done || q.out.head? ≠ some r.slot.toNat then d
    else if (q.cqtail + 1) % q.depth = q.cqhead then (if drop then d.releaseSlot r else d)
    else
      let va := q.cqbase.toNat * 4096 + 64 * q.cqtail
      let a := d.ringAcc fn va 64 true
      match a.2 with
      | .error (_, 0) => a.1
      | .error _ => (a.1.ringFault r.qk va true c.layer).releaseSlot r
      | .ok l =>
        let d := Dev.writeAll (ringReq fn) l (recordBytes c q.phase) a.1
        let nt := (q.cqtail + 1) % q.depth
        let d := d.setQueue r.qk fun q => { q with cqtail := nt, phase := if nt = 0 then !q.phase else q.phase }
        let want := q.irqmode = 2 ∨ (q.irqmode = 1 ∧ (c.irq ∨ 1 < c.status))
        let d := d.releaseSlot r
        if want then d.queueIrq r.qk else d

/-! ### Acceptance (R340) -/

/-- The command that a descriptor spells. -/
def newCmd (d : Dev) (r : CmdRef) (desc : List Byte) : Cmd :=
  { ref := r, part := if r.fn.val = 0 then bfld desc 0 39 32 else r.fn.val - 1, desc := desc, at_ := d.time, cset := (d.queue r.qk).cntset
    latch := d.latch r.qk (d.queue r.qk).cntset, phase := .waiting, status := 0, reason := 0, wbound := false, nospace := false, doneAt := 0
    delta := [], marked := false, restruck := 0, placed := false, tasks := [], move := MoveRun.init, hold := [], polled := 0, badAt := none
    cfg := if bfld desc 0 5 0 = 0x10 ∨ bfld desc 0 5 0 = 0x11 then
        some { d.serving (if r.fn.val = 0 then bfld desc 0 39 32 else r.fn.val - 1) with billets := [], heats := [], prefs := [], run := none }
      else none }

/-- R465: the checks of a DUMP, and its arming. -/
def Dev.armDump (d : Dev) (r : CmdRef) : Dev :=
  match d.cmd r with
  | none => d
  | some c =>
    if !d.st.dumpen c.part then d.complete r stPermission
    else if 3 ≤ d.pkg.level then
      ({ d with pkg := { d.pkg with agains := sat 16 (d.pkg.agains + 1) } }).complete r stAgain
    else if 16 ≤ (d.cmds.filter fun x => x.part = c.part ∧ (x.phase = .armed ∨ x.phase = .fired)).length then d.complete r stAgain
    else d.setCmd r fun c => { c with phase := .armed }

/-- The queue may accept: enabled, not stopped, not being reset, not held by a SNAPSHOT, the Bellows in service (R327, R377, R408, R428). -/
def Dev.accepts (d : Dev) (fn qn : Nat) : Bool :=
  let q := d.queue (qKey fn qn)
  d.live && q.en && !q.rst && !d.qStopped fn && d.bell.failedAt.isNone && decide (q.acc ≠ q.tail) && !d.reservedSlot (qKey fn qn) q.acc &&
    (fn == 0 || match (d.part (fn - 1)).snap with | some r => r.qk == qKey fn qn | none => true)

/-- An accepted command: its first checks, an armed DUMP, the hold of a SNAPSHOT. -/
def Dev.enroll (d : Dev) (c : Cmd) : Dev :=
  let d := ({ d with cmds := d.cmds ++ [c] }).ring 0 c.ref.hunit 0x01 (some c) (BitVec.ofNat 64 c.op)
  if !partOk d c || !reservedOk c || !valuesOk d c then d.complete c.ref stUnitAbsent
  else if c.op = 0x20 ∧ d.canStart c then d.armDump c.ref
  else if c.op = 0x31 ∧ (d.part c.part).snap = none then d.setPart c.part fun p => { p with snap := some c.ref }
  else d

/-- ACCEPTANCE (R340). -/
def Dev.accept (d : Dev) (fn : Fin 33) (qn : Fin 64) : Dev :=
  let qk := qKey fn.val qn.val
  let q := d.queue qk
  if !d.accepts fn.val qn.val then d
  else
    let va := q.sqbase.toNat * 4096 + 128 * q.acc
    let a := d.ringAcc fn.val va 128 false
    match a.2 with
    | .error (_, 0) => a.1
    | .error _ => a.1.ringFault qk va false 0
    | .ok l =>
      if (a.1.badIn l).isSome then a.1.ringFault qk va false 0
      else
        let b := Dev.readAll (ringReq fn.val) l a.1
        let r : CmdRef := ⟨fn, qn, BitVec.ofNat 16 q.acc⟩
        (b.1.setQueue qk fun q => { q with acc := (q.acc + 1) % q.depth }).enroll (newCmd b.1 r b.2)

/-- DOORBELL (R339). -/
def Dev.doorbell (d : Dev) (fn qn v : Nat) : Dev :=
  let qk := qKey fn qn
  let q := d.queue qk
  if q.rst then d
  else if !q.en || d.qStopped fn || decide (q.depth ≤ v % 65536) then d.setQueue qk fun q => { q with baddb := true }
  else d.setQueue qk fun q => { q with tail := v % 65536 }

/-! ### Queue registers (Table 10.10, R338) -/

/-- Q_CFG_WRITE: the RW fields, LOG only while EN is 0; EN = 1 on a disabled queue resets its pointers and phase. -/
def Queue.cfg (q : Queue) (v : Word) : Queue :=
  let en := wb v 63
  let q1 := { q with log := if q.en then q.log else wf v 51 48, irqmode := wf v 41 40, itr := wf v 39 30, cntset := wf v 10 8, en := en }
  if en && !q.en then { q1 with sqhead := 0, cqtail := 0, cqhead := 0, tail := 0, acc := 0, phase := true } else q1

def Queue.cfgWord (q : Queue) : Word :=
  pack [(b2n q.en, 63), (q.log, 48), (q.irqmode, 40), (q.itr, 30), (q.cntset, 8)]

/-- Word w of a queue's registers (Table 10.10, Table 13.7). -/
def Dev.qRead (d : Dev) (fn qn w : Nat) : Word :=
  let q := d.queue (qKey fn qn)
  match w with
  | 0 => BitVec.ofNat 64 (q.sqbase.toNat * 4096)
  | 1 => BitVec.ofNat 64 (q.cqbase.toNat * 4096)
  | 2 => q.cfgWord
  | 3 => pack [(q.cqtail, 16), (q.sqhead, 0)]
  | 4 => BitVec.ofNat 64 q.cqhead
  | 5 => pack [(b2n (d.qCmds (qKey fn qn)).isEmpty, 3), (b2n q.baddb, 2), (b2n q.ringfault, 1), (b2n (d.qStopped fn), 0)]
  | 6 => pack [(b2n q.rst, 63)]
  | _ => 0

end Sys2Proof.Machine
end

