-- ==== Sys2Proof/Machine/Parts.lean ====
section
/-! DEFINITION. Machine/Parts.lean: partition reset, FLR, clears on owner change, Anvil starts and the ordering of guarantees (R218 to R221, R325 to R332, R356, R427). -/

namespace Sys2Proof.Machine

open Sys2Proof

/-! ### Ending a command at once -/

/-- k free bytes from free index i. -/
def freeBytes (i k : Nat) : List Byte := (List.range k).map fun j => BitVec.ofNat 8 (Config.free (i + j)).toNat

/-- Credited rows of a command that ends early: requests leave their windows; a granted row that has not landed has undefined bytes and lands (R295). -/
def Dev.dropRows (d : Dev) (r : CmdRef) : Dev :=
  let mine (q : CReq) : Bool := match q.who with | .cmd c _ => c = r | _ => false
  let step (d : Dev) (k : Nat) : Dev :=
    let w := d.win k
    if !(w.queue.any mine || w.granted.any mine) then d
    else
      let late := w.granted.filter fun q => mine q && !q.written
      let d := { d with fi := d.fi + (late.map CReq.bytes).sum }
      let d := late.foldl (fun d q =>
        let bs := freeBytes (d.fi - q.bytes) q.bytes
        (List.range q.bytes).foldl (fun d i =>
          let o := w.byteAt q.start i
          if k < 2 ^ 20 then
            (if k % 8 < 4 then d.setTile (k / 8) fun t => t.setCourse (k % 8) fun c => { c with strm := SMap.put 0 c.strm (o % 24576) (nthD 0 bs i) }
             else d.setTile (k / 8) fun t => t.put o [nthD 0 bs i])
          else { d with mem := { d.mem with yard := SMap.put 0 d.mem.yard ((k - 2 ^ 20) / 8 * 2 ^ 24 + o) (nthD 0 bs i) } }) d) d
      d.putWin k { w with queue := w.queue.filter fun q => !mine q
                          granted := w.granted.map fun q => if mine q then { q with written := true } else q }
  (d.wins.map (·.1)).foldl step d

/-- A command stops on every unit and completes (R85, R111, R145, R159, R295, R326). -/
def Dev.abort (d : Dev) (r : CmdRef) (status reason : Nat) : Dev :=
  match d.cmd r with
  | none => d
  | some c =>
    if !c.open_ then d
    else
      let d := ((d.stopTasks fun t => t.cmd = r).dropRows r).forget fun w => w.cmd = some r
      let cs := d.fab.ctxs.map fun (x : BCtx) => { x with cmds := x.cmds.filter fun y => y ≠ r }
      let d : Dev := { d with fab := { d.fab with ctxs := cs, barWait := d.fab.barWait.filter fun y => y ≠ r } }
      let d := if (d.part c.part).snap = some r then d.setPart c.part fun p => { p with snap := none } else d
      let d := if ((d.serving c.part).run.map StepRun.cmd) = some r then d.setServing c.part fun t => { t with run := none } else d
      d.complete r status reason

/-! ### Clears on owner change (R218 to R221) -/

/-- Requests that wait in a window that is cleared fail (R202). -/
def Dev.clearWins (d : Dev) (p : Nat → Bool) : Dev :=
  let qs := ((d.wins.filter fun e => p e.1).map fun e => e.2.queue).flatten
  qs.foldl Dev.failReq { d with wins := SMap.drop p d.wins }

/-- R218: a tile, its credit block with it. -/
def Dev.clearTile (d : Dev) (k : Nat) : Dev :=
  let d := (d.clearWins fun w => decide (w < 2 ^ 20) && w / 8 == k).forget (onTile k)
  { d with
    tiles := SMap.put Tile.clear d.tiles k Tile.clear
    trace := SMap.put TSrc.init d.trace k TSrc.init
    hang := SMap.put [] d.hang (65536 + k) []
    tongs := { d.tongs with ready := SMap.put [] d.tongs.ready k [] } }

/-- R219: a Yard unit. -/
def Dev.clearYard (d : Dev) (u : Nat) : Dev :=
  let d := d.clearWins fun w => decide (2 ^ 20 ≤ w) && (w - 2 ^ 20) / 8 == u
  { d with mem := { d.mem with yard := SMap.drop (fun a => a / 2 ^ 24 == u) d.mem.yard
                               yardBad := SMap.drop (fun a => 4 * a / 2 ^ 24 == u) d.mem.yardBad } }

/-- R221: a core's dirty lines go home under their own key IDs and its caches are invalidated; it stops. -/
def Dev.stopCore (d : Dev) (core : Nat) : Dev :=
  let m := (d.mem.cache core).foldl (fun m l => m.cWriteBack d.gen core l.line) d.mem
  let d := d.forget fun w => match w.by_ with | some (.anvil c) => c.val == core | _ => false
  { d with
    mem := { m.setCache core [] with pred := SMap.drop (fun k => k / 256 == core) m.pred }
    cores := SMap.put Core.reset d.cores core Core.reset
    trace := SMap.put TSrc.init d.trace (65536 + core) TSrc.init }

/-- Tiles of quarters that partition n owns, as keys. -/
def Dev.tilesOf (d : Dev) (n : Nat) : List Nat :=
  ((List.range 256).filter fun i => d.st.qown i = n).flatMap fun i => (List.range 24).map fun t => tKey (i / 4) (i % 4 * 24 + t)
def Dev.coresOf (d : Dev) (n : Nat) : List Nat := (List.range 128).filter fun c => d.coreOwner c = n

/-- A new key for a key ID (R239). -/
def Dev.newKey (d : Dev) (kid : Nat) : Dev := { d with keys := SMap.put 0 d.keys kid d.nextKey, nextKey := d.nextKey + 1 }

/-! ### Partition reset (R325, R326, R427) -/

/-- Steps 1 and 2: queues stop, every command completes with PARTITION_RESET. A reset under way absorbs another one. -/
def Dev.partReset (d : Dev) (n reason : Nat) : Dev :=
  let p := d.part n
  if p.st ≠ 1 ∧ p.st ≠ 3 then d
  else
    let d := (d.setPart n fun p => { p with st := 2, reason := reason, rst := decide (reason = 1) }).raisePkg 4
    let late (c : Cmd) : Cmd := if c.part = n ∧ !c.open_ then { c with status := stPartReset, reason := reason } else c
    let d : Dev := { d with cmds := d.cmds.map late }
    ((d.cmds.filter fun c => c.part = n ∧ c.open_).map (·.ref)).foldl (fun d r => d.abort r stPartReset reason) d

/-- R427 step 3: contexts in which the partition alone has arrived close, and its generation entries go. -/
def Dev.closeBarriers (d : Dev) (tag : Nat) : Dev :=
  let cs := d.fab.ctxs.filter fun x => !(x.tag == tag && x.level == 0 && x.cmds.isEmpty && !x.sent)
  { d with fab := { d.fab with ctxs := cs, gens := d.fab.gens.filter fun g => g.tag ≠ tag } }

/-- R427. -/
def Dev.clearPart (d : Dev) (n : Nat) (flr : Bool) : Dev :=
  let d := (d.coresOf n).foldl Dev.stopCore d
  let d := { d with mem := d.mem.hDrop fun h => h.kid == n || h.locked == some n }
  let d := d.withdraw fun t => t.part = n
  let span (m : Msg) : Bool := match m.load with | .span p .. => p == n | .task _ => false
  let d := { d with tongs := { d.tongs with inflight := d.tongs.inflight.filter fun m => !span m, slag := d.tongs.slag.filter fun m => !span m } }
  let d := d.closeBarriers (d.st.jobtag n)
  let d := (d.tilesOf n).foldl Dev.clearTile d
  let d := ((List.range 256).filter fun u => d.st.yown u = n).foldl Dev.clearYard d
  let vf (k : Nat) : Bool := k / 64 == n + 1
  let d := { d with
    queues := SMap.drop vf d.queues
    cntQ := SMap.drop (fun k => vf (k / 64)) d.cntQ
    rem := SMap.drop (fun k => vf (k / 64 - 1)) d.rem
    cntP := SMap.drop (fun k => k / 64 == n) d.cntP
    tng := SMap.put Tng.reset d.tng n Tng.reset
    vecs := if flr then SMap.drop (fun k => k / 256 == n + 1) d.vecs else d.vecs }
  let d := d.setPart n fun p => { p with pend := 0, aroot := 0, aentry := 0, acore := 0, aerr := false, x := Xlat.reset, d := Dbg.reset, snap := none }
  d.newKey n

/-- PARTITION_RESET_COMPLETE: the remaining records (those that find a VF ring full are discarded), then R427 and step 4 of R326. -/
def Dev.partResetDone (d : Dev) (n : Nat) : Dev :=
  if (d.part n).st ≠ 2 ∨ !d.live ∨ d.bell.failedAt.isSome then d
  else
    let d := ((d.cmds.filter fun c => c.part = n).map (·.ref)).foldl (fun d r => d.writeRecord r (decide (r.fn.val ≠ 0))) d
    let d := { d with cmds := d.cmds.filter fun c => !(c.part == n && decide (c.ref.fn.val ≠ 0)) }
    let p := d.part n
    let d := d.clearPart n (decide (p.reason = 2))
    let d := d.setPart n fun q => { q with st := if p.short then 3 else 1, faulted := false, rst := false, rcount := (q.rcount + 1) % 65536, capgen := 1 }
    let d := (d.raiseEvt n 1).raisePkg 4
    if p.rst then d.raisePkg 7 else d

/-- PART_CTL_RESUME (R327). -/
def Dev.partResume (d : Dev) (n : Nat) : Dev :=
  if (d.part n).faulted then (d.setPart n fun p => { p with faulted := false }).raisePkg 4 else d

/-- FLR (R356). -/
def Dev.flr (d : Dev) (f : Nat) : Dev :=
  if f ≠ 0 then d.partReset (f - 1) 2
  else
    let rs := (d.cmds.filter fun c => c.viaPf).map (·.ref)
    let d := rs.foldl (fun d r => d.abort r stPartReset 1) d
    let d := rs.foldl (fun d r => d.writeRecord r true) d
    { d with
      cmds := d.cmds.filter fun c => !c.viaPf
      queues := SMap.drop (fun k => k / 64 == 0) d.queues
      cntQ := SMap.drop (fun k => k / 4096 == 0) d.cntQ
      rem := SMap.drop (fun k => decide (k / 64 ≤ 64) && decide (64 ≤ k)) d.rem
      vecs := SMap.drop (fun k => k / 256 == 0) d.vecs }

/-! ### Anvil starts (R332) -/

/-- A core of partition n that is in service and stopped can start; `core` need not exist. -/
def Dev.canAstart (d : Dev) (n core : Nat) : Bool := decide (core < 128) && d.coreIn core && decide (d.coreOwner core = n) && !(d.core core).run

def Dev.startCore (d : Dev) (core : Nat) (root pc : Word) (x11 : Option Word) : Dev :=
  let x := [(10, BitVec.ofNat 64 core)].filter fun e => e.2 ≠ (0 : Word)
  let x := match x11 with | some v => SMap.put 0 x 11 v | none => x
  let d := { d with cores := SMap.put Core.reset d.cores core { Core.reset with run := true, cpl := 1, ptroot := root, pc := pc, x := x } }
  d.traceBegin (65536 + core) pc

/-- PART_ASTART: the CORE field is written, and GO starts the core or sets ERR. -/
def Dev.astart (d : Dev) (n : Nat) (v : Word) : Dev :=
  let core := wf v 6 0
  let d := d.setPart n fun p => { p with acore := core }
  if !wb v 63 then d
  else if !d.canAstart n core then d.setPart n fun p => { p with aerr := true }
  else (d.startCore core (d.part n).aroot (d.part n).aentry none).setPart n fun p => { p with aerr := false }

/-! ### R331 -/

/-- Partition and kind of an owner code: a unit of partition n, ordinary or pool. -/
def codePart (o : Nat) : Option Nat := if o < 0x40 then some (o % 32) else none

/-- Lowest-numbered unowned unit in service of the tier of unit u (R331 step 3). -/
def Dev.spareUnit (d : Dev) (u : Nat) : Option Nat :=
  ((List.range 2048).filter fun v => decide (v < 768) == decide (u < 768)).find? fun v => d.town v = 0xFF ∧ d.siteIn (unitSite v)

def Dev.setTown (d : Dev) (u o : Nat) : Dev := { d with img := { d.img with town := SMap.put 0 d.img.town u (0x100 + o) } }

/-- Replacements of a partition's lost units in ascending unit number, the lost units becoming unowned; none if one cannot be had. -/
def Dev.replaceUnits : List (Nat × Nat) → Dev → Option Dev
  | [], d => some d
  | (u, o) :: rest, d =>
    match d.spareUnit u with
    | none => none
    | some v => Dev.replaceUnits rest ((d.setTown v o).setTown u 0xFF)

/-- R331 steps 2 to 4 over partitions and what each lost, in descending PRIO: a partition that cannot be made whole is short. -/
def Dev.makeWhole (d : Dev) (lost : List (Nat × List (Nat × Nat))) : Dev :=
  let ordered := ((List.range 8).reverse.map fun p => lost.filter fun e => d.st.prio e.1 = p).flatten
  ordered.foldl (fun d e =>
    match Dev.replaceUnits e.2 d with
    | some d => d.setPart e.1 fun p => { p with short := false }
    | none => d.setPart e.1 fun p => { p with short := true }) d

/-- Units of partition n that satisfy p, with their owner codes. -/
def Dev.unitsOf (d : Dev) (n : Nat) (p : Nat → Bool) : List (Nat × Nat) :=
  (((List.range 2048).filter fun u => p u && codePart (d.town u) == some n)).map fun u => (u, d.town u)

/-! ### Queue reset and queue register writes (R428, Table 10.10) -/

/-- R294: the cancel mark of an uncompleted command. -/
def Dev.mark (d : Dev) (r : CmdRef) : Dev := d.setCmd r fun c => if c.open_ then { c with marked := true } else c

/-- Q_RESET.GO: the queue stops and its commands are cancelled; a reset under way absorbs another one (Table 13.9). -/
def Dev.qReset (d : Dev) (qk : Nat) : Dev :=
  if (d.queue qk).rst then d
  else
    let d := d.setQueue qk fun q => { q with rst := true }
    (((d.qCmds qk).map (·.ref)).foldl Dev.mark d).settleQueue qk

def Dev.qWrite (d : Dev) (fn qn w : Nat) (v : Word) : Dev :=
  let qk := qKey fn qn
  match w with
  | 0 => d.setQueue qk fun q => if q.en then q else { q with sqbase := BitVec.ofNat 64 (wf v 63 12) }
  | 1 => d.setQueue qk fun q => if q.en then q else { q with cqbase := BitVec.ofNat 64 (wf v 63 12) }
  | 2 => d.setQueue qk fun q => q.cfg v
  | 4 => d.setQueue qk fun q => { q with cqhead := wf v 15 0 }
  | 5 => d.setQueue qk fun q => { q with baddb := q.baddb && !wb v 2, ringfault := q.ringfault && !wb v 1 }
  | 6 => if wb v 63 then d.qReset qk else d
  | _ => d

end Sys2Proof.Machine
end

