-- ==== Sys2Proof/Machine/Roles.lean ====
section
/-! DEFINITION. Machine/Roles.lean: brick roles, TNG_REQ, domain power states and rebalancing (R261 to R264, R286 to R293). -/

namespace Sys2Proof.Machine

open Sys2Proof

/-! ### Bricks and their owners -/

/-- Owner codes of the quarters of logical brick b. -/
def Dev.quarters (d : Dev) (b : Nat) : List Nat := (List.range 4).map fun u => d.st.qown (4 * b + u)
/-- Partitions with a quarter of logical brick b. -/
def Dev.ownersOf (d : Dev) (b : Nat) : List Nat := ((List.range 32).filter fun n => (d.quarters b).contains n)
/-- Table 8.1 MULTI: granted to more than one partition, or not all granted. -/
def Dev.multi (d : Dev) (b : Nat) : Bool := (wholeOwner (d.st.body 2) b).isNone
/-- Logical bricks in service of which partition n owns a quarter. -/
def Dev.bricksOf (d : Dev) (n : Nat) : List Nat := (List.range 64).filter fun b => d.brickIn b && (d.quarters b).contains n
def Dev.roleOf (d : Dev) (b : Nat) : Nat := match d.phys b with | some p => (d.brick p).role | none => 7
def Dev.bpstate (d : Dev) (b : Nat) : Nat := match d.phys b with | some p => (d.brick p).pstate | none => 3
/-- Bricks of partition n that hold a role. -/
def Dev.withRole (d : Dev) (n role : Nat) : List Nat := (d.bricksOf n).filter fun b => d.roleOf b = role

/-- Tasks running or ready, or on their way, on logical brick b. -/
def Dev.loadOf (d : Dev) (b : Nat) : Nat :=
  (d.tiles.filter fun e => e.1 / 128 == b && e.2.task.isSome).length +
    ((d.tongs.ready.filter fun e => e.1 / 128 == b).map fun e => e.2.length).sum + (d.tongs.inflight.filter fun m => m.brick = b).length

/-- R261 on a new role. -/
def Dev.roleFits (d : Dev) (b role : Nat) : Bool := role == 0 || role == 4 || (decide (role < 4) && !d.multi b)

/-- The CACHE count of the brick's partition stays within the image's bounds (R264). -/
def Dev.cacheFits (d : Dev) (b role : Nat) : Bool :=
  let old := d.roleOf b
  match wholeOwner (d.st.body 2) b with
  | none => true
  | some n =>
    let cnt := (d.withRole n 3).length
    if old = 3 ∧ role ≠ 3 then decide (d.st.pol n 4 + 1 ≤ cnt)
    else if old ≠ 3 ∧ role = 3 then d.st.pol n 5 == 0xFF || decide (cnt + 1 ≤ d.st.pol n 5)
    else true

/-! ### Billet and page places (R286) -/

/-- Level-0 billets of any partition in logical brick b. -/
def Dev.brickEmpty (d : Dev) (b : Nat) : Bool :=
  d.tng.all fun e => e.2.billets.all fun x => !(x.level == 0 && (match place x.loc with | .store c _ _ => c == b | _ => false))

/-- Region of a tier unit (q · 16 + j). -/
def unitRegion (u : Nat) : Nat := let s := unitSite u; if s.1 then s.2 / 10 * 16 + 6 + s.2 % 10 else s.2 / 6 * 16 + s.2 % 6

/-- Leaves of a page-table tree of a partition, as (virtual page base, level, leaf), down `fuel` levels. -/
def leavesOf (m : Mem) (ep : Nat) : Nat → Nat → Nat → List (Nat × Nat × Word)
  | 0, _, _ => []
  | lv + 1, tbl, va =>
    (List.range 512).flatMap fun i =>
      let e := leNat (m.tierBytes ep (tbl + 8 * i) 8)
      let v := va + i * 2 ^ pageBits (lv + 1)
      if !(m.byte ep (tbl + 8 * i)).getLsbD 0 then []
      else if e.testBit 1 then [(v, lv + 1, BitVec.ofNat 64 e)]
      else leavesOf m ep lv (fld e 47 12 * 4096) v

/-- Engine leaves of partition n with TNG = 1 (R242). -/
def Dev.poolPages (d : Dev) (n : Nat) : List (Nat × Nat × Word) :=
  let x := (d.part n).x
  if x.en ∧ d.inCarve (x.root.toNat * 4096 % 2 ^ 48) 4096 then
    (leavesOf d.mem (d.gen 32) 4 (x.root.toNat * 4096 % 2 ^ 48) 0).filter fun l => wb l.2.2 9
  else []

/-- The memory side of region r holds neither billets nor pool pages. -/
def Dev.regionEmpty (d : Dev) (r : Nat) : Bool :=
  d.tng.all (fun e => e.2.billets.all fun x => !(decide (2 ≤ x.level) && unitRegion (unitOf x.loc) == r)) &&
    (List.range 32).all fun n => (d.poolPages n).all fun l => unitRegion (unitOf (wf l.2.2 47 12 * 4096)) ≠ r

/-- R286: a region whose sites hold a granted unit outside a pool, or a carve unit, or any region while a Yard unit is granted, stays LIT. -/
def Dev.regionBound (d : Dev) (r : Nat) : Bool :=
  ((List.range 256).any fun y => decide (d.st.yown y < 32)) ||
    (List.range 2048).any fun u => unitRegion u == r && (decide (d.town u < 32) || d.town u == 0x40)

/-! ### Role changes (R262, R263, R288) -/

/-- The role changes in one stroke: the epoch advances, and the owners get a role notice. -/
def Dev.changeRole (d : Dev) (p role : Nat) : Dev :=
  let d := d.setBrick p fun b => { b with role := role, epoch := (b.epoch + 1) % 4096, roleAt := some d.now, since := d.now }
  match d.logical p with
  | some b => (d.ownersOf b).foldl (fun d n => d.raiseEvt n 5) d
  | none => d

/-- R263: 20 µs have passed since the brick's last role change. -/
def Dev.roleReady (d : Dev) (p : Nat) : Bool := match (d.brick p).roleAt with | some t => decide (t + 20000 ≤ d.now) | none => true

/-- TNG_REQ is done: GO clears (R481 event 3). -/
def Dev.reqDone (d : Dev) (err : Bool) : Dev :=
  ({ d with tongs := { d.tongs with req := { d.tongs.req with go := false, err := err } } }).raisePkg 3

/-- ROLE_CHANGE: a requested change takes effect once R263 allows it and, away from CACHE, the brick's billets are gone (R264). -/
def Dev.roleChange (d : Dev) (p role : Nat) : Dev :=
  let q := d.tongs.req
  match d.logical p with
  | none => d
  | some b =>
    if !d.live || !q.go || q.kind ≠ 0 || q.target ≠ p || q.role ≠ role then d
    else if !d.roleReady p || (decide ((d.brick p).role = 3) && decide (role ≠ 3) && !d.brickEmpty b) then d
    else (d.changeRole p role).reqDone false

/-! ### TNG_REQ (Table 8.2, R264, R293) -/

/-- Target domain of a power request. -/
def reqDom (q : TngReq) : Option PDom :=
  if q.kind = 1 then (if h : q.target < 72 then some (.brick ⟨q.target, h⟩) else none)
  else if h : q.target < 64 then some (.region ⟨q.target, h⟩) else none

/-- R264, R293: the request is refused. -/
def Dev.reqBad (d : Dev) (q : TngReq) : Bool :=
  match q.kind with
  | 0 =>
    match d.logical q.target with
    | none => true
    | some b => !d.brickIn b || decide (5 ≤ q.role) || !d.roleFits b q.role || !d.cacheFits b q.role
  | 1 =>
    match d.logical q.target with
    | none => true
    | some b => !d.brickIn b || decide ((d.brick q.target).role ≠ 0) || q.pstate == 1 || (q.pstate == 2 && (d.brick q.target).pstate == 3)
  | 2 =>
    decide (64 ≤ q.target) || q.pstate == 1 || (q.pstate == 2 && (SMap.get MemSide.lit d.tongs.regions q.target).pstate == 3) ||
      (q.pstate ≠ 0 && d.regionBound q.target)
  | _ => true

/-- A write of TNG_REQ: the fields while GO is 0; GO starts the request. -/
def Dev.tngReq (d : Dev) (v : Word) : Dev :=
  if d.tongs.req.go then d
  else
    let q : TngReq := { d.tongs.req with kind := wf v 39 38, target := wf v 31 24, pstate := wf v 9 8, role := wf v 2 0 }
    let d := { d with tongs := { d.tongs with req := q } }
    if !wb v 63 then d
    else
      let d := { d with tongs := { d.tongs with req := { q with go := true, err := false } } }
      if d.reqBad q then d.reqDone true
      else if q.kind = 0 then (if (d.brick q.target).role = q.role then d.reqDone false else d)
      else match reqDom q with
        | some p => if d.pstate p = q.pstate then d.reqDone false else d
        | none => d

def Dev.tngReqWord (d : Dev) : Word :=
  let q := d.tongs.req
  pack [(b2n q.go, 63), (b2n q.err, 62), (q.kind, 38), (q.target, 24), (q.pstate, 8), (q.role, 0)]

/-! ### Domain power states (Table 8.11, R291, R292) -/

def Dev.setPstate (d : Dev) (p : PDom) (s : Nat) : Dev :=
  match p with
  | .brick b => d.setBrick b.val fun x => { x with pstate := s, since := d.now }
  | .region r => { d with tongs := { d.tongs with regions := SMap.put MemSide.lit d.tongs.regions r.val ⟨s, if s = 0 then 0 else d.now⟩ } }

/-- The request in force, if it names this domain. -/
def Dev.reqFor (d : Dev) (p : PDom) : Option Nat :=
  if d.tongs.req.go ∧ d.tongs.req.kind ≠ 0 ∧ reqDom d.tongs.req = some p then some d.tongs.req.pstate else none

/-- A request is done when its domain has reached the target. -/
def Dev.settleReq (d : Dev) (p : PDom) : Dev := if d.reqFor p = some (d.pstate p) then d.reqDone false else d

/-- BANKING: an idle brick after BANKUS, or a request; a region only once it is empty. -/
def Dev.banking (d : Dev) (p : PDom) : Dev :=
  let asked := decide (d.reqFor p = some 2) || decide (d.reqFor p = some 3)
  match p with
  | .brick b =>
    let x := d.brick b.val
    let idle : Bool := match d.logical b.val with | some l => d.brickIn l && d.loadOf l == 0 | none => false
    let timed := decide (d.tongs.bankus ≠ 0) && decide (x.since + 1000 * d.tongs.bankus ≤ d.now)
    if d.live ∧ x.pstate = 0 ∧ x.role = 0 ∧ idle ∧ (asked ∨ timed) then d.setPstate p 1 else d
  | .region r => if d.live ∧ d.pstate p = 0 ∧ asked ∧ !d.regionBound r.val ∧ d.regionEmpty r.val then d.setPstate p 1 else d

/-- BANKED: the drain is complete. -/
def Dev.banked (d : Dev) (p : PDom) : Dev := if d.live ∧ d.pstate p = 1 then (d.setPstate p 2).settleReq p else d

/-- Lines of a region's sites lose their contents (R291). -/
def Dev.loseRegion (d : Dev) (r : Nat) : Dev :=
  let inR (a : Nat) : Bool := match place a with | .ftier s => s / 6 * 16 + s % 6 == r | .dtier s => s / 10 * 16 + 6 + s % 10 == r | _ => false
  { d with mem := { d.mem with dram := SMap.drop inR d.mem.dram, dkey := SMap.drop inR d.mem.dkey
                               poison := SMap.drop (fun l => inR (128 * l)) d.mem.poison } }

/-- COLD: after COLDMS in BANKED, or a request. -/
def Dev.coldDom (d : Dev) (p : PDom) : Dev :=
  let since := match p with | .brick b => (d.brick b.val).since | .region r => (SMap.get MemSide.lit d.tongs.regions r.val).since
  let timed := decide (d.tongs.coldms ≠ 0) && decide (since + 1000000 * d.tongs.coldms ≤ d.now)
  if d.live ∧ d.pstate p = 2 ∧ (d.reqFor p = some 3 ∨ timed) then
    let d := match p with | .region r => d.loseRegion r.val | .brick _ => d
    (d.setPstate p 3).settleReq p
  else d

/-- WAKE: a role other than IDLE, a request, or waiting traffic; a COLD brick's tiles are cleared (R218). Traffic that ends a request to go down completes it (R293). -/
def Dev.wake (d : Dev) (p : PDom) : Dev :=
  let s := d.pstate p
  let role := match p with | .brick b => let r := (d.brick b.val).role; r ≠ 0 && r ≠ 7 | .region _ => false
  let spare := match p with | .brick b => (d.brick b.val).role == 7 | .region _ => false
  let traffic := d.tongs.want.contains p
  if !d.live || spare || !(s == 2 || s == 3) || !(role || traffic || decide (d.reqFor p = some 0)) then d
  else
    let d := match d.reqFor p with | some t => if t ≠ 0 then d.reqDone false else d | none => d
    let d := match p with
      | .brick b => if s = 3 then (match d.logical b.val with
          | some l => (List.range 96).foldl (fun (d : Dev) t => d.clearTile (tKey l t)) d
          | none => d) else d
      | .region _ => d
    let d := { d with tongs := { d.tongs with want := d.tongs.want.filter fun q => q ≠ p } }
    (d.setPstate p 0).settleReq p

/-- TNG_PWRCTL (Table 8.12). -/
def Dev.pwrctl (d : Dev) (v : Word) : Dev := { d with tongs := { d.tongs with coldms := wf v 47 32, bankus := wf v 31 0 } }

/-! ### Rebalancing (R287) -/

/-- The brick of a list with the fewest ready and running tasks, ties going to the highest logical ID. -/
def Dev.leastBusy (d : Dev) (bs : List Nat) : Option Nat :=
  bs.foldl (fun a b => match a with | none => some b | some c => if d.loadOf b ≤ d.loadOf c then some b else some c) none

/-- REBALANCE at the end of a window, between STEPs. U_P − U_G comes from elapsed time, which is open: a free value in percent (log 1). A brick that R263 still holds makes the move wait. -/
def Dev.rebalance (d : Dev) (n : Nat) : Dev :=
  let t := d.serving n
  if !d.live || d.st.win n = 0 || decide (t.winSteps < d.st.win n) || t.run.isSome then d
  else if t.cool ≠ 0 then d.setServing n fun t => { t with winSteps := 0, cool := t.cool - 1 }
  else
    let f := d.free
    let diff : Int := (f.1.toNat % 201 : Nat) - 100
    let hyst : Int := d.st.pol n 6
    let ps := d.withRole n 1
    let gs := d.withRole n 2
    let d0 := d
    let d := f.2.setServing n fun t => { t with winSteps := 0 }
    let move (b : Option Nat) (role : Nat) : Dev :=
      match b.bind d.phys with
      | some p => if d.roleReady p then (d.changeRole p role).setServing n fun t => { t with cool := d.st.pol n 7 } else d0
      | none => d
    if hyst < diff ∧ (d.st.pol n 1 = 0xFF ∨ ps.length + 1 ≤ d.st.pol n 1) ∧ d.st.pol n 2 + 1 ≤ gs.length then move (d.leastBusy gs) 1
    else if hyst < -diff ∧ (d.st.pol n 3 = 0xFF ∨ gs.length + 1 ≤ d.st.pol n 3) ∧ d.st.pol n 0 + 1 ≤ ps.length then move (d.leastBusy ps) 2
    else d

/-- Table 8.1 for physical brick p, in the privileged view, or in that of a partition with a quarter of it. -/
def Dev.brickWord (d : Dev) (p : Nat) : Word :=
  let b := d.brick p
  let l := d.logical p
  pack [(match l with | some l => b2n (d.multi l) | none => 1, 47), (match l with | some l => d.st.qown (4 * l) % 32 | none => 0, 42),
    (b.pstate, 40), (b.epoch, 24), (b.role, 16)]

end Sys2Proof.Machine
end

