-- ==== Sys2Proof/Machine/MemCtl.lean ====
section
/-! DEFINITION. Machine/MemCtl.lean: Hearth control, coherence control, translation registers and invalidation (R212, R228, R244, Tables 6.4 to 6.7 and 7.4). -/

namespace Sys2Proof.Machine

open Sys2Proof

/-! ### Hearth and coherence control -/

/-- MEM_HEARTH_CTL: STREAM_THR is written; LOCKW is RWL and the image has loaded; FLUSH starts a write-back. -/
def Dev.hearthCtl (d : Dev) (v : Word) : Dev :=
  { d with mem := { d.mem with streamThr := wf v 47 32, flush := d.mem.flush || wb v 0 } }
def Dev.hearthCtlWord (d : Dev) : Word := pack [(d.mem.streamThr, 32), (d.mem.lockw, 8), (b2n d.mem.flush, 0)]
def Dev.hearthStatWord (d : Dev) : Word := pack [(d.mem.lockedCount, 20), (d.mem.lockRefused, 0)]
def Dev.sramErrWord (d : Dev) : Word :=
  pack [(d.mem.errTile, 48), (d.mem.errYard, 32), (d.mem.errRefetch, 16), (d.mem.errPoison, 0)]
/-- MEM_SRAM_ERR: RW counters. -/
def Dev.sramErr (d : Dev) (v : Word) : Dev :=
  { d with mem := { d.mem with errTile := wf v 63 48, errYard := wf v 47 32, errRefetch := wf v 31 16, errPoison := wf v 15 0 } }

/-- HEARTH_FLUSH: MEM_HEARTH_CTL.FLUSH is set. -/
def Dev.hearthFlush (d : Dev) : Dev := { d with mem := { d.mem with flush := true } }
/-- HEARTH_FLUSH_DONE: every dirty line has been written back and stays valid and clean; the device clears FLUSH (R481 event 7). -/
def Dev.hearthFlushDone (d : Dev) : Dev :=
  if !d.live || !d.mem.flush then d
  else ({ d with mem := { d.mem.hClean (fun _ => true) with flush := false } }).raisePkg 7

/-- PRED_CLR (Table 6.7). -/
def Dev.predClr (d : Dev) : Dev := { d with mem := { d.mem with pred := [] } }
/-- COH_CTL. -/
def Dev.cohCtl (d : Dev) (v : Word) : Dev :=
  let d := { d with mem := { d.mem with amode := wf v 1 0 } }
  if wb v 8 then d.predClr else d

/-! ### Translation registers (Table 7.4) -/

def Dev.setXlat (d : Dev) (n : Nat) (f : Xlat → Xlat) : Dev := d.setPart n fun p => { p with x := f p.x }

/-- Whether a waiter's request is made for partition n. -/
def Dev.waiterPart (d : Dev) (n : Nat) (w : Waiter) : Bool :=
  match w.cmd with
  | some r => (match d.cmd r with | some c => c.part == n | none => false)
  | none =>
    match w.by_ with
    | some (.anvil c) => d.coreOwner c.val == n
    | some (.smith t) | some (.group t _) => d.tileOwner t.key == n
    | none => match w with | .bar2 f .. => f == n + 1 | _ => false

/-- XLAT_INVALIDATE: NPAGES is written; GO starts an invalidation (R244), which waits for what is in flight now. -/
def Dev.invalidate (d : Dev) (n : Nat) (v : Word) : Dev :=
  let d := d.setXlat n fun x => { x with npages := wf v 31 0 }
  if !wb v 63 || (d.part n).x.go then d
  else
    let rows := (d.cmds.filter fun c => c.part = n).flatMap fun c => c.move.bufs.map fun b => (c.ref, b.row)
    let tids := (d.fab.waits.filter fun a => d.waiterPart n a.who).map (·.tid)
    d.setXlat n fun x => { x with go := true, goRows := rows, goTids := tids }

/-- XLAT_INVALIDATE_DONE: every entry of the range is dropped, and every earlier access has completed; GO clears. -/
def Dev.invalidateDone (d : Dev) (n : Nat) : Dev :=
  let x := (d.part n).x
  let busy := x.goRows.any fun e => match d.cmd e.1 with | some c => c.move.bufs.any fun b => b.row = e.2 | none => false
  let away := x.goTids.any fun t => d.fab.waits.any fun a => a.tid = t
  if !d.live || !x.go || busy || away then d
  else
    let lo := x.invva.toNat
    let hit (k : Nat) : Bool := x.npages == 0 || (decide (lo ≤ k % 2 ^ 36) && decide (k % 2 ^ 36 < lo + x.npages))
    (d.setXlat n fun x => { x with tlb := SMap.drop hit x.tlb, go := false, goRows := [], goTids := [] }).raisePkg 7

/-- Word w of the XLAT block of partition n. -/
def Dev.xlatRead (d : Dev) (n w : Nat) : Word :=
  let x := (d.part n).x
  match w with
  | 0 => pack [(x.root.toNat % 2 ^ 36, 12), (b2n x.en, 0)]
  | 1 => BitVec.ofNat 64 (x.hwbase.toNat * 4096)
  | 2 => BitVec.ofNat 64 (x.hwsize * 4096)
  | 3 => BitVec.ofNat 64 (x.bar2va.toNat * 2 ^ 21)
  | 4 => BitVec.ofNat 64 (x.invva.toNat * 2 ^ 21)
  | 5 => pack [(b2n x.go, 63), (x.npages, 0)]
  | 6 => BitVec.ofNat 64 x.parkms
  | 7 => BitVec.ofNat 64 0x800000000000 - BitVec.ofNat 64 (x.hwbase.toNat * 4096)
  | _ => 0

/-- A write of word w: ROOT holds local address bits 47:12; BAR2VA and INVVA hold bits 56:21. -/
def Dev.xlatWrite (d : Dev) (n w : Nat) (v : Word) : Dev :=
  match w with
  | 0 => d.setXlat n fun x => { x with root := BitVec.ofNat 64 (wf v 47 12), en := wb v 0 }
  | 1 => d.setXlat n fun x => { x with hwbase := BitVec.ofNat 64 (wf v 63 12) }
  | 2 => d.setXlat n fun x => { x with hwsize := wf v 46 12 }
  | 3 => d.setXlat n fun x => { x with bar2va := BitVec.ofNat 64 (wf v 56 21) }
  | 4 => d.setXlat n fun x => { x with invva := BitVec.ofNat 64 (wf v 56 21) }
  | 5 => d.invalidate n v
  | 6 => d.setXlat n fun x => { x with parkms := wf v 15 0 }
  | _ => d

end Sys2Proof.Machine
end

