-- ==== Sys2Proof/Machine/Partial.lean ====
section
/-! DEFINITION. Machine/Partial.lean: partial images (R320 to R322). -/

namespace Sys2Proof.Machine

open Sys2Proof

/-- The structure in force, with the grants that R331 has moved. -/
def Dev.inForce (d : Dev) : Struct :=
  if d.img.town.isEmpty then d.st
  else
    let b := d.st.body 4
    let b := b.take 0x190 ++ (List.range 2048).map fun u => BitVec.ofNat 8 (d.town u)
    { d.st with bodies := setNth d.st.bodies 3 b }

/-- What a partial image is checked against: the capability set as CHECKING begins (R306, R322). -/
def Dev.partialCtx (d : Dev) : ImgCtx :=
  { variant := d.var, key := d.flash.key, floor := d.flash.floor, cur := some d.inForce
    absentQ := (List.range 256).filter fun i => !d.qtrIn i
    absentA := (List.range 32).filter fun a => !d.un.anvil.testBit a
    absentU := (List.range 2048).filter fun u => !d.siteIn (unitSite u) }

/-- Whether an image carries a section. -/
def hasSection (raw : List Byte) (id : Nat) : Bool :=
  let s := bfld raw 0xC 31 0 - 4 - (if bfld raw 8 31 31 = 1 then 64 else 0)
  match walk raw s (bfld raw 0x10 15 0) 0x40 with
  | .ok l => l.any fun x => x.id == id
  | .error _ => false

/-- CHECKING begins on the bytes of a partial image (R321); the outcome is fixed here and taken by PARTIAL_APPLY. -/
def Dev.partialBegin (d : Dev) (fromMgmt : Bool) (raw : Except ImgErr (List Byte)) : Dev :=
  let res : Except ImgErr (Struct × Nat) :=
    match raw with
    | .error e => .error e
    | .ok b =>
      if b.length < 68 ∨ 65536 < b.length then .error ⟨0x0C, 0x03, 0⟩
      else checkImage d.partialCtx 65536 (some b.length) b
  let b := match raw with | .ok b => b | .error _ => []
  let img := { d.img with psrc := fromMgmt, pstate := 1, ptarget := bfld b 8 28 24, go := !fromMgmt, proles := hasSection b 3 }
  match res with
  | .ok (st, p) => { d with img := { img with next := some st, pcheck := none, ptarget := p } }
  | .error e => { d with img := { img with next := none, pcheck := some e } }

/-- IMG_PCTL_GO: the driver's path reads exactly PLEN bytes from IMG_PADDR, wholly within the table carve. -/
def Dev.imgGo (d : Dev) : Dev :=
  if d.img.pstate = 1 ∨ d.img.pstate = 2 then d
  else
    let a := wf d.img.paddr 47 3 * 8
    let n := d.img.plen
    if n < 68 ∨ 65536 < n then d.partialBegin false (.error ⟨0x0C, 0x03, 0⟩)
    else if !d.inCarve a n then d.partialBegin false (.error ⟨0, 0x03, 0⟩)
    else
      let r := d.read ⟨portBellows, 32, ⟨none, none⟩⟩ a n
      r.1.partialBegin false (.ok r.2)

/-- IMG_PCTL write: PLEN, and GO. -/
def Dev.imgPctl (d : Dev) (v : Word) : Dev :=
  let d := { d with img := { d.img with plen := wf v 31 0 } }
  if wb v 63 then d.imgGo else d

/-- The partial ends: PSTATE 3 DONE, 4 REFUSED or 5 ABANDONED (R481 event 2). -/
def Dev.partialEnd (d : Dev) (state : Nat) : Dev :=
  ({ d with img := { d.img with pstate := state, go := false, next := none, pcheck := none } }).raisePkg 2

/-- R322: a QUENCH ends CHECKING; a reset ends either. -/
def Dev.partialAbandon (d : Dev) (checkingOnly : Bool) : Dev :=
  if d.img.pstate = 1 ∨ (d.img.pstate = 2 ∧ !checkingOnly) then d.partialEnd 5 else d

/-- PARTIAL_APPLY: CHECKING ends in REFUSED, or in APPLYING with the reset of the target, reason IMAGE. -/
def Dev.partialApply (d : Dev) : Dev :=
  if !d.live || d.bell.failedAt.isSome || d.img.pstate ≠ 1 then d
  else match d.img.pcheck with
    | some e => ({ d with img := { d.img with preason := e.reason, psection := e.sec, poffset := e.off } }).partialEnd 4
    | none => ({ d with img := { d.img with pstate := 2 } }).partReset d.img.ptarget 3

/-- Logical bricks whose role a partial changes: bricks of the target once it is applied, and bricks that leave it. -/
def Dev.partialRoles (d : Dev) (st : Struct) (p : Nat) : List (Nat × Nat) :=
  (List.range 64).filterMap fun b =>
    match d.phys b with
    | none => none
    | some ph =>
      let mine := wholeOwner (st.body 2) b == some p || (d.quarters b).contains p
      if d.brickIn b && mine && d.img.proles && (d.brick ph).role ≠ st.role b then some (ph, st.role b) else none

/-- The target's clears, grants, key and roles (R321 step 2). -/
def Dev.partialGrants (d : Dev) (st : Struct) (p : Nat) : Dev :=
  let roles := d.partialRoles st p
  let old := d.st
  let d := d.clearPart p false
  let d := { d with img := { d.img with st := st, town := [] } }
  let joinQ := (List.range 256).filter fun i => st.qown i = p ∧ old.qown i ≠ p
  let joinY := (List.range 256).filter fun u => st.yown u = p ∧ old.yown u ≠ p
  let joinC := (List.range 128).filter fun c => st.aown (c / 4) = p ∧ old.aown (c / 4) ≠ p
  let d := joinQ.foldl (fun (d : Dev) i => (List.range 24).foldl (fun (d : Dev) t => d.clearTile (tKey (i / 4) (i % 4 * 24 + t))) d) d
  let d := joinY.foldl Dev.clearYard d
  let d := joinC.foldl Dev.stopCore d
  let d := roles.foldl (fun (d : Dev) e => d.changeRole e.1 e.2) d
  d.newKey p

/-- PARTIAL_IMAGE_DONE: APPLYING ends; the target runs, or is ABSENT where the image disables it. -/
def Dev.partialDone (d : Dev) : Dev :=
  match d.img.next with
  | none => d
  | some st =>
    let p := d.img.ptarget
    if !d.live || d.bell.failedAt.isSome || d.img.pstate ≠ 2 || !((d.partialRoles st p).all fun e => d.roleReady e.1) then d
    else
      let was := d.part p
      let d := ((d.cmds.filter fun c => c.part = p).map (·.ref)).foldl (fun (d : Dev) r => d.writeRecord r (decide (r.fn.val ≠ 0))) d
      let d := { d with cmds := d.cmds.filter fun c => !(c.part == p && decide (c.ref.fn.val ≠ 0)) }
      let d := d.partialGrants st p
      let d := d.setPart p fun q =>
        { q with st := if st.en p then 1 else 0, faulted := false, rst := false, short := false, capgen := 1
                 rcount := if was.st = 2 then (q.rcount + 1) % 65536 else q.rcount }
      ((d.raiseEvt p 1).raisePkg 4).partialEnd 3

/-- PARTITION_RESET_COMPLETE: APPLYING completes the target's own reset (R322). -/
def Dev.resetComplete (d : Dev) (n : Nat) : Dev :=
  if d.img.pstate = 2 ∧ d.img.ptarget = n then d else d.partResetDone n

/-- IMG_STATUS, IMG_SEQ, IMG_TAG0, IMG_TAG1, IMG_PADDR, IMG_PCTL, IMG_PFAIL (Tables 9.6 to 9.9). -/
def Dev.imgRead (d : Dev) (w : Nat) : Word :=
  let i := d.img
  match w with
  | 0 => pack [(i.src, 62), (b2n i.defaulted, 61), (b2n i.mismatch, 60), (b2n i.sigchk, 59), (b2n d.flash.key.isSome, 58), (i.failslot, 56),
      (i.reason, 48), (i.section_, 32), (i.offset, 0)]
  | 1 => pack [(i.st.seq, 32), (d.flash.floor, 0)]
  | 2 => BitVec.ofNat 64 (i.st.tag % 2 ^ 64)
  | 3 => BitVec.ofNat 64 (i.st.tag / 2 ^ 64)
  | 4 => pack [(wf i.paddr 47 3, 3)]
  | 5 => pack [(b2n i.go, 63), (b2n i.psrc, 61), (i.ptarget, 56), (i.pstate, 52), (i.plen, 0)]
  | 6 => pack [(i.preason, 56), (i.psection, 32), (i.poffset, 0)]
  | _ => 0

end Sys2Proof.Machine
end

