-- ==== Sys2Proof/Machine/Anvil.lean ====
section
/-! DEFINITION. Machine/Anvil.lean: traps, interrupts and register files of the Anvil cores (R162, R179, R180). -/

namespace Sys2Proof.Machine

open Sys2Proof

/-- Trace source of a core. -/
def coreKey (core : Nat) : Nat := 65536 + core

/-- R179: a trap at PL0 or PL1, in one action. -/
def Dev.trap (d : Dev) (core : Nat) (epc : Word) (cause : Nat) (tval : Word) : Dev :=
  let tvec := (d.core core).tvec
  (d.setCore core fun c => { c with epc := epc, cause := BitVec.ofNat 64 cause, tval := tval, ppl := c.cpl, pie := c.ie, ie := false,
                                    cpl := 1, wfi := false, pc := tvec }).traceEv (coreKey core) 4 (cause * 2 ^ 36) epc.toNat tvec

/-- Causes of Table 5.13. -/
def cIllegal : Nat := 0x00
def cPriv : Nat := 0x01
def cMisaligned : Nat := 0x02
def cFetch : Nat := 0x04
def cLoad : Nat := 0x05
def cStore : Nat := 0x06
def cPerm : Nat := 0x07
def cTcall : Nat := 0x08
def cBreak : Nat := 0x0A
def cDetected : Nat := 0x0B
def cSoft : Nat := 0x10
def cTimer : Nat := 0x11
def cEvent : Nat := 0x12
def cError : Nat := 0x13

/-- R180: pending interrupts, TIMER computed (bits SOFT, TIMER, EVENT, ERROR). -/
def Dev.ipend (d : Dev) (core : Nat) : Nat :=
  let c := d.core core
  c.ipend + 2 * b2n (decide (c.tcmp.toNat ≤ d.time))

/-- R179: the interrupt that would be taken: ERROR, TIMER, EVENT, SOFT in order; at PL1 only while IE is 1. -/
def Dev.irqOf (d : Dev) (core : Nat) : Option Nat :=
  let c := d.core core
  let p := d.ipend core &&& c.ien
  if !c.run || (c.cpl ≠ 0 && !c.ie) then none
  else if p.testBit 3 then some cError else if p.testBit 1 then some cTimer else if p.testBit 2 then some cEvent
  else if p.testBit 0 then some cSoft else none

/-- A stalled core waits for a remote response. -/
def Dev.coreBusy (d : Dev) (core : Nat) : Bool :=
  d.awaits fun w => match w.by_ with | some (.anvil c) => c.val == core | _ => false

/-- INTERRUPT: at an instruction boundary; EPC is the next instruction. -/
def Dev.takeIrq (d : Dev) (core : Nat) : Dev :=
  match d.irqOf core with
  | some k => if d.live && !d.coreBusy core then d.trap core (d.core core).pc k 0 else d
  | none => d

/-- TIMER: the time base reaches ASR_TCMP of the core, so TIMER is pending; the trap follows if it can be taken. -/
def Dev.timerIrq (d : Dev) (core : Nat) : Dev :=
  if d.live && decide ((d.core core).tcmp.toNat ≤ d.time) && (d.irqOf core == some cTimer) && !d.coreBusy core
  then d.trap core (d.core core).pc cTimer 0 else d

/-! ### Register files (R162) -/

def Core.rx (c : Core) (r : Nat) : Word := if r = 0 then 0 else SMap.get 0 c.x r
def Core.wx (c : Core) (r : Nat) (v : Word) : Core := if r = 0 then c else { c with x := SMap.put 0 c.x r v }
def Core.rf (c : Core) (r : Nat) : Word := SMap.get 0 c.f r
def Core.wf (c : Core) (r : Nat) (v : Word) : Core := { c with f := SMap.put 0 c.f r v }
def Core.rv (c : Core) (r : Nat) : BitVec 512 := SMap.get 0 c.v r
def Core.wv (c : Core) (r : Nat) (v : BitVec 512) : Core := { c with v := SMap.put 0 c.v r v }
def Core.rm (c : Core) (r : Nat) : BitVec 16 := if r = 0 then BitVec.allOnes 16 else SMap.get 0 c.m r
def Core.wm (c : Core) (r : Nat) (v : BitVec 16) : Core := if r = 0 then c else { c with m := SMap.put 0 c.m r v }

end Sys2Proof.Machine
end

