-- ==== Sys2Proof/Machine/Tasks.lean ====
section
/-! DEFINITION. Machine/Tasks.lean: placement, dispatch messages, and the end of tasks and of KERNEL commands (R37, R265 to R267, R288, R289, R348). -/

namespace Sys2Proof.Machine

open Sys2Proof

/-! ### Placement (Table 8.3, R265) -/

/-- Aligned clusters of 2^cl present tiles of brick b that partition n owns, by first tile (R154). -/
def Dev.clusters (d : Dev) (n b cl : Nat) : List Nat :=
  ((List.range (96 / 2 ^ cl)).map (· * 2 ^ cl)).filter fun t =>
    (List.range (2 ^ cl)).all fun i => d.tileIn (tKey b (t + i)) && decide (d.tileOwner (tKey b (t + i)) = n)

/-- A tile is free when no task is ready or running on it; a message on its way to it holds it as well. -/
def Dev.tileFree (d : Dev) (k : Nat) : Bool :=
  (d.tile k).task.isNone && (SMap.get [] d.tongs.ready k).isEmpty &&
    !(d.tongs.inflight.any fun m => match m.load with | .task _ => tKey m.brick m.tile == k | .span .. => false)

/-- Free present tiles of brick b that partition n owns. -/
def Dev.freeTiles (d : Dev) (n b : Nat) : List Nat := ((d.clusters n b 0).map (tKey b)).filter d.tileFree

/-- Candidate bricks of a placement word for partition n. -/
def Dev.candidates (d : Dev) (n : Nat) (w : Word) : List Nat :=
  ((d.withRole n (wf w 63 61)).filter fun b => d.bpstate b = 0).filter fun b => !wb w 57 || b == wf w 56 50

/-- Puts brick b into a list in descending order of free tiles, ties in ascending logical ID. -/
def insBrick (free : Nat → Nat) (b : Nat) : List Nat → List Nat
  | [] => [b]
  | c :: cs => if free c < free b ∨ (free c = free b ∧ b < c) then b :: c :: cs else c :: insBrick free b cs

/-- Outcome of R265 for one command. -/
inductive Placing where
  | absent
  | unavailable
  | wait
  | on (tiles : List Nat)
deriving DecidableEq, Repr

/-- R265 steps 1 to 3: the tiles chosen, in ascending order of key. -/
def Dev.resolve (d : Dev) (n : Nat) (w : Word) : Placing :=
  let cl := wf w 60 58
  let bs := d.candidates n w
  let whole := (bs.map fun b => (d.clusters n b cl).length * 2 ^ cl).sum
  let asked := wf w 45 32
  let own := ((d.bricksOf n).map fun b => (d.clusters n b 0).length).sum
  if asked % 2 ^ cl ≠ 0 ∨ own < asked then .absent
  else
    let want := if asked = 0 then whole else asked
    if whole < want ∨ want = 0 then .unavailable
    else
      let order := bs.foldr (insBrick fun b => (d.freeTiles n b).length) []
      let free := order.flatMap fun b =>
        ((d.clusters n b cl).filter fun t => (List.range (2 ^ cl)).all fun i => d.tileFree (tKey b (t + i))).flatMap fun t =>
          (List.range (2 ^ cl)).map fun i => tKey b (t + i)
      if free.length < want then .wait else .on ((free.take want).foldr insNat [])

/-- Sends the dispatch message of a task to a tile, with the brick's present epoch and the rank word written before it (R266, R288). -/
def Dev.dispatch (d : Dev) (k : Nat) (t : Task) (tries : Nat) : Dev :=
  let b := k / 128
  let ep := match d.phys b with | some p => (d.brick p).epoch | none => 0
  let d := d.writeRank k t
  let d := { d with tongs := { d.tongs with inflight := d.tongs.inflight ++ [Msg.mk (.task t) b (k % 128) ep tries] } }
  let det := BitVec.ofNat 64 (t.rank + ep * 2 ^ 16)
  (d.ring 3 0 0x04 (d.cmd t.cmd) det).ring 1 k 0x04 (d.cmd t.cmd) det

/-- R265 step 4: ranks go to the tiles in ascending order. -/
def Dev.placeTasks (d : Dev) (r : CmdRef) (ks : List Nat) (mk : Nat → Task) : Dev :=
  let ts := (List.range ks.length).map fun i => (TRun.mk (mk i) (nthD 0 ks i) 0 0 false)
  let d := d.setCmd r fun c => { c with placed := true, tasks := c.tasks ++ ts }
  ts.foldl (fun d t => d.dispatch t.tile t.task 0) d

/-! ### The end of tasks -/

/-- R348, R295: a KERNEL command completes once every task has ended. -/
def Dev.settleKernel (d : Dev) (r : CmdRef) : Dev :=
  match d.cmd r with
  | none => d
  | some c =>
    if c.op ≠ 1 || !c.open_ || !c.placed || c.tasks.any (fun t => t.phase ≠ 2) then d
    else
      let st :=
        if c.status ≠ 0 then c.status
        else if c.marked then (if c.tasks.any fun t => t.status ≠ stCancelBefore then stCancelFlight else stCancelBefore)
        else if c.restruck ≠ 0 ∨ c.tasks.any (fun t => t.status = stOkRestruck) then stOkRestruck
        else stOk
      (d.setCmd r fun c => { c with wbound := c.tasks.any fun t => t.wbound }).complete r st

/-- The task on a tile has ended with a status: the tile is idle, its queues dropped (R173). -/
def Dev.endTask (d : Dev) (k status : Nat) (wbound : Bool) : Dev :=
  match (d.tile k).task with
  | none => d
  | some t =>
    let d := (d.stopTile k).ring 1 k 0x05 (d.cmd t.cmd) (BitVec.ofNat 64 status)
    let d := d.setTasks t.cmd (fun x => x.tile = k && x.phase ≠ 2) fun x => { x with phase := 2, status := status, wbound := wbound }
    d.settleKernel t.cmd

/-- A task that has not begun is withdrawn (R295). -/
def Dev.endReady (d : Dev) (t : Task) (k : Nat) : Dev :=
  let d := d.withdraw fun x => x = t
  (d.setTasks t.cmd (fun x => x.task = t && x.tile = k && x.phase = 0) fun x => { x with phase := 2, status := stCancelBefore }).settleKernel t.cmd

/-! ### Tiles that leave service (R37) -/

/-- A KERNEL command places its tasks afresh. -/
def Dev.replace (d : Dev) (r : CmdRef) : Dev :=
  match d.cmd r with
  | none => d
  | some c =>
    let d := d.stopTasks fun t => t.cmd = r
    (d.setCmd r fun c => { c with placed := false, tasks := [], restruck := c.restruck + 1 }).count c.acct 7 1

/-- A node of a step graph places its tasks afresh (R37). -/
def Dev.restartNode (d : Dev) (r : CmdRef) (i : Nat) : Dev :=
  match d.cmd r with
  | none => d
  | some c =>
    let d := d.stopTasks fun t => t.cmd = r && t.node == some i
    let d := (d.setCmd r fun c => { c with tasks := c.tasks.filter fun t => t.task.node ≠ some i, restruck := c.restruck + 1 }).count c.acct 7 1
    d.setServing c.part fun t =>
      { t with run := t.run.map fun s => if s.cmd = r then { s with nodes := updNth s.nodes i fun n => { n with phase := 0, status := 0, spans := [] } } else s }

/-- R215: the work of a task again on the same tiles: a KERNEL command, or its node of a step graph. -/
def Dev.restrike (d : Dev) (t : Task) : Dev := d.rerun t.cmd fun x => x.node = t.node

/-- Tasks of a command on tiles that are lost. -/
def Cmd.onLost (c : Cmd) (lost : Nat → Bool) : Bool := c.tasks.any fun t => lost t.tile && decide (t.phase ≠ 2)

/-- R348, R280: a task fails: its command, and its node where it has one, take the status of the first failure. -/
def Dev.taskFails (d : Dev) (t : Task) (status : Nat) (f : Option KFault) : Dev :=
  let d := d.failCmd t.cmd status f
  match t.node with
  | none => d
  | some i => d.setServing t.part fun s =>
      { s with run := s.run.map fun x =>
          if x.cmd = t.cmd then { x with nodes := updNth x.nodes i fun n => if n.status = 0 then { n with status := status } else n } else x }

/-- R37 for one command; `named` says that the command names the withdrawn unit. A node of a step graph starts again, or the STEP fails. -/
def Dev.tileLost (d : Dev) (lost : Nat → Bool) (brick : Option Nat) (r : CmdRef) : Dev :=
  match d.cmd r with
  | none => d
  | some c =>
    if !c.open_ || !c.onLost lost then d
    else
      let named := c.op == 1 && wb (c.w 0x30) 57 && (some (wf (c.w 0x30) 56 50) == brick)
      let hit := c.tasks.filter fun t => lost t.tile && decide (t.phase ≠ 2)
      if (hit.all fun t => t.task.rsafe) ∧ !named ∧ !c.marked then
        (if c.op = 1 then d.replace r else ((hit.filterMap fun t => t.task.node).foldl (fun l i => insNat i l) []).foldl (fun (d : Dev) i => d.restartNode r i) d)
      else
        let d := hit.foldl (fun (d : Dev) x => d.taskFails x.task stDetected (some ⟨7, 6, x.tile, 0, 0, 0, 0, x.task.layer, x.task.oper⟩)) d
        let ks := hit.map TRun.tile
        let d := ks.foldl Dev.stopTile d
        let d := d.withdraw fun t => t.cmd = r && ks.any fun k => c.tasks.any fun x => x.tile = k && x.task = t
        (d.setTasks r (fun x => lost x.tile && decide (x.phase ≠ 2)) fun x => { x with phase := 2, status := stDetected }).settleKernel r

end Sys2Proof.Machine
end

