-- ==== Sys2Proof/Machine/Links.lean ====
section
/-! DEFINITION. Machine/Links.lean: loss of responses, barriers that end early, links that go down, and departures (R359, R363, R364, R369, R375, R380, R381). -/

namespace Sys2Proof.Machine

open Sys2Proof

/-! ### Barriers that end early (R375) -/

/-- Word 0x20 of Table 11.3, as barrier packets carry it (log 30). -/
def barWord (barid gen chlead root : Nat) : Word := BitVec.ofNat 64 (barid * 2 ^ 48 + gen * 2 ^ 32 + chlead * 2 ^ 16 + root)
def BCtx.word (x : BCtx) : Word := barWord x.barid x.gen x.chlead x.root

/-- Hang record of a barrier context (Table 15.10): its index among the open contexts. -/
def Dev.barRing (d : Dev) (i code tag : Nat) : Dev := d.ring 5 i code none 8 0 false (1000 + tag)

/-- The open context of a barrier at a level. -/
def Dev.ctxAt (d : Dev) (level tag barid gen : Nat) : Option BCtx :=
  d.fab.ctxs.find? fun x => x.level == level && x.tag == tag && x.barid == barid && x.gen == gen

/-- A context is taken away. -/
def Dev.dropCtx (d : Dev) (x : BCtx) : Dev :=
  let i := (firstIdx (fun (y : BCtx) => y = x) d.fab.ctxs 0).getD 0
  ({ d with fab := { d.fab with ctxs := d.fab.ctxs.filter fun y => y ≠ x } }).barRing i 0x07 x.tag

/-- A BAR_RELEASE to the context of a level of another package (log 30). -/
def Dev.postRelease (d : Dev) (x : BCtx) (pkg status : Nat) : Dev :=
  d.post pkg kBarRelease 2 x.tag 0 0 x.word [BitVec.ofNat 8 status, BitVec.ofNat 8 (x.level - 1)]

/-- A context closes without completing: local arrivals end with the status, packages below are told. -/
def Dev.endCtxGo (status : Nat) : Nat → BCtx → Dev → Dev
  | 0, x, d => x.cmds.foldl (fun (d : Dev) c => d.abort c status 0) (d.dropCtx x)
  | k + 1, x, d =>
    let d := x.cmds.foldl (fun (d : Dev) c => d.abort c status 0) (d.dropCtx x)
    x.pkgs.foldl (fun (d : Dev) p =>
      if p = d.fab.pkgid then
        (match d.ctxAt (x.level - 1) x.tag x.barid x.gen with | some y => Dev.endCtxGo status k y d | none => d)
      else d.postRelease x p status) d
def Dev.endCtx (d : Dev) (x : BCtx) (status : Nat) : Dev := Dev.endCtxGo status x.level x d

/-- The package takes part in the barrier of a context as this package knows it: it has arrived below, or it combines above (log 30). -/
def BCtx.with_ (x : BCtx) (pkg : Nat) : Bool :=
  x.pkgs.contains pkg || (decide (1 ≤ x.scope) && x.chlead == pkg) || (decide (x.scope = 2) && x.root == pkg)

/-! ### Responses that will not come (R369, R381) -/

/-- One waiter is told that its response is lost. -/
def Dev.lose (d : Dev) (w : Waiter) : Dev :=
  match w with
  | .rowRead c _ _ _ | .rowWrite c _ | .credit c _ | .sync c => d.abort c stLinkLost 0
  | .agent a _ _ _ pa =>
    let d := d.forget fun w => w.by_ = some a
    match a with
    | .anvil c => d.trap c.val (d.core c.val).pc cDetected pa
    | .smith t | .group t _ => d.setTile t.key fun x => x.end_ stLinkLost 0
  | .bar2 f va len wr =>
    let d := if wr then d else d.emit (.read (List.replicate len 0xFF))
    d.faultEntry (f - 1) 3 (xferBody va false true 5 0 0 0 0 0 0) false 0 0

def Dev.loseWaits (d : Dev) (p : Await → Bool) : Dev :=
  let ws := d.fab.waits.filter p
  let d : Dev := { d with fab := { d.fab with waits := d.fab.waits.filter fun a => !p a } }
  ws.foldl (fun (d : Dev) a => d.lose a.who) d

/-! ### Ports (Table 11.9) -/

def Dev.port (d : Dev) (p : Nat) : Port := SMap.get Port.off d.fab.ports p
def Dev.setPort (d : Dev) (p : Nat) (f : Port → Port) : Dev := { d with fab := { d.fab with ports := SMap.upd Port.off d.fab.ports p f } }
/-- A port that is in service: present and enabled by the image (R315). -/
def Dev.portIn (d : Dev) (p : Nat) : Bool := d.un.port.testBit p

/-- The state of a port from its links; a change raises the package event FABRIC. -/
def Dev.settlePort (d : Dev) (p : Nat) : Dev :=
  let ls := d.fab.links.filter fun l => l.ref.port.val = p
  let st := if !d.portIn p then 0 else if ls.any (fun l => l.up) then 2 else if ls.isEmpty then 1 else 3
  if (d.port p).st = st then d else (d.setPort p fun x => { x with st := st }).raisePkg 5

/-! ### Links that go down (R363, R364) -/

/-- Packets whose flits a replay buffer holds, oldest first: every packet's flits are in it or none of its last ones (R365). -/
def replayed : Nat → List (Nat × List Byte) → List Packet
  | 0, _ => []
  | _, [] => []
  | k + 1, (_, f) :: rest =>
    let b := (f.drop 8).take 240
    if packetLen b ≤ 240 then packetOf b :: replayed k rest
    else match rest with
      | [] => []
      | (_, g) :: rest => packetOf (b ++ (g.drop 8).take 240) :: replayed k rest

/-- Packets move to another link of their destination where one is up; the others wait for this one to retrain. -/
def Dev.moveOut (d : Dev) (r : LinkRef) : Dev :=
  match d.link r with
  | none => d
  | some l =>
    let ps := replayed l.replay.length l.replay ++ l.outq
    let d := d.setLink r fun l => { l with replay := [], outq := [], part := [] }
    ps.foldl (fun (d : Dev) p =>
      match (d.routesTo p.dst.toNat).head? with
      | some o => (d.setLink o fun l => { l with outq := l.outq ++ [p] }).drainLink o
      | none => d.setLink r fun l => { l with outq := l.outq ++ [p] }) d

/-! ### The master of the time base (R370, R371) -/

/-- Chassis members that direct links lead to, up or down. -/
def Dev.members (d : Dev) : List Nat :=
  (d.fab.links.filter fun l => !d.linkIsSwitch l.ref && sameChassis l.ref.ppkg.toNat d.fab.pkgid && !d.fab.gone.contains l.ref.ppkg.toNat).map
    fun l => l.ref.ppkg.toNat

/-- Direct links to a package that are up. -/
def Dev.directs (d : Dev) (pkg : Nat) : List LinkRef :=
  (d.fab.links.filter fun l => l.up && !d.linkIsSwitch l.ref && l.ref.ppkg.toNat == pkg).map (·.ref)

/-- R370: the lowest package ID of those with TBMASTER = 1, or of the chassis. A new master, or the loss of every link to it, clears LOCKED. -/
def Dev.settleMaster (d : Dev) : Dev :=
  let f := d.fab
  if f.noid || f.pkgid == 0xFFFF then d
  else
    let ms := d.members
    let tb := (if d.st.tbmaster then [f.pkgid] else []) ++ f.tbs.filter fun p => ms.contains p
    let cs := if tb.isEmpty then f.pkgid :: ms else tb
    let m := cs.foldl min 0xFFFF
    let me := decide (m = f.pkgid)
    let same := decide (m = f.tbm)
    let keep := same && !me && !(d.directs m).isEmpty
    { d with fab := { f with
        tbm := m
        master := me
        locked := f.locked && keep
        offs := if same then f.offs else []
        offset := if me then 0 else f.offset } }

def Dev.linkDown (d : Dev) (r : LinkRef) : Dev :=
  match d.link r with
  | none => d
  | some l =>
    if !l.up then d
    else
      let d := d.setLink r fun l => { l with up := false }
      let d := d.setPort r.port.val fun p => { p with downs := sat 16 (p.downs + 1) }
      ((d.moveOut r).settlePort r.port.val).settleMaster

/-! ### Departure (R380, R381) -/

/-- Held packets of a package that its streams have reached (R381): each follows the last one acted on without a gap. -/
def Fab.inOrder (f : Fab) (pkg : Nat) : List Packet :=
  let mine := f.held.filter fun p => p.src.toNat = pkg
  let has (st n : Nat) : Bool := mine.any fun p => p.stream.toNat == st && p.sseq.toNat == n
  let dist (p : Packet) : Nat := (p.sseq.toNat + 65536 - SMap.get 0 f.sin (p.stream.toNat * 65536 + pkg)) % 65536
  mine.filter fun p => (List.range (dist p + 1)).all fun i => has p.stream.toNat ((p.sseq.toNat + 65536 - i) % 65536)

/-- A package is taken as departed. -/
def Dev.departed (d : Dev) (pkg : Nat) : Dev :=
  let f := d.fab
  let gone := if f.gone.contains pkg then f.gone else pkg :: f.gone
  let links := f.links.map fun (l : Link) =>
    { l with outq := l.outq.filter (fun p => p.dst.toNat ≠ pkg), replay := (if l.ref.ppkg.toNat = pkg then [] else l.replay) }
  let notFrom (p : Packet) : Bool := p.src.toNat ≠ pkg
  let at_ (k : Nat) : Bool := k % 65536 == pkg
  let f := { f with gone := gone, links := links, held := f.held.filter notFrom, barPkt := f.barPkt.filter notFrom,
                    ingress := f.ingress ++ f.inOrder pkg, tbs := f.tbs.filter (· ≠ pkg) }
  let d : Dev := { d with fab := { f with sout := SMap.drop at_ f.sout, sin := SMap.drop at_ f.sin } }
  let d := (d.fab.ctxs.filter fun (x : BCtx) => x.with_ pkg).foldl (fun (d : Dev) x => d.endCtx x stLinkLost) d
  (d.loseWaits fun a => a.pkg == pkg).settleMaster

/-- Every route to a package is gone: its responses and barriers with it are lost (R369, R375). -/
def Dev.routeLost (d : Dev) (pkg : Nat) : Dev :=
  if !(d.routesTo pkg).isEmpty || pkg == d.fab.pkgid then d
  else
    let d := (d.fab.ctxs.filter fun (x : BCtx) => x.with_ pkg).foldl (fun (d : Dev) x => d.endCtx x stLinkLost) d
    d.loseWaits fun a => a.pkg == pkg

/-- Packages whose responses or barriers this one waits for. -/
def Dev.waitedOn (d : Dev) : List Nat :=
  (d.fab.waits.map (·.pkg) ++ (d.fab.ctxs.map fun (x : BCtx) =>
    x.pkgs ++ (if 1 ≤ x.scope then [x.chlead] else []) ++ (if x.scope = 2 then [x.root] else [])).flatten).eraseDups

/-- Packages that trained links or advertised routes lead to. -/
def Dev.peers (d : Dev) : List Nat :=
  d.fab.links.foldl (fun acc l =>
    let new := if d.linkIsSwitch l.ref then l.routes else [l.ref.ppkg.toNat]
    acc ++ new.filter fun p => !acc.contains p) []

/-- R380: DEPART goes out on every trained link; OPINFO names the package. Links are then down. -/
def Dev.sendDepart (d : Dev) : Dev :=
  let up := d.fab.links.filter fun l => l.up
  up.foldl (fun (d : Dev) l =>
    d.emit (.packet { dst := l.ref.ppkg, src := BitVec.ofNat 16 d.fab.pkgid, jobtag := 0, kind := BitVec.ofNat 6 kDepart, vc := 2, stream := 0xFFFF,
                      sseq := 0, tid := 0, addr := 0, opinfo := BitVec.ofNat 64 d.fab.pkgid, data := [] })) d

/-- Every link, stream and request of the package ends: links have to train again, streams restart from SSEQ 0. -/
def Dev.dropFabric (d : Dev) : Dev :=
  let ports := d.fab.links.map fun l => l.ref.port.val
  let f := { d.fab with
    links := [], lanes := [], sout := [], sin := [], held := [], gone := [], locked := false, offs := [], tbs := [], slew := 0, ingress := [] }
  let d : Dev := { d with fab := f }
  (ports.foldl (fun (d : Dev) p => d.settlePort p) d).settleMaster

/-- Every awaited response, credit or barrier release is lost (R402). -/
def Dev.loseAll (d : Dev) : Dev :=
  let d := d.loseWaits fun _ => true
  (d.fab.ctxs.filter fun x => decide (1 ≤ x.level) || x.sent).foldl (fun (d : Dev) x => d.endCtx x stLinkLost) d

/-- R381 by time-out: every link to the package has been down. -/
def Dev.departTimeout (d : Dev) (pkg : Nat) : Dev :=
  let ls := d.fab.links.filter fun l => l.ref.ppkg.toNat == pkg && !d.linkIsSwitch l.ref
  if d.live && !ls.isEmpty && ls.all (fun l => !l.up) && !d.fab.gone.contains pkg then d.departed pkg else d

/-! ### Lanes and ports that fail (R35, R359) -/

/-- LANE_FAILURE: the lane leaves its link; a link with no lanes is down. -/
def Dev.laneFailure (d : Dev) (p l : Nat) : Dev :=
  let x := d.laneAt p l
  if !x.up then d
  else
    let d : Dev := { d with fab := { d.fab with lanes := SMap.put Lane.off d.fab.lanes (8 * p + l) { x with up := false } } }
    (d.fab.links.filter fun (k : Link) => k.ref.port.val = p && (d.lanesOf k.ref).isEmpty).foldl (fun (d : Dev) (k : Link) => d.linkDown k.ref) d

/-- A withdrawn port: its lanes and links are gone; LINK_LOST only where no route remains. -/
def Dev.closePort (d : Dev) (p : Nat) : Dev :=
  let rs := (d.fab.links.filter fun l => l.ref.port.val = p).map (·.ref)
  let d := rs.foldl (fun (d : Dev) r => d.linkDown r) d
  let d : Dev := { d with fab := { d.fab with
      lanes := SMap.drop (fun k => k / 8 == p) d.fab.lanes
      links := d.fab.links.filter fun l => l.ref.port.val ≠ p
      ports := SMap.put Port.off d.fab.ports p Port.off } }
  d.waitedOn.foldl (fun (d : Dev) g => d.routeLost g) ((d.raisePkg 5).settleMaster)

end Sys2Proof.Machine
end

