-- ==== Sys2Proof/Machine/Withdraw.lean ====
section
/-! DEFINITION. Machine/Withdraw.lean: units that leave service, and the capability registers (R8, R34 to R37, R231, R331, R476 to R480). -/

namespace Sys2Proof.Machine

open Sys2Proof

/-- A quarter 0 stands for its brick (R35). -/
def effUnit (d : Dev) : HwUnit → HwUnit
  | .quarter q => if q.val % 4 = 0 then (match d.phys (q.val / 4) with | some p => .brick ⟨p % 72, Nat.mod_lt _ (by decide)⟩ | none => .quarter q) else .quarter q
  | u => u

def inService (d : Dev) : HwUnit → Bool
  | .tile t => d.tileIn t.key
  | .quarter q => d.qtrIn q.val
  | .brick p => d.un.brick.testBit p.val
  | .anvil g => d.un.anvil.testBit g.val
  | .fsite s => d.un.fsite.testBit s.val
  | .dsite s => d.un.dsite.testBit s.val
  | .port p => d.un.port.testBit p.val
  | .engine e => d.un.eng.testBit e.val

/-- Table 16.9. -/
def unitWord (d : Dev) : HwUnit → Nat
  | .tile t => 0x01000000 + t.key
  | .quarter q => 0x02000000 + q.val
  | .brick p => 0x03000000 + p.val
  | .anvil g => 0x04000000 + g.val
  | .fsite s => 0x05000000 + s.val
  | .dsite s => 0x06000000 + s.val
  | .port p => 0x07000000 + p.val
  | .engine e => 0x08000000 + e.val

/-- Tier units of a site, as `unitSite` names it. -/
def siteUnits (s : Bool × Nat) : List Nat := (List.range 32).map fun i => (if s.1 then 768 else 0) + 32 * s.2 + i

/-- Partitions whose views the withdrawal changes (R8, R479). -/
def unitOwners (d : Dev) (u : HwUnit) : List Nat :=
  (List.range 32).filter fun n =>
    match u with
    | .tile t => d.tileOwner t.key == n
    | .quarter q => d.st.qown q.val == n
    | .brick p => (match d.logical p.val with | some b => (d.quarters b).contains n | none => false)
    | .anvil g => d.st.aown g.val == n
    | .fsite s => (siteUnits (false, s.val)).any fun x => codePart (d.town x) == some n
    | .dsite s => (siteUnits (true, s.val)).any fun x => codePart (d.town x) == some n
    | .port _ | .engine _ => false

/-- Tiles that go with a unit. -/
def unitTiles (d : Dev) (u : HwUnit) (k : Nat) : Bool :=
  match u with
  | .tile t => k == t.key
  | .quarter q => k / 128 == q.val / 4 && k % 128 / 24 == q.val % 4
  | .brick p => d.logical p.val == some (k / 128)
  | _ => false

/-- The unit leaves the presence maps (R477). -/
def takeOut (d : Dev) (u : HwUnit) : Units :=
  let un := d.un
  match u with
  | .tile t => { un with tiles := SMap.upd 0 un.tiles t.brick.val fun w => clrBit w t.tile.val }
  | .quarter q =>
    { un with qtr := clrBit un.qtr q.val
              tiles := SMap.upd 0 un.tiles (q.val / 4) fun w => (List.range 24).foldl (fun w t => clrBit w (q.val % 4 * 24 + t)) w }
  | .brick p =>
    match d.logical p.val with
    | some b =>
      { un with brick := clrBit un.brick p.val
                qtr := (List.range 4).foldl (fun w u => clrBit w (4 * b + u)) un.qtr
                tiles := SMap.put 0 un.tiles b 0 }
    | none => { un with brick := clrBit un.brick p.val }
  | .anvil g => { un with anvil := clrBit un.anvil g.val }
  | .fsite s => { un with fsite := clrBit un.fsite s.val }
  | .dsite s => { un with dsite := clrBit un.dsite s.val }
  | .port p => { un with port := clrBit un.port p.val }
  | .engine e => { un with eng := clrBit un.eng e.val, port := (List.range 4).foldl (fun w i => clrBit w (4 * e.val + i)) un.port }

/-- R231: accesses in flight to a withdrawn place fail: rows being delivered to it, and credited writes that wait at its windows. -/
def Dev.lostAccess (d : Dev) (at_ : Nat → Bool) (win : Nat → Bool) : Dev :=
  let hit (c : Cmd) : Bool := c.open_ && c.move.bufs.any fun b => b.dst.any fun x => match x.1 with | .loc a => at_ a | _ => false
  let d := ((d.cmds.filter hit).map (·.ref)).foldl (fun (d : Dev) r => d.abort r stDetected 0) d
  let fail (d : Dev) (q : CReq) : Dev :=
    match q.who with
    | .cmd c _ => d.abort c stDetected 0
    | .remote pkg tid => d.post pkg.toNat kResp 1 0 tid 0 (BitVec.ofNat 64 stDetected) []
  let ws := d.wins.filter fun e => win e.1
  (ws.flatMap fun e => e.2.queue).foldl fail d

/-- R331 for a site that leaves service. -/
def Dev.siteLost (d : Dev) (s : Bool × Nat) : Dev :=
  let us := siteUnits s
  let lost := (List.range 32).filterMap fun n =>
    let l := d.unitsOf n fun u => us.contains u
    if l.isEmpty then none else some (n, l)
  let d := d.makeWhole lost
  let d := lost.foldl (fun (d : Dev) e => d.partReset e.1 (if (d.part e.1).short then 4 else 5)) d
  let inS (a : Nat) : Bool := match place a with | .ftier x => !s.1 && x == s.2 | .dtier x => s.1 && x == s.2 | _ => false
  let m := d.mem
  let m := { m with dram := SMap.drop inS m.dram, dkey := SMap.drop inS m.dkey }
  { d with mem := { m with poison := SMap.drop (fun l => inS (128 * l)) m.poison } }

/-- What a withdrawal does beyond the maps. -/
def Dev.effects (d : Dev) (u : HwUnit) : Dev :=
  match u with
  | .tile _ | .quarter _ | .brick _ =>
    let lost := unitTiles d u
    let named := match u with | .brick p => d.logical p.val | _ => none
    let d := (d.cmds.map (·.ref)).foldl (fun (d : Dev) r => d.tileLost lost named r) d
    let inT (a : Nat) : Bool := match place a with | .store b t _ => lost (tKey b t) | _ => false
    d.lostAccess inT fun w => decide (w < 2 ^ 20) && lost (w / 8)
  | .anvil g => (List.range 4).foldl (fun (d : Dev) i => d.stopCore (4 * g.val + i)) d
  | .fsite s => d.lostAccess (fun a => match place a with | .ftier x => x == s.val | _ => false) fun _ => false
  | .dsite s => d.lostAccess (fun a => match place a with | .dtier x => x == s.val | _ => false) fun _ => false
  | .port _ | .engine _ => d

/-- What follows once the unit is out of the maps. -/
def Dev.afterwards (d : Dev) (u : HwUnit) : Dev :=
  match u with
  | .brick p =>
    let sp (m : Msg) : Bool := some m.brick == d.logical p.val
    let d : Dev := { d with tongs := { d.tongs with slag := d.tongs.slag ++ d.tongs.spans.filter sp, spans := d.tongs.spans.filter fun m => !sp m } }
    (d.changeRole p.val 7).setBrick p.val fun b => { b with pstate := 3 }
  | .fsite s => (d.siteLost (false, s.val)).event 0x06 (BitVec.ofNat 64 s.val)
  | .dsite s => (d.siteLost (true, s.val)).event 0x06 (BitVec.ofNat 64 (2 ^ 8 + s.val))
  | .port p => d.closePort p.val
  | .engine e => (List.range 4).foldl (fun (d : Dev) i => d.closePort (4 * e.val + i)) d
  | _ => d

/-- One withdrawal event (R478): the maps, then the generation, with the events of R8 and R413. Before readiness the generation does not count it. -/
def Dev.withdrawUnit (d : Dev) (u : HwUnit) : Dev :=
  let u := effUnit d u
  if !inService d u then d
  else
    let own := unitOwners d u
    let d := d.effects u
    let d : Dev := { d with un := takeOut d u }
    let d := if d.start.stage = .ready then
        let d : Dev := { d with pkg := { d.pkg with capGen := d.pkg.capGen + 1 } }
        let d := own.foldl (fun (d : Dev) n => (d.setPart n fun p => { p with capgen := p.capgen + 1 }).raiseEvt n 1) d
        d.raisePkg 1
      else d
    (d.event 0x07 (BitVec.ofNat 64 (unitWord d u))).afterwards u

/-- WITHDRAWAL_EVENT: units leave service only after spare assignment (R34, R430). -/
def Dev.withdrawal (d : Dev) (u : HwUnit) : Dev :=
  match d.start.stage with
  | .memory | .fabric | .keys | .ready | .warm => d.withdrawUnit u
  | _ => d

/-! ### Capability registers (Tables 16.5 to 16.8, R479) -/

/-- What a view shows: the whole package, or the units of one partition. -/
def Dev.seesQ (d : Dev) (v : Option Nat) (i : Nat) : Bool :=
  d.qtrIn i && match v with | none => true | some n => decide (d.st.qown i = n)
def Dev.seesBrick (d : Dev) (v : Option Nat) (b : Nat) : Bool :=
  match v with | none => true | some n => (d.quarters b).contains n
/-- Tile bits of logical brick b. -/
def Dev.tileBits (d : Dev) (v : Option Nat) (b : Nat) : Nat :=
  let w := SMap.get 0 d.un.tiles b
  (List.range 4).foldl (fun a u =>
    if (match v with | none => true | some n => decide (d.st.qown (4 * b + u) = n)) then a + fld w (24 * u + 23) (24 * u) * 2 ^ (24 * u) else a) 0
def Dev.brickBits (d : Dev) (v : Option Nat) : Nat :=
  (List.range 72).foldl (fun a p =>
    if d.un.brick.testBit p && (match d.logical p with | some b => d.seesBrick v b | none => false) then a + 2 ^ p else a) 0
def Dev.coreBits (d : Dev) (v : Option Nat) : Nat :=
  (List.range 32).foldl (fun a g =>
    if d.un.anvil.testBit g && (match v with | none => true | some n => decide (d.st.aown g = n)) then a + 15 * 2 ^ (4 * g) else a) 0
def Dev.siteBits (d : Dev) (v : Option Nat) (deep : Bool) : Nat :=
  (List.range 40).foldl (fun a s =>
    if d.siteIn (deep, s) && (match v with | none => true | some n => (siteUnits (deep, s)).any fun u => codePart (d.town u) == some n)
    then a + 2 ^ s else a) 0
def Dev.qtrBits (d : Dev) (v : Option Nat) : Nat := (List.range 256).foldl (fun a i => if d.seesQ v i then a + 2 ^ i else a) 0

/-- PKG_CAP0. -/
def Dev.cap0 (d : Dev) (v : Option Nat) : Word :=
  let tiles := ((List.range 64).map fun b => popc 96 (d.tileBits v b)).sum
  let fab (n : Nat) : Nat := if v.isNone then n else 0
  pack [(b2n (d.var ≠ .lk9220), 51), (b2n d.var.weld, 50), (fab (popc 9 d.un.eng), 46), (fab (popc 36 d.un.port), 40),
    (popc 40 (d.siteBits v true), 34), (popc 24 (d.siteBits v false), 29), (popc 128 (d.coreBits v), 21), (tiles, 8), (popc 72 (d.brickBits v), 0)]
/-- PKG_CAP1. -/
def Dev.cap1 (d : Dev) (v : Option Nat) : Word := pack [(d.siteBits v true, 24), (d.siteBits v false, 0)]
/-- PKG_LBRICK[b]. -/
def Dev.lbrick (d : Dev) (v : Option Nat) (b w : Nat) : Word :=
  let t := d.tileBits v b
  if w = 0 then BitVec.ofNat 64 (t % 2 ^ 64)
  else match d.phys b with
    | some p => if d.seesBrick v b then pack [(1, 63), (p, 32), (t / 2 ^ 64, 0)] else pack [(t / 2 ^ 64, 0)]
    | none => 0

end Sys2Proof.Machine
end

