-- ==== Sys2Proof/Machine/Power.lean ====
section
/-! DEFINITION. Machine/Power.lean: caps, set point, dwell, temperatures, quench, rails and the shares of bandwidth (R27 to R31, R329, R330, chapter 12). -/

namespace Sys2Proof.Machine

open Sys2Proof

/-! ### Operating points (R387) -/

/-- An operating point as steps below 0.72 V at duty 16/16: 34 steps of 5 mV to 0.55 V, then one duty step each. -/
def pointOf (s : Nat) : Nat × Nat := if s ≤ 34 then (720 - 5 * s, 16) else (550, 16 - (s - 34))
def stepOf (p : Nat × Nat) : Nat := (720 - p.1) / 5 + (16 - p.2)
/-- The lowest point: duty 1/16. -/
def lastStep : Nat := 49

/-- Typical rate of Table 1.7 in hundredths, by row 0.55 V + 10 mV · i. -/
def typRates : List Nat := [110, 114, 118, 122, 126, 130, 134, 138, 143, 147, 151, 155, 159, 163, 168, 172, 176, 180]
/-- Floors of Table 1.7 in hundredths, by band: 5 to 65, 65 to 85, 85 to 95 °C. -/
def floorRates : List (List Nat) :=
  [[104, 108, 112, 115, 119, 123, 127, 131, 135, 139, 143, 147, 151, 154, 159, 163, 167, 171],
   [101, 104, 108, 112, 115, 119, 123, 126, 131, 135, 138, 142, 146, 149, 154, 158, 161, 165],
   [99, 102, 106, 109, 113, 117, 120, 124, 128, 132, 135, 139, 143, 146, 151, 154, 158, 162]]

/-- Table 12.2 in watts: P_FIX, P_SCAL, P_REST. -/
def govParams : Variant → Nat × Nat × Nat
  | .lk9600 => (1200, 6300, 1500)
  | .lk9440 => (910, 4690, 1160)
  | .lk9220 => (600, 3200, 800)

/-- Denominator of the worst-case power: 720 · 720 · 180. -/
def pDen : Nat := 93312000
/-- Worst-case power without dwell at row i of Table 1.7, times `pDen`. -/
def worstRow (v : Variant) (i : Nat) : Nat :=
  let g := govParams v
  g.1 * pDen + g.2.1 * (550 + 10 * i) * (550 + 10 * i) * nthD 0 typRates i
/-- Worst-case power with dwell duty k, times 16 · `pDen`. -/
def worstDwell (v : Variant) (k : Nat) : Nat :=
  let rest := (govParams v).2.2 * pDen
  16 * rest + k * (worstRow v 0 - rest)

/-- R387: the clamp point of cap c, as a step. -/
def clampStep (v : Variant) (c : Nat) : Nat :=
  match (List.range 18).reverse.find? fun i => decide (100 * worstRow v i ≤ c * v.design * pDen) with
  | some i => stepOf (550 + 10 * i, 16)
  | none =>
    match ((List.range 15).map (· + 1)).reverse.find? fun k => decide (100 * worstDwell v k ≤ c * v.design * pDen * 16) with
    | some k => stepOf (550, k)
    | none => lastStep

/-- Cap target, as a step. -/
def Pwr.step (p : Pwr) : Nat := stepOf (p.vset, p.duty)
def Pwr.setStep (p : Pwr) (s : Nat) : Pwr := { p with vset := (pointOf s).1, duty := (pointOf s).2 }
/-- The package set point: the lower of the cap target and the thermal target (R396). -/
def Pwr.eff (p : Pwr) : Nat := match p.ttarget with | some t => max p.step (min t lastStep) | none => p.step

/-! ### Sensors (Table 12.4) -/

def sensorKey : Sensor → Nat
  | .quarter p u => 4 * p.val + u.val
  | .region r => 1000 + r.val
  | .anvil d => 2000 + d.val
  | .fstack s => 3000 + s.val
  | .dsite s => 4000 + s.val
  | .conv i => 5000 + i.val
def Dev.tempAt (d : Dev) (k : Nat) : Int := SMap.get 0 d.pwr.temp k
/-- Some junction reads at or above t. -/
def Dev.junctionAt (d : Dev) (t : Int) : Bool := d.pwr.temp.any fun e => decide (e.1 < 3000) && decide (t ≤ e.2)
def Dev.stackAt (d : Dev) (t : Int) : Bool := d.pwr.temp.any fun e => decide (3000 ≤ e.1) && decide (e.1 < 5000) && decide (t ≤ e.2)

/-- R397. -/
def Dev.settleAlert (d : Dev) : Dev :=
  let a := d.pwr.ttarget.isSome || d.junctionAt 100 || decide (d.pwr.q ≠ 0) || d.pwr.osc
  { d with pwr := { d.pwr with alert := a && decide (d.start.stage ≠ .off) } }

/-! ### Rails (R403, R416, R430) -/

/-- What survives with the rails shut: flash, fuses, the host's own memory, the Bellows and the management port, the image registers, and the free-value index. -/
def Dev.blank (d : Dev) : Dev :=
  let p : Pwr := { Pwr.reset with cap := d.pwr.cap, slope := d.pwr.slope, stored := d.pwr.stored, temp := d.pwr.temp, conv := d.pwr.conv,
                                  osc := d.pwr.osc, q := d.pwr.q, qcause := d.pwr.qcause, qcause2 := d.pwr.qcause2 }
  { Dev.reset with var := d.var, now := d.now, fi := d.fi, flash := d.flash, nextKey := d.nextKey, img := d.img, pwr := p, bell := d.bell,
                   start := d.start, mem := { Mem.clear with host := d.mem.host }, un := d.un, out := d.out }

/-- The rails shut at SLOPE: every volatile thing but the always-on domain is lost; the start-up waits at the stage given. -/
def Dev.railsShut (d : Dev) (st : Stage) : Dev :=
  let d := if d.start.stage = .ready ∨ d.start.stage = .warm then d.partialAbandon false else d
  let d := d.blank
  ({ d with start := { d.start with stage := st }, pwr := { d.pwr with hold := none, rails := false } }).settleAlert

/-- A new cold start begins from the boot ROM (Table 13.1): DEPART where the fabric is up, rails shut, cause recorded. -/
def Dev.beginCold (d : Dev) (cause : Nat) : Dev :=
  if d.start.stage = .off then d
  else
    let d := d.sendDepart
    let d := d.railsShut .aon
    ({ d with pwr := { d.pwr with q := 0, qcause := 0, qcause2 := 0, osc := false },
              start := { d.start with cause := cause, imgKept := false } }).settleAlert

/-! ### Quench (R399 to R404) -/

def releasable (code : Nat) : Bool := decide (1 ≤ code ∧ code ≤ 3)

/-- The rails shut after a QUENCH. -/
def Dev.quenchShut (d : Dev) : Dev :=
  let d : Dev := { d with pwr := { d.pwr with q := 3 } }
  d.railsShut .aon

/-- A cause of Table 12.6. A second cause does not restart the hold; a non-releasable one ends it. -/
def Dev.quench (d : Dev) (code : Nat) : Dev :=
  if !d.pwr.rails || d.pwr.q = 3 then d
  else if d.pwr.q ≠ 0 then
    let d : Dev := { d with pwr := { d.pwr with qcause2 := code } }
    if releasable code then d
    else if code = 5 then { d with pwr := { d.pwr with q := 1, hold := none } }
    else ({ d with pwr := { d.pwr with qcause := code } }).quenchShut
  else if code = 1 ∧ d.start.stage ≠ .ready ∧ d.start.stage ≠ .warm then
    let k := ({ d with start := { d.start with imgKept := true } }).railsShut .loaded
    { k with pkg := d.pkg, fab := { Fab.reset with pkgid := d.fab.pkgid, noid := d.fab.noid }
             mem := { k.mem with lockw := d.mem.lockw, streamThr := d.mem.streamThr } }
  else
    let hold := if releasable code then some (d.now + 1000000 * d.st.qhold) else none
    let d : Dev := { d with pwr := { d.pwr with q := if releasable code then 2 else 1, qcause := code, qcause2 := 0, hold := hold } }
    let d := d.sendDepart
    let d := (if code = 5 then { d with flash := { d.flash with log := d.flash.log ++ [(1, d.time, 5)] } } else d.event 0x01 (BitVec.ofNat 64 code)).settleAlert
    let d := d.partialAbandon true
    if code = 4 ∨ code = 6 then d.quenchShut else d

/-- Every cause of the QUENCH has cleared (Table 12.6). -/
def Dev.causeClear (d : Dev) : Bool :=
  let c := d.pwr
  ((c.qcause ≠ 1 && c.qcause2 ≠ 1) || d.start.coolant) &&
    ((c.qcause ≠ 3 && c.qcause2 ≠ 3) || (!d.junctionAt 86 && !d.stackAt 91))

/-- MSI-X messages that the quench kept back (R401). -/
def Dev.flushVecs (d : Dev) : Dev :=
  let due := d.vecs.filter fun e => e.2.pend && !e.2.mask
  due.foldl (fun (d : Dev) e =>
    ({ d with vecs := SMap.put Vec.reset d.vecs e.1 { e.2 with pend := false } }).emit (.msix (e.1 / 256) (e.1 % 256) e.2.addr e.2.data)) d

/-- R386, R404: a CAP_SET takes effect: the set point moves to the new clamp point, at once when it is lower. -/
def Dev.applyCap (d : Dev) (cap slope : Nat) : Dev :=
  let p := d.pwr
  let p := { p with cap := if cap = 0 then p.cap else cap, slope := if slope = 0 then p.slope else slope, stored := none }
  let cl := clampStep d.var p.cap
  let s := if cap = 0 ∨ cap = d.pwr.cap then p.step else if d.pwr.cap < cap then min p.step cl else max p.step cl
  { d with pwr := p.setStep s }

/-- R402: the release. -/
def Dev.release (d : Dev) : Dev :=
  let d : Dev := { d with pwr := { d.pwr with q := 0, qcause := 0, qcause2 := 0, hold := none } }
  let d := match d.pwr.stored with | some (c, s) => d.applyCap c s | none => d
  let d := (d.event 0x03 0).settleAlert
  let d := d.dropFabric.loseAll
  d.flushVecs

/-- QUENCH_HOLD_EXPIRY. -/
def Dev.holdExpiry (d : Dev) : Dev :=
  match d.pwr.hold with
  | some t => if d.pwr.q = 2 ∧ t ≤ d.now then (d.event 0x02 0).quenchShut else d
  | none => d

/-! ### Governor (R387, R389) -/

/-- A duty step is allowed: at most one in each 1 ms. -/
def Dev.dutyReady (d : Dev) : Bool := d.pwr.dutyAt == 0 || decide (d.pwr.dutyAt + 1000000 ≤ d.now)
/-- The set point moves to a step; a duty change is timed. -/
def Dev.toStep (d : Dev) (s : Nat) : Dev :=
  let p := d.pwr.setStep s
  { d with pwr := { p with dutyAt := if p.duty ≠ d.pwr.duty then d.now else p.dutyAt } }

/-- GOVERNOR_SAMPLE: the 10 µs average; above the cap the set point falls, by what R28 allows in 10 µs (50 mV) or one duty step, and not below the clamp point. -/
def Dev.govSample (d : Dev) (w : Nat) : Dev :=
  let d : Dev := { d with pwr := { d.pwr with p10 := w } }
  let s := d.pwr.step
  let cl := clampStep d.var d.pwr.cap
  if !d.pwr.rails || d.pwr.q ≠ 0 || decide (100 * w ≤ d.pwr.cap * d.var.design) || decide (cl ≤ s) then d
  else if s < 34 then d.toStep (min cl (min 34 (s + 10)))
  else if d.dutyReady then d.toStep (s + 1) else d

/-- GOVERNOR_RAISE: the 1 ms average, every 100 µs; more than 3 % of design power below the cap raises the set point one step. -/
def Dev.govRaise (d : Dev) (w : Nat) : Dev :=
  let d : Dev := { d with pwr := { d.pwr with p1m := w } }
  let s := d.pwr.step
  if !d.pwr.rails || d.pwr.q ≠ 0 || decide (d.pwr.cap * d.var.design ≤ 100 * w + 3 * d.var.design) || s == 0 then d
  else if s ≤ 34 ∨ d.dutyReady then d.toStep (s - 1) else d

/-- DWELL_PERIOD: domain `dom` starts its period and takes the duty in force. -/
def Dev.dwellPeriod (d : Dev) (dom : Nat) : Dev :=
  { d with pwr := { d.pwr with domDuty := SMap.put 16 d.pwr.domDuty dom (pointOf d.pwr.eff).2 } }

/-- HEADROOM_GRANT: the governor grants a unit's admission gate headroom (R393); gates are closed in a quench. -/
def Dev.headroom (d : Dev) (unit w : Nat) : Dev :=
  if d.pwr.q ≠ 0 then d else { d with pwr := { d.pwr with grants := SMap.upd 0 d.pwr.grants unit fun g => g + w } }

/-! ### Converters, regulators, reference (R30, R31, R42) -/

def Dev.converterFails (d : Dev) (i : Nat) : Dev :=
  if d.pwr.conv.testBit i then d
  else
    let d : Dev := { d with pwr := { d.pwr with conv := setBit d.pwr.conv i } }
    let d := (d.pkgErr 5).event 0x04 (BitVec.ofNat 64 i)
    if 3 ≤ popc 16 d.pwr.conv then d.quench 4 else d

/-- A Mortar-region or Anvil-die regulator takes down the package, with no release. -/
def Dev.packageFault (d : Dev) : Dev :=
  if !d.pwr.rails then d
  else
    let d := d.sendDepart
    let d : Dev := { d with pwr := { d.pwr with qcause := 4, qcause2 := 0 } }
    d.quenchShut

def Dev.regulatorFails (d : Dev) (r : RegDom) : Dev :=
  match r with
  | .quarter p u =>
    match d.logical p.val with
    | some b =>
      if h : 4 * b + u.val < 256 then d.withdrawal (if u.val = 0 then .brick p else .quarter ⟨4 * b + u.val, h⟩) else d
    | none => d
  | .region _ | .anvil _ => d.packageFault

def Dev.referenceLoss (d : Dev) : Dev := (({ d with pwr := { d.pwr with osc := true } }).quench 5).settleAlert

/-! ### Temperatures (R396, Table 12.5) -/

/-- The thermal target on a sample: every 100 µs above 95 °C one step down, every 1 ms at or below 92 °C one step up. -/
def Dev.thermalStep (d : Dev) : Dev :=
  let p := d.pwr
  let hot := d.junctionAt 96
  let cool := !d.junctionAt 93
  match p.ttarget with
  | none => if hot then ({ d with pwr := { p with ttarget := some (min lastStep (p.step + 1)), tAt := d.now } }).event 0x05 1 else d
  | some t =>
    if hot then (if p.tAt + 100000 ≤ d.now then { d with pwr := { p with ttarget := some (min lastStep (t + 1)), tAt := d.now } } else d)
    else if cool ∧ p.tAt + 1000000 ≤ d.now then
      (if t ≤ p.step + 1 then ({ d with pwr := { p with ttarget := none, tAt := d.now } }).event 0x05 0
       else { d with pwr := { p with ttarget := some (t - 1), tAt := d.now } })
    else d

/-- Refresh, coupling and command rate of F-tier stack s. -/
def Dev.stackStep (d : Dev) (s : Nat) : Dev :=
  let t := d.tempAt (3000 + s)
  let p := d.pwr
  let p : Pwr := { p with refresh2 := if 85 < t then setBit p.refresh2 s else clrBit p.refresh2 s }
  let set := (pointOf p.eff).1
  let c := SMap.get 0 p.couple s
  let due (n : Nat) : Bool := decide (SMap.get 0 p.cAt s + n ≤ d.now)
  let p : Pwr :=
    if 95 ≤ t then
      (if c = 0 then { p with couple := SMap.put 0 p.couple s (max 550 (set - 20)), cAt := SMap.put 0 p.cAt s d.now }
       else if due 100000 then { p with couple := SMap.put 0 p.couple s (max 550 (c - 20)), cAt := SMap.put 0 p.cAt s d.now }
       else p)
    else if t ≤ 90 ∧ c ≠ 0 ∧ due 1000000 then
      { p with couple := SMap.put 0 p.couple s (if set ≤ c + 20 then 0 else c + 20), cAt := SMap.put 0 p.cAt s d.now }
    else p
  let p : Pwr :=
    if 100 ≤ t ∧ SMap.get 0 p.couple s = 550 then { p with fhalf := setBit p.fhalf s }
    else if t ≤ 95 then { p with fhalf := clrBit p.fhalf s } else p
  { d with pwr := p }

def Dev.siteStep (d : Dev) (s : Nat) : Dev :=
  let t := d.tempAt (4000 + s)
  let p := d.pwr
  { d with pwr := { p with dhalf := if 95 ≤ t then setBit p.dhalf s else if t ≤ 90 then clrBit p.dhalf s else p.dhalf } }

/-- TEMPERATURE_SAMPLE. -/
def Dev.tempSample (d : Dev) (l : List (Sensor × Int)) : Dev :=
  let d : Dev := { d with pwr := { d.pwr with temp := l.foldl (fun m e => SMap.put 0 m (sensorKey e.1) e.2) d.pwr.temp } }
  let d := (List.range 16).foldl (fun (d : Dev) i => if 125 ≤ d.tempAt (5000 + i) then d.converterFails i else d) d
  let d := if d.pwr.rails then (List.range 40).foldl Dev.siteStep ((List.range 24).foldl Dev.stackStep d.thermalStep) else d
  let d := if d.junctionAt 105 || d.stackAt 105 then (if d.pwr.q = 0 ∨ (d.pwr.qcause ≠ 3 ∧ d.pwr.qcause2 ≠ 3) then d.quench 3 else d) else d
  let d := if d.pwr.q = 2 ∧ d.junctionAt 110 then d.quenchShut else d
  d.settleAlert

/-! ### Bandwidth shares (R329, R330) -/

/-- Floor of Table 1.7 in hundredths for a Mortar region; above 95 °C or below 5 °C there is none. -/
def Dev.regionFloor (d : Dev) (r : Nat) : Nat :=
  let t := d.tempAt (1000 + r)
  let e := (pointOf d.pwr.eff).1
  let cpl := if r % 16 < 6 then SMap.get 0 d.pwr.couple (r / 16 * 6 + r % 16) else 0
  let v := if cpl = 0 then e else min e cpl
  let row := (v - 550) / 10
  if t < 5 ∨ 95 < t then 0 else nthD 0 (nthD [] floorRates (if t ≤ 65 then 0 else if t ≤ 85 then 1 else 2)) row

/-- Bandwidth of a site in MB/s. A doubled refresh costs up to 4 %: `loss` in thousandths is a free value (log 2). -/
def Dev.siteRate (d : Dev) (loss : Nat) (s : Bool × Nat) : Nat :=
  let r := if s.1 then s.2 / 10 * 16 + 6 + s.2 % 10 else s.2 / 6 * 16 + s.2 % 6
  if !d.siteIn s || (SMap.get MemSide.lit d.tongs.regions r).pstate ≠ 0 then 0
  else
    let base := (if s.1 then 256000 else 2000000) * min 180 (d.regionFloor r) / 180
    if s.1 then (if d.pwr.dhalf.testBit s.2 then base / 2 else base)
    else
      let b := if d.pwr.fhalf.testBit s.2 then base / 2 else base
      if d.pwr.refresh2.testBit s.2 then b * (1000 - loss) / 1000 else b

/-- R330 steps 1 to 3 over (partition, PRIO, floor in MB/s): the floors met. -/
def meetFloors (avail : Nat) (ps : List (Nat × Nat × Nat)) : List (Nat × Nat) :=
  ((List.range 8).reverse.foldl (fun (acc : Nat × List (Nat × Nat)) prio =>
    let lv := ps.filter fun e => e.2.1 = prio
    let sum := (lv.map fun e => e.2.2).sum
    if sum ≤ acc.1 then (acc.1 - sum, acc.2 ++ lv.map fun e => (e.1, e.2.2))
    else (0, acc.2 ++ lv.map fun e => (e.1, acc.1 * e.2.2 / max 1 sum))) (avail, [])).2

/-- SHARE_RECOMPUTE: floors of tier bandwidth, and of the transfer engines' 29,491 GB/s at the Mortar floors. -/
def Dev.shareRecompute (d : Dev) : Dev :=
  if !d.live then d
  else
    let f := d.free
    let d := f.2
    let loss := f.1.toNat % 41
    let sites := ((List.range 24).map fun s => (false, s)) ++ (List.range 40).map fun s => (true, s)
    let avail := (sites.map fun s => d.siteRate loss s).sum
    let on := (List.range 32).filter d.st.en
    let low := (List.range 64).foldl (fun a r => min a (d.regionFloor r)) 180
    let cap := 29491000 * low / 180
    let put (l : List (Nat × Nat)) : SMap Nat := l.foldl (fun m e => SMap.put 0 m e.1 e.2) []
    { d with pwr := { d.pwr with
        shares := put (meetFloors avail (on.map fun n => (n, d.st.prio n, 1000 * d.st.bwfloor n)))
        cshares := put (meetFloors cap (on.map fun n => (n, d.st.prio n, 29491000 * d.st.cshare n / 1024))) } }

end Sys2Proof.Machine
end

