-- ==== Sys2Proof/Machine/Startup.lean ====
section
/-! DEFINITION. Machine/Startup.lean: cold start, warm reset, pins and the test access port (chapters 13 and 14, R296 to R309, R354, R470). -/

namespace Sys2Proof.Machine

open Sys2Proof

/-! ### Firmware and image (R297, R305 to R309, R405) -/

def fwVerifies (c : SMap Byte) : Bool := c.isEmpty || Config.firmwareVerifies c

/-- R405: the copy to run and whether the newer one failed; none verifies. -/
def Dev.pickFw (d : Dev) : Option (Bool × Bool) :=
  let v0 := (Config.firmwareVersion d.flash.fw0).toNat
  let v1 := (Config.firmwareVersion d.flash.fw1).toNat
  let newer := decide (v0 < v1)
  let ok (b : Bool) : Bool := fwVerifies (if b then d.flash.fw1 else d.flash.fw0)
  if ok newer then some (newer, false) else if ok (!newer) then some (!newer, true) else none

/-- R297: the primary slot: true for B. -/
def Flash.primary (f : Flash) : Bool :=
  match f.boot0.2.2, f.boot1.2.2 with
  | true, true => if f.boot0.2.1 < f.boot1.2.1 then f.boot1.1 else f.boot0.1
  | true, false => f.boot0.1
  | false, true => f.boot1.1
  | false, false => false

def Flash.slot (f : Flash) (b : Bool) : SMap Byte := if b then f.slotB else f.slotA
/-- Bytes of a slot that the checks read: LENGTH bytes where LENGTH fits the slot, else the header. Unwritten bytes read 0xFF (R296). -/
def slotRaw (m : SMap Byte) : List Byte :=
  let h := SMap.bytes 0xFF m 0 64
  let n := bfld h 0xC 31 0
  if n ≤ 2 ^ 24 then SMap.bytes 0xFF m 0 (max n 64) else h

def Dev.fullCtx (d : Dev) : ImgCtx :=
  { variant := d.var, key := d.flash.key, floor := d.flash.floor, cur := none, absentQ := [], absentA := [], absentU := [] }

def Dev.checkSlot (d : Dev) (b : Bool) : Except ImgErr Struct :=
  (checkImage d.fullCtx (2 ^ 24) none (slotRaw (d.flash.slot b))).map (·.1)

/-- R307: the primary slot's image, or the factory image with what failed. -/
def Dev.loadImage (d : Dev) : Dev :=
  let b := d.flash.primary
  match d.checkSlot b with
  | .ok st =>
    let d : Dev := { d with img := { Img.reset with src := b2n b, sigchk := d.flash.key.isSome, st := st } }
    if st.raise then { d with flash := { d.flash with floor := max d.flash.floor st.seq } } else d
  | .error e =>
    let i : Img := { Img.reset with src := 2, defaulted := e.structural, mismatch := !e.structural, failslot := b2n b, reason := e.reason,
                                    section_ := e.sec, offset := e.off, st := factory d.var }
    let d : Dev := { d with img := i }
    (d.pkgErr 2).event 0x08 (BitVec.ofNat 64 ((d.imgRead 0).toNat / 2 ^ 32))

/-- R309: Image and RWL values: package ID and NOID (R315), Hearth, cap and slope (R386, R426). The load is one event, so no CAP_SET falls within it. -/
def Dev.imageValues (d : Dev) : Dev :=
  let st := d.st
  let slot := d.start.straps % 64
  let id := if st.pkgid = 0xFFFF then (st.chbase + slot) % 65536 else st.pkgid
  let noid := id == 0xFFFF
  let p := ({ d.pwr with cap := st.cap, slope := st.slope, stored := none }).setStep (clampStep d.var st.cap)
  let d : Dev := { d with start := { d.start with slot := slot }, fab := { d.fab with pkgid := id, noid := noid },
                          mem := { d.mem with lockw := st.lockw, streamThr := st.streamThr }, pwr := p }
  if noid then (d.pkgErr 3).event 0x0B 0 else d

/-- The boot ROM starts the Bellows: firmware, image, values. None where no firmware copy verifies (R417). -/
def Dev.boot (d : Dev) : Option Dev :=
  match d.pickFw with
  | none => none
  | some (copy, fell) =>
    let v := (Config.firmwareVersion (if copy then d.flash.fw1 else d.flash.fw0)).toNat
    let d : Dev := { d with bell := { Bell.reset with fwver := v, fwcopy := copy, capSrc := d.bell.capSrc, seen := d.bell.seen, spdm := d.bell.spdm } }
    let d := if fell then d.pkgErr 4 else d
    some d.loadImage.imageValues

/-- The start stops for good, held at V_AON, with a record of the fault in the event log (R417). -/
def Dev.halt (d : Dev) : Dev :=
  let d := d.railsShut .halted
  { d with flash := { d.flash with log := d.flash.log ++ [(0, d.time, 0)] } }

/-! ### Cold start (Table 13.2) -/

/-- The rails may rise: COOLANT_OK, and no EXTEST in force (R416, R444). -/
def Dev.mayRise (d : Dev) : Bool := d.start.coolant && !(d.start.tap == 0x00 || d.start.tap == 0x02 || d.start.tap == 0x03)

/-- The rails rise, to the clamp point of the cap in force; self-test follows. -/
def Dev.railsUp (d : Dev) : Dev :=
  if d.start.stage = .loaded ∧ d.mayRise then
    let d : Dev := { d with pwr := d.pwr.setStep (clampStep d.var d.pwr.cap) }
    ({ d with start := { d.start with stage := .test, imgKept := false }, pwr := { d.pwr with rails := true, q := 0, qcause := 0, qcause2 := 0 } }).settleAlert
  else d

/-- After a rail shutdown by a QUENCH, what lets the cold start begin (Table 12.6). -/
def Dev.quenchOver (d : Dev) : Bool :=
  if d.pwr.q ≠ 3 then true
  else match d.pwr.qcause with
    | 6 => d.start.vin
    | 1 | 2 | 3 => d.start.coolant
    | _ => false

/-- COLD_START. -/
def Dev.coldStart (d : Dev) : Dev :=
  if d.start.stage ≠ .aon || !d.start.pwrGood || !d.start.rstRel || !d.start.vin || !d.quenchOver then d
  else
    let cause := if d.pwr.q = 3 then 0x13 else d.start.cause
    let d : Dev := { d with un := .none_, pwr := { d.pwr with q := 0, qcause := 0, qcause2 := 0, conv := 0 }
                            start := { d.start with cause := cause, t0 := d.now, failures := [], bar2log := 21, vfMse := false }
                            corr := [], uncorr := [] }
    let d : Dev := { d with pkg := { Pkg.reset with cause := cause } }
    match d.boot with
    | none => d.halt
    | some d => (({ d with start := { d.start with stage := .loaded } }).railsUp).settleAlert

/-! ### Self-test, spares, units (R418 to R420, R11, R32, R33, R311) -/

def failBrick (f : List TestFail) (p : Nat) : Bool :=
  f.any fun x => match x with
    | .brick q => q.val == p
    | .quarter q u => q.val == p && u.val == 0
    | .wires q i o => q.val == p && (decide (16 < i) || decide (16 < o))
    | _ => false
def failQuarter (f : List TestFail) (p u : Nat) : Bool :=
  f.any fun x => match x with | .quarter q v => q.val == p && v.val == u | _ => false
/-- Physical tiles of a quarter that passed, of 25. -/
def passTiles (f : List TestFail) (p u : Nat) : Nat :=
  ((List.range 25).filter fun t => !(f.any fun x => match x with | .tile q v k => q.val == p && v.val == u && k.val == t | _ => false)).length

/-- Active and spare bricks of group g. -/
def groupBricks (d : Dev) (f : List TestFail) (g : Nat) : List Nat × List Nat :=
  let pass := ((List.range 9).map (9 * g + ·)).filter fun p => d.st.brickEn p && !failBrick f p
  if pass.length < 9 then (pass, [])
  else
    let s := d.st.spare g
    let sp := if s ≤ 8 then 9 * g + s else 9 * g + 8
    (pass.filter (· ≠ sp), [sp])

def bitsOf (l : List Nat) : Nat := l.foldl setBit 0

/-- The units in service once self-test has ended. -/
def unitsAfter (d : Dev) (f : List TestFail) : Units :=
  let gs := (List.range (d.var.sites / 9)).map (groupBricks d f)
  let lb := (gs.map (·.1)).flatten
  let qs := (List.range (4 * lb.length)).filter fun i => !failQuarter f (nthD 0 lb (i / 4)) (i % 4)
  let tiles (b : Nat) : Nat :=
    bitsOf ((List.range 4).flatMap fun u =>
      if qs.contains (4 * b + u) then (List.range (min 24 (passTiles f (nthD 0 lb b) u))).map (24 * u + ·) else [])
  let eng := (List.range d.var.engines).filter fun e => !(f.any fun x => match x with | .engine k => k.val == e | _ => false)
  let isl (p : Nat) : Bool := f.any fun x => match x with | .island i => i.val == p / 2 | _ => false
  { lb := lb, brick := bitsOf lb, spare := bitsOf (gs.map (·.2)).flatten, qtr := bitsOf qs
    tiles := (List.range lb.length).foldl (fun m b => SMap.put 0 m b (tiles b)) []
    tspare := (List.range (4 * lb.length)).foldl (fun m i =>
      let p := nthD 0 lb (i / 4); if 24 < passTiles f p (i % 4) then SMap.put 0 m (4 * p + i % 4) 1 else m) []
    anvil := bitsOf ((List.range d.var.groups).filter fun g => !(f.any fun x => match x with | .anvil c => c.val / 4 == g | _ => false))
    fsite := 0, dsite := 0, eng := bitsOf eng
    port := bitsOf ((List.range d.var.ports).filter fun p => eng.contains (p / 4) && !isl p && d.st.portEn p) }

/-- SELF_TEST_COMPLETE: a fault of R417 stops the start; else spares are assigned and every tile is clear. -/
def Dev.selfTest (d : Dev) (f : List TestFail) : Dev :=
  if d.start.stage ≠ .test || d.pwr.q ≠ 0 then d
  else
    let un := unitsAfter d f
    if f.contains .mortar ∨ un.lb.isEmpty then d.halt
    else { d with un := un, start := { d.start with stage := .memory, failures := f }, pkg := { d.pkg with stfail := sat 16 f.length } }

/-- MEMORY_TRAINING_COMPLETE: sites that failed are absent (R421). -/
def Dev.memTrained (d : Dev) (f : List (Bool × Nat)) : Dev :=
  if d.start.stage ≠ .memory || d.pwr.q ≠ 0 then d
  else
    let fs := (List.range 24).filter fun s => d.var.hasF s && !f.contains (false, s)
    let ds := (List.range 40).filter fun s => d.var.hasD s && !f.contains (true, s)
    { d with un := { d.un with fsite := bitsOf fs, dsite := bitsOf ds }, start := { d.start with stage := .fabric }
             pkg := { d.pkg with stfail := sat 16 (d.pkg.stfail + f.length) } }

/-! ### Fabric training (R358, R422) -/

/-- A link forms at SEQ 0, with 1,024 flits of credit on each channel (256 KiB, R362). -/
def newLink (r : LinkRef) : Link :=
  { ref := r, up := true, tx := 0, acked := 2 ^ 14 - 1, replay := [], resent := 0, rx := 0, credit := [1024, 1024, 1024], routes := [], part := [], outq := [] }

/-- One trained lane: its identity, and the link that it joins. A lane to another chassis is miscabled and carries no traffic (R366). -/
def Dev.trainLane (d : Dev) (i : LaneInfo) : Dev :=
  let p := i.port.val
  if !d.portIn p || d.fab.noid then d
  else
    let mis := !i.isSwitch && !sameChassis i.ppkg.toNat d.fab.pkgid
    let ln : Lane := ⟨i.ppkg.toNat, i.pport.toNat, i.plane.toNat, i.isSwitch, true, mis⟩
    let d : Dev := { d with fab := { d.fab with lanes := SMap.put Lane.off d.fab.lanes (8 * p + i.lane.val) ln } }
    let r : LinkRef := ⟨i.port, i.ppkg, i.pport⟩
    if mis then d
    else
      let gone := d.fab.gone.filter (· ≠ i.ppkg.toNat)
      let links := match d.link r with
        | none => d.fab.links ++ [newLink r]
        | some l => if l.up then d.fab.links else updFirst (fun (x : Link) => x.ref = r) (fun x => { newLink r with outq := x.outq }) d.fab.links
      { d with fab := { d.fab with links := links, gone := gone } }

/-- R358: links form from what the lanes learn; packets that waited for a link go out. -/
def Dev.trainLanes (d : Dev) (ls : List LaneInfo) : Dev :=
  let d := ls.foldl Dev.trainLane d
  let d := (List.range 36).foldl Dev.settlePort d
  (d.fab.links.foldl (fun (d : Dev) l => d.drainLink l.ref) d).settleMaster

/-! ### Keys, partitions and readiness (Table 13.2, R331, R423) -/

/-- Roles and power states of the populated bricks (R261, Table 8.1). -/
def Dev.initBricks (d : Dev) : SMap Brick :=
  (List.range d.un.lb.length).foldl (fun m b =>
    let p := nthD 0 d.un.lb b
    if d.un.brick.testBit p then SMap.put Brick.off m p ⟨d.st.role b, 0, 0, none, d.now⟩ else m) []

/-- Units that the image grants a partition on sites that are not in service (R308, R331). -/
def Dev.lapsed (d : Dev) (n : Nat) : List (Nat × Nat) := d.unitsOf n fun u => !d.siteIn (unitSite u)

/-- Keys, brick roles and partitions. -/
def Dev.createParts (d : Dev) : Dev :=
  let d := (List.range 33).foldl Dev.newKey d
  let d : Dev := { d with tongs := { d.tongs with bricks := d.initBricks }, img := { d.img with town := [] } }
  let on := (List.range 32).filter d.st.en
  let d := on.foldl (fun (d : Dev) n => d.setPart n fun _ => { Part.absent with st := 1, capgen := 1, en := 0 }) d
  let lost := (on.map fun n => (n, d.lapsed n)).filter fun e => !e.2.isEmpty
  let d := d.makeWhole lost
  lost.foldl (fun (d : Dev) e => if (d.part e.1).short then d.setPart e.1 fun p => { p with st := 3, reason := 4 } else d) d

/-- READY once PERST_N is released; after a host-loss reset by LINK_LOSS, once the link has trained again (R425). -/
def Dev.tryReady (d : Dev) : Dev :=
  if d.start.stage = .keys ∧ d.start.perstRel ∧ (d.pkg.cause ≠ 6 ∨ d.start.linkUp) then
    { d with start := { d.start with stage := .ready, bar2log := d.st.bar2log, downUs := 0 }, pkg := { d.pkg with ready := true } }
  else d

/-- FABRIC_TRAINING_END, of a cold start or of a warm reset. A cold start takes a locked member's time once (R371). -/
def Dev.fabricTrained (d : Dev) (ls : List LaneInfo) (peer : Option Nat) : Dev :=
  if !(d.start.stage == .fabric || d.start.stage == .warm) || d.pwr.q ≠ 0 then d
  else
    let cold := decide (d.start.stage = .fabric)
    let d := d.trainLanes ls
    let d := match peer with
      | some t => if cold then { d with start := { d.start with t0 := (d.now : Int) - t } } else d
      | none => d
    let d := d.createParts
    let d := if cold then { d with pkg := { d.pkg with capGen := 1 } } else d
    (({ d with start := { d.start with stage := .keys } }).tryReady)

/-! ### Warm reset (R425, R426) -/

/-- Steps 1 to 7. A second warm cause merges into the reset under way (Table 13.9). -/
def Dev.warmReset (d : Dev) (cause : Nat) : Dev :=
  if d.start.stage ≠ .ready then d
  else
    let d := (d.partialAbandon false).sendDepart
    let byHost := cause == 4 || cause == 5 || cause == 6
    let st := { d.start with stage := .warm, linkUp := d.start.linkUp && byHost, downUs := 0, bar2log := 21, vfMse := false }
    let m := { Mem.clear with dram := d.mem.dram, dkey := d.mem.dkey, poison := d.mem.poison, host := d.mem.host }
    let pk := { Pkg.reset with capGen := d.pkg.capGen, warm := true, cause := cause, warmcnt := (d.pkg.warmcnt + 1) % 65536, stfail := d.pkg.stfail }
    let d := { Dev.reset with var := d.var, now := d.now, fi := d.fi, start := st, pkg := pk, un := d.un, flash := d.flash, pwr := d.pwr, bell := d.bell,
                              mem := m, nextKey := d.nextKey, out := d.out, qstrokes := d.qstrokes, corr := d.corr, uncorr := d.uncorr }
    match d.boot with
    | none => d.halt
    | some d => d.settleAlert

/-! ### Pins (R416, R436, R440, R489) -/

def Dev.pwrGoodOff (d : Dev) : Dev :=
  let d : Dev := { d with start := { d.start with pwrGood := false } }
  if d.start.stage = .halted ∨ d.start.stage = .off then d else d.beginCold 0x10
def Dev.pwrGoodOn (d : Dev) : Dev := { d with start := { d.start with pwrGood := true } }
/-- A pulse of at least 10 µs acts; a shorter one is ignored. -/
def Dev.pkgResetPin (d : Dev) (us : Nat) (released : Bool) : Dev :=
  if us < 10 then d
  else
    let d : Dev := { d with start := { d.start with rstRel := released } }
    d.beginCold 0x11
def Dev.coolantOff (d : Dev) : Dev :=
  let d : Dev := { d with start := { d.start with coolant := false } }
  d.quench 1
def Dev.coolantOn (d : Dev) : Dev :=
  let d : Dev := { d with start := { d.start with coolant := true } }
  d.railsUp
/-- V_AON enters regulation once the input is in range. -/
def Dev.inputIn (d : Dev) : Dev :=
  let d : Dev := { d with start := { d.start with vin := true } }
  if d.start.stage = .off then { d with start := { d.start with stage := .aon, cause := 0x10 } } else d
/-- V_AON leaves regulation: only flash and fuses remain. -/
def Dev.aonLoss (d : Dev) : Dev :=
  { Dev.reset with
    var := d.var, now := d.now, fi := d.fi, flash := d.flash, nextKey := d.nextKey, mem := { Mem.clear with host := d.mem.host }, out := d.out
    start := { Start.reset with pwrGood := d.start.pwrGood, rstRel := d.start.rstRel, perstRel := d.start.perstRel, coolant := d.start.coolant,
                                straps := d.start.straps } }
/-- Input beyond the absolute maximum (Table 14.2). -/
def beyondMax (mv : Int) (us : Nat) : Bool := decide (80000 < mv) || (decide (75000 < mv) && decide (1000 < us)) || decide (mv < -60000)
/-- R433: outside 30 to 75 V at once, outside range for more than 100 µs; between 39 and 40 V or 60 and 61 V the monitor may report or not. -/
def Dev.inputOut (d : Dev) (mv : Int) (us : Nat) : Dev :=
  let hard := decide (mv < 30000) || decide (75000 < mv)
  let sure := decide (mv < 39000) || decide (61000 < mv)
  let grey := !sure && (decide (mv < 40000) || decide (60000 < mv))
  let f := d.free
  let seen := sure || (grey && wb f.1 0)
  let d := if grey then f.2 else d
  if mv < 30000 ∧ 100 ≤ us then (({ d with start := { d.start with vin := false } }).quench 6).aonLoss
  else if hard || (seen && decide (100 < us)) then ({ d with start := { d.start with vin := false } }).quench 6
  else d

/-! ### Host link (R354, R423, R430) -/

def Dev.perstAssert (d : Dev) : Dev :=
  let d : Dev := { d with start := { d.start with perstRel := false } }
  d.warmReset 4
def Dev.perstRelease (d : Dev) : Dev := ({ d with start := { d.start with perstRel := true } }).tryReady
/-- LINK_SAMPLE: every 100 µs; the run outside L0 counts from readiness. -/
def Dev.linkSample (d : Dev) (up : Bool) : Dev :=
  if up then ({ d with start := { d.start with linkUp := true, downUs := 0 } }).tryReady
  else
    let n := if d.start.stage = .ready then d.start.downUs + 100 else 0
    let d : Dev := { d with start := { d.start with linkUp := false, downUs := n } }
    if d.start.stage = .ready ∧ 1000 * d.st.lossms ≤ n then d.warmReset 6 else d

/-! ### Test access port (R318, R444, R470) -/

/-- What a TAP instruction acts as: codes below their level, unknown codes, and EXTEST with the rails up act as BYPASS. -/
def Dev.tapCode (d : Dev) (c : Nat) : Nat :=
  let lv := match c with | 0x00 | 0x01 | 0x02 | 0x03 => some 1 | 0x10 => some 2 | 0xFE => some 0 | _ => none
  match lv with
  | none => 0xFF
  | some l => if d.st.jtag < l ∨ (d.pwr.rails ∧ (c = 0 ∨ c = 2 ∨ c = 3)) then 0xFF else c
def Dev.tapInsn (d : Dev) (c : Byte) : Dev :=
  if d.start.stage = .off then d
  else
    let e := d.tapCode c.toNat
    (({ d with start := { d.start with tap := e } }).emit (.tap (BitVec.ofNat 8 e))).railsUp

end Sys2Proof.Machine
end

