-- ==== Sys2Proof/Machine/Bellows.lean ====
section
/-! DEFINITION. Machine/Bellows.lean: the management port, the Bellows' load and watchdog, and job reset (R297, R298, R304, R378, R405 to R413). -/

namespace Sys2Proof.Machine

open Sys2Proof

/-! ### Answers -/

def bOk : Nat := 0
def bBusy : Nat := 1
def bDenied : Nat := 2
def bBadmsg : Nat := 3
def bUnauth : Nat := 4
def bAbsent : Nat := 5

/-- The Bellows runs: from a start of the boot ROM on, until the watchdog takes it as failed. -/
def Dev.bellowsUp (d : Dev) : Bool :=
  d.bell.failedAt.isNone && (match d.start.stage with | .off => false | .aon => decide (d.pwr.q = 3) | _ => true)

/-- R410, R411: one request: a repeat of the last second gets its old answer; a wrong VER is answered BADMSG; `hw` marks what the hardware decodes. A request to a Bellows that does not run gets no answer. -/
def Dev.bmp (d : Dev) (h : BmpHdr) (typ : Nat) (hw : Bool) (k : Dev → Dev × Nat × List Byte) : Dev :=
  if d.start.stage = .off ∨ d.pwr.osc ∨ (!hw ∧ !d.bellowsUp) then d
  else
    match d.bell.seen.find? fun e => e.1 = h.src && e.2.1 == h.seq.toNat && decide (d.now < e.2.2.1 + 1000000000) with
    | some e => d.emit e.2.2.2
    | none =>
      let r := if h.ver ≠ 1 then (d, bBadmsg, []) else k d
      let o : Out := .bmp typ h r.2.1 r.2.2
      let fresh := r.1.bell.seen.filter fun e => decide (d.now < e.2.2.1 + 1000000000)
      ({ r.1 with bell := { r.1.bell with seen := fresh ++ [(h.src, h.seq.toNat, d.now, o)] } }).emit o

/-- Class P4: refused at shed levels 2 and 3 (R407). -/
def p4 (k : Dev → Dev × Nat × List Byte) (d : Dev) : Dev × Nat × List Byte :=
  if 2 ≤ d.pkg.level then ({ d with pkg := { d.pkg with busys := sat 16 (d.pkg.busys + 1) } }, bBusy, []) else k d

/-- R412: an authenticated session where MGMT_SPDM asks for one. -/
def authed (k : Dev → Dev × Nat × List Byte) (d : Dev) : Dev × Nat × List Byte :=
  if d.st.mgmtSpdm && !d.bell.auth then (d, bUnauth, []) else k d

/-! ### Caps and quench (Tables 12.13 and 12.14) -/

def Dev.qstate (d : Dev) : Nat := if d.pwr.rails then d.pwr.q else 3

/-- Table 12.13 as a response gives it. -/
def Dev.capBody (d : Dev) : List Byte :=
  let e := pointOf d.pwr.eff
  bytesOf 4 (d.pwr.cap + d.pwr.slope * 2 ^ 8 + d.qstate * 2 ^ 24) ++ bytesOf 4 (min 65535 d.pwr.p1m + e.1 * 2 ^ 16 + (e.2 - 1) * 2 ^ 28) ++
    bytesOf 4 (b2n d.pwr.ttarget.isSome + d.pwr.conv % 65536 * 2 ^ 16)

/-- CAP_SET: 35 to 100 and 25 to 1,000, 0 for no change; stored during a quench and before an image is in force (R404). -/
def Dev.capSet (d : Dev) (h : BmpHdr) (cap slope : Nat) : Dev :=
  d.bmp h 0x01 true fun d =>
    if !(cap == 0 || (decide (35 ≤ cap) && decide (cap ≤ 100))) || !(slope == 0 || (decide (25 ≤ slope) && decide (slope ≤ 1000))) then
      (d, bBadmsg, [])
    else
      let d : Dev := { d with bell := { d.bell with capSrc := some h.src } }
      let d := if d.pwr.q ≠ 0 ∨ d.start.stage = .aon ∨ d.start.stage = .halted then
          let o := d.pwr.stored.getD (0, 0)
          { d with pwr := { d.pwr with stored := some (if cap = 0 then o.1 else cap, if slope = 0 then o.2 else slope) } }
        else d.applyCap cap slope
      (d, bOk, d.capBody)

def Dev.capGet (d : Dev) (h : BmpHdr) : Dev := d.bmp h 0x02 true fun d => (d, bOk, d.capBody)
def Dev.quenchMsg (d : Dev) (h : BmpHdr) : Dev := d.bmp h 0x03 true fun d => (if d.pwr.q = 0 then d.quench 2 else d, bOk, [])
/-- RELEASE: hold expiry in the same sample wins. -/
def Dev.releaseMsg (d : Dev) (h : BmpHdr) : Dev :=
  d.bmp h 0x04 true fun d =>
    let d := d.holdExpiry
    if d.pwr.q = 2 ∧ d.causeClear then (d.release, bOk, []) else (d, bDenied, [])

/-! ### Telemetry (R413) -/

/-- TEL_SUB: interval 0 ends a subscription; a fifth subscriber is denied. -/
def Dev.telSub (d : Dev) (h : BmpHdr) (ms : Nat) (dst : BitVec 144) : Dev :=
  d.bmp h 0x08 false fun d =>
    let others := d.bell.subs.filter fun s => s.1 ≠ dst
    if 1000 < ms then (d, bBadmsg, [])
    else if ms = 0 then ({ d with bell := { d.bell with subs := others } }, bOk, [])
    else if 4 ≤ others.length then (d, bDenied, [])
    else
      let new := if d.bell.subs.any fun s => s.1 = dst then d.bell.subs.map (fun s => if s.1 = dst then (dst, ms, ms) else s) else others ++ [(dst, ms, ms)]
      ({ d with bell := { d.bell with subs := new } }, bOk, [])

/-- Highest reading of a sensor place. -/
def Dev.hottest (d : Dev) (lo hi : Nat) : Int :=
  (d.pwr.temp.filter fun e => decide (lo ≤ e.1) && decide (e.1 < hi)).foldl (fun m e => max m e.2) 0

/-- A TELEMETRY record (field order of R413; layout: log 30). -/
def Dev.telBody (d : Dev) : List Byte :=
  bytesOf 8 d.time ++ d.capBody ++
    ([(0, 1000), (1000, 2000), (2000, 3000), (3000, 4000), (4000, 5000), (5000, 6000)].flatMap fun r => bytesOf 2 (BitVec.ofInt 16 (d.hottest r.1 r.2)).toNat) ++
    bytesOf 1 (b2n d.start.coolant) ++ bytesOf 1 d.pkg.load ++ bytesOf 1 d.pkg.level ++ bytesOf 8 d.pkg.capGen

/-- TELEMETRY: one report to a subscriber; from shed level 1 its interval doubles, up to 64 ms. -/
def Dev.telemetry (d : Dev) (i : Nat) : Dev :=
  match d.bell.subs[i]? with
  | none => d
  | some s =>
    if !d.bellowsUp || d.pwr.osc then d
    else
      let cur := if 1 ≤ d.pkg.level then max s.2.2 (min 64 (2 * s.2.2)) else s.2.1
      ({ d with bell := { d.bell with subs := setNth d.bell.subs i (s.1, s.2.1, cur) } }).emit (.telemetry s.1 d.telBody)

/-! ### Image slots and firmware (R296 to R298, R405) -/

def slotSize : Nat := 2 ^ 24

def Dev.slotWrite (d : Dev) (h : BmpHdr) (s : Slot) (off : Nat) (bs : List Byte) : Dev :=
  d.bmp h 0x10 false <| p4 <| authed fun d =>
    if s = .factory ∨ 1024 < bs.length ∨ slotSize < off + bs.length then (d, bBadmsg, [])
    else if d.flash.primary = decide (s = .b) then (d, bDenied, [])
    else
      let f := d.flash
      let f := if s = .b then { f with slotB := SMap.putBytes 0xFF f.slotB off bs } else { f with slotA := SMap.putBytes 0xFF f.slotA off bs }
      ({ d with flash := f }, bOk, [])

/-- SLOT_READ (R296, Table 12.12). -/
def Dev.slotRead (d : Dev) (h : BmpHdr) (s : Slot) (off len : Nat) : Dev :=
  d.bmp h 0x11 false <| p4 fun d =>
    if 1024 < len ∨ slotSize < off + len then (d, bBadmsg, [])
    else (d, bOk, match s with
      | .a => SMap.bytes 0xFF d.flash.slotA off len
      | .b => SMap.bytes 0xFF d.flash.slotB off len
      | .factory => (List.range len).map fun i => factoryAt d.var (off + i))

/-- BOOTSEL: the named slot must pass every check; the older copy is overwritten. -/
def Dev.bootsel (d : Dev) (h : BmpHdr) (s : Slot) : Dev :=
  d.bmp h 0x12 false <| p4 <| authed fun d =>
    if s = .factory then (d, bBadmsg, [])
    else match d.checkSlot (decide (s = .b)) with
      | .error _ => (d, bDenied, [])
      | .ok _ =>
        let f := d.flash
        let n := max (if f.boot0.2.2 then f.boot0.2.1 else 0) (if f.boot1.2.2 then f.boot1.2.1 else 0) + 1
        let first := !f.boot0.2.2 || (f.boot1.2.2 && decide (f.boot0.2.1 < f.boot1.2.1))
        let v : Bool × Nat × Bool := (decide (s = .b), n, true)
        ({ d with flash := if first then { f with boot0 := v } else { f with boot1 := v } }, bOk, [])

/-- PARTIAL: chunks; the last one starts the check. Answered BUSY while one is being checked or applied (R322). -/
def Dev.partialMsg (d : Dev) (h : BmpHdr) (off : Nat) (bs : List Byte) (last : Bool) : Dev :=
  d.bmp h 0x13 false <| authed fun d =>
    if d.img.pstate = 1 ∨ d.img.pstate = 2 then (d, bBusy, [])
    else if 1024 < bs.length then (d, bBadmsg, [])
    else
      let buf := SMap.putBytes 0 (if off = 0 then [] else d.bell.pbuf) off bs
      let d : Dev := { d with bell := { d.bell with pbuf := if last then [] else buf } }
      let d := if !last then d
        else if d.start.stage ≠ .ready then ({ d with img := { d.img with psrc := true } }).partialEnd 5
        else d.partialBegin true (.ok (SMap.bytes 0 buf 0 (off + bs.length)))
      (d, bOk, bytesOf 1 d.img.pstate)

def Dev.fwWrite (d : Dev) (h : BmpHdr) (off : Nat) (bs : List Byte) : Dev :=
  d.bmp h 0x14 false <| p4 fun d =>
    if 1024 < bs.length ∨ 0x1F80000 < off + bs.length then (d, bBadmsg, [])
    else
      let f := d.flash
      ({ d with flash := if d.bell.fwcopy then { f with fw0 := SMap.putBytes 0xFF f.fw0 off bs } else { f with fw1 := SMap.putBytes 0xFF f.fw1 off bs } }, bOk, [])

/-! ### Keys and sessions (R304, R412) -/

def Dev.keyInstall (d : Dev) (h : BmpHdr) (key : BitVec 256) (sig : List Byte) : Dev :=
  d.bmp h 0x18 false fun d =>
    let ok := match d.flash.key with | none => true | some k => Config.ed25519Verifies k (bytesOf 32 key.toNat) sig
    if ok then ({ d with flash := { d.flash with key := some key } }, bOk, []) else (d, bDenied, [])

def Dev.spdm (d : Dev) (h : BmpHdr) (bs : List Byte) : Dev :=
  d.bmp h 0x19 false fun d =>
    let n := d.bell.spdm
    ({ d with bell := { d.bell with spdm := n + 1, auth := Config.spdmAuthenticates n bs } }, bOk, Config.spdmResponse n bs)

/-! ### Resets (R378, R414, R430) -/

/-- R378: resets every local partition of a job, and tells the peers. -/
def Dev.jobReset (d : Dev) (tag scope reason : Nat) : Dev :=
  let d := ((List.range 32).filter fun n => decide ((d.part n).st ≠ 0) && d.st.jobtag n == tag).foldl (fun (d : Dev) n => d.partReset n reason) d
  if scope = 0 then d
  else (d.peers.filter fun p => scope = 2 || sameChassis p d.fab.pkgid).foldl
    (fun (d : Dev) p => d.post p kJobreset 2 tag 0 0 (BitVec.ofNat 64 (reason + scope * 2 ^ 8)) []) d

def Dev.resetMsg (d : Dev) (h : BmpHdr) (k : ResetMsg) : Dev :=
  d.bmp h 0x20 false fun d =>
    match k with
    | .cold => if d.start.stage = .halted then (d, bDenied, []) else (d.beginCold 0x12, bOk, [])
    | .warm => if d.start.stage = .ready ∨ d.start.stage = .warm then (d.warmReset 1, bOk, []) else (d, bBusy, [])
    | .partition n => if d.start.stage ≠ .ready then (d, bOk, []) else if (d.part n.val).st = 0 then (d, bAbsent, []) else (d.partReset n.val 6, bOk, [])
    | .job tag scope =>
      if tag.toNat = 0 ∨ scope.toNat = 3 then (d, bDenied, []) else (if d.start.stage = .ready then d.jobReset tag.toNat scope.toNat 6 else d, bOk, [])

/-- LOOPBACK (R236): only on a present site with no granted unit and no table carve. -/
def Dev.loopback (d : Dev) (h : BmpHdr) (deep : Bool) (s : Nat) (pass : Bool) : Dev :=
  d.bmp h 0x21 false <| p4 fun d =>
    if !d.siteIn (deep, s) then (d, bAbsent, [])
    else if (siteUnits (deep, s)).any fun u => d.town u ≠ 0xFF then (d, bDenied, [])
    else (d, bOk, bytesOf 1 (b2n pass))

/-- LOG_READ: records of code, time and detail, eight bytes each (log 30). -/
def Dev.logRead (d : Dev) (h : BmpHdr) (i n : Nat) : Dev :=
  d.bmp h 0x22 false <| p4 fun d =>
    (d, bOk, (((d.flash.log.drop i).take (min n 50)).map fun e => bytesOf 8 e.1 ++ bytesOf 8 e.2.1 ++ bytesOf 8 e.2.2.toNat).flatten)

/-! ### Load and watchdog (R407, R408, R483) -/

/-- SHED_LEVEL_UPDATE: L in percent; whether it has been at least 95 for 10 ms, and 10 points below the level's entry value for 100 ms. -/
def Dev.shedUpdate (d : Dev) (load : Nat) (above95 below : Bool) : Dev :=
  if d.pkg.failed then d
  else
    let lv := d.pkg.level
    let up := if above95 then 3 else if 85 ≤ load then 2 else if 70 ≤ load then 1 else 0
    let new := if lv < up then up else if below then lv - 1 else lv
    let d : Dev := { d with pkg := { d.pkg with load := min 100 load, level := new, maxlevel := max d.pkg.maxlevel new } }
    if lv < new ∧ 2 ≤ new then d.raisePkg 6 else d

def Dev.loadWord (d : Dev) : Word :=
  let p := d.pkg
  pack [(p.agains, 48), (p.busys, 32), (p.load, 16), (b2n p.failed, 4), (p.maxlevel, 2), (p.level, 0)]
/-- Fields of BELLOWS_LOAD that a write of 0 clears or resets; other values are ignored. -/
def Dev.loadWrite (d : Dev) (v : Word) : Dev :=
  let p := d.pkg
  { d with pkg := { p with agains := if wf v 63 48 = 0 then 0 else p.agains, busys := if wf v 47 32 = 0 then 0 else p.busys
                           maxlevel := if wf v 3 2 = 0 then p.level else p.maxlevel } }

/-- WATCHDOG_EXPIRY: three missed services. Before readiness the cold start begins again with its cause (R430). -/
def Dev.watchdog (d : Dev) : Dev :=
  match d.start.stage with
  | .off | .aon | .halted | .warm => d
  | .ready =>
    if d.bell.failedAt.isSome then d
    else
      let d : Dev := { d with pkg := { d.pkg with failed := true }, bell := { d.bell with failedAt := some d.now } }
      (d.raisePkg 6).event 0x09 0
  | _ =>
    let d := d.event 0x09 0
    { d.railsShut .aon with start := { (d.railsShut .aon).start with cause := d.pkg.cause, imgKept := false } }

/-- BELLOWS_FAILED_TIMEOUT: every queue is IDLE, or 10 s have passed. -/
def Dev.watchdogEnd (d : Dev) : Dev :=
  match d.bell.failedAt with
  | some t => if d.cmds.isEmpty ∨ t + 10000000000 ≤ d.now then d.warmReset 2 else d
  | none => d

end Sys2Proof.Machine
end

