-- ==== Sys2Proof/Machine/Debug.lean ====
section
/-! DEFINITION. Machine/Debug.lean: hang captures and the DBG partition block (R462, R467 to R469, Table 15.6). -/

namespace Sys2Proof.Machine

open Sys2Proof

def Dev.setDbg (d : Dev) (n : Nat) (f : Dbg → Dbg) : Dev := d.setPart n fun p => { p with d := f p.d }

/-! ### Wait causes (after Table 15.11) -/

/-- A credited row of the command waits in a window's queue, or for ingress credit. -/
def Dev.creditWait (d : Dev) (r : CmdRef) : Option Nat :=
  let mine (q : CReq) : Bool := match q.who with | .cmd c _ => c = r | .remote .. => false
  if d.wins.any fun e => e.2.queue.any mine then some 5
  else if d.wins.any fun e => e.2.granted.any fun q => mine q && !q.written then some 6 else none

/-- What an uncompleted command waits for; 0 where it waits for nothing named. -/
def Dev.waitCause (d : Dev) (c : Cmd) : Nat :=
  match c.phase with
  | .waiting =>
    if (d.earlier c).any fun x => x.open_ && x.op == 0x1A then 3
    else if (d.earlier c).any fun x => x.open_ && x.op == 0x19 then 2
    else if (c.after || waitsForAll c.op) && !d.earlierDone c then 1
    else if d.dumpHeld c.ref then 14
    else if c.op = 0x10 ∧ d.cmds.any (fun x => x.part = c.part ∧ x.op = 0x10 ∧ x.phase = .running) then 12 else 0
  | .running =>
    if c.op = 0x19 then 2
    else if c.op = 0x1A then 3
    else if c.op = 0x01 ∧ !c.placed then 4
    else if c.move.parked.isSome then 9
    else match d.creditWait c.ref with
      | some k => k
      | none => if 2 ≤ c.op ∧ c.op ≤ 5 ∧ c.move.bufs.isEmpty ∧ !d.tongs.want.isEmpty then 11 else 0
  | .arrived => 8
  | .done => 13
  | _ => 0

/-- What the task on a tile waits for (Table 15.8), if anything. -/
def tileWait (t : Tile) : Option Nat :=
  if t.groups.toList.any (fun g => match g with | some g => g.bar | none => false) ∧
      t.groups.toList.all (fun g => match g with | some g => g.bar | none => true) then some 7
  else match t.lq with
    | .bld _ desc _ _ :: _ => if t.heldAt (wf desc 63 60) (wb desc 59) (wf desc 57 43) 1 then some 10 else none
    | _ => none

/-! ### Captures (R468) -/

def hentry (ukind unit code time : Nat) (c : Option Cmd) (detail : Word) (wctr : Nat := 0) (wyard : Bool := false) : HEntry :=
  match c with
  | some c => ⟨ukind, unit, code, time, c.viaPf, c.ref.q.val, c.ref.slot.toNat, c.layer, c.oper, detail, wctr, wyard, c.part⟩
  | none => ⟨ukind, unit, code, time, false, 0, 0, 0, 0, detail, wctr, wyard, 32⟩

/-- A ring entry belongs to partition n: its unit does, or its command acts for n. -/
def Dev.hangMine (d : Dev) (n : Nat) (e : HEntry) : Bool :=
  match e.ukind with
  | 1 => d.tileOwner e.unit == n
  | 4 => if e.wyard then d.st.yown e.unit == n else d.tileOwner e.unit == n
  | 5 => e.part == 1000 + d.st.jobtag n
  | _ => e.part == n

/-- RING mode: each unit's ring, oldest entry first. -/
def Dev.ringEntries (d : Dev) (n : Nat) : List HEntry := (d.hang.flatMap (·.2)).filter fun e => d.hangMine n e

/-- SNAPSHOT mode: the state of each unit of the partition. -/
def Dev.snapEntries (d : Dev) (n : Nat) : List HEntry :=
  let t := d.time
  let cs := d.cmds.filter fun c => c.part = n ∧ c.open_
  let queues := (List.range 64).map fun q =>
    let x := d.queue (qKey (n + 1) q)
    hentry 0 q 0x20 t none (pack [(x.sqhead, 0), (x.tail, 16), (x.cqtail, 32), (x.cqhead, 48)])
  let waits := cs.map fun c => hentry 0 c.ref.hunit 0x21 t (some c) (BitVec.ofNat 64 (d.waitCause c))
  let tiles := (d.tiles.filter fun e => d.tileOwner e.1 = n).filterMap fun e =>
    match e.2.task with
    | none => none
    | some k => some (match tileWait e.2 with
      | some w => hentry 1 e.1 0x23 t (d.cmd k.cmd) (BitVec.ofNat 64 (w + e.2.pc.toNat / 4 * 2 ^ 8))
      | none => hentry 1 e.1 0x22 t (d.cmd k.cmd) e.2.pc)
  let engines := (cs.filter fun c => 2 ≤ c.op ∧ c.op ≤ 4 ∧ c.phase = .running ∧ d.waitCause c ≠ 0).map fun c =>
    hentry 2 0 0x21 t (some c) (BitVec.ofNat 64 (d.waitCause c))
  let tongs := (cs.filter fun c => c.op = 1 ∧ c.phase = .running ∧ !c.placed).map fun c => hentry 3 0 0x21 t (some c) 4
  let win (k unit : Nat) (y : Bool) : List HEntry :=
    (List.range 8).filterMap fun i =>
      let w := d.win (k + i)
      if w.en then some (hentry 4 unit 0x24 t none w.stat i y) else none
  let wins := ((d.tilesOf n).filter d.tileIn).flatMap (fun k => win (8 * k) k false) ++
    ((List.range 256).filter fun u => d.st.yown u = n).flatMap fun u => win (yardWin u 0) u true
  let bars := (List.range d.fab.ctxs.length).filterMap fun i =>
    match d.fab.ctxs[i]? with
    | some x => if x.tag = d.st.jobtag n then some (hentry 5 i 0x25 t none (BitVec.ofNat 64 (x.got + x.need * 2 ^ 32))) else none
    | none => none
  queues ++ waits ++ tiles ++ engines ++ tongs ++ wins ++ bars

/-- Table 15.10. -/
def HEntry.bytes (e : HEntry) : List Byte :=
  bytesOf 8 (e.ukind * 2 ^ 60 + e.unit * 2 ^ 44 + e.code * 2 ^ 36 + e.wctr * 2 ^ 33 + b2n e.wyard * 2 ^ 32) ++ bytesOf 8 e.time ++
    bytesOf 8 (b2n e.pf * 2 ^ 63 + e.queue * 2 ^ 57 + e.slot * 2 ^ 41 + e.layer * 2 ^ 21 + e.oper * 2 ^ 5) ++ bytesOf 8 e.detail.toNat

/-- A capture starts: its entries are latched. At shed level 3 it is refused. -/
def Dev.captureStart (d : Dev) (n : Nat) (auto : Bool) : Dev :=
  if (d.part n).d.cap.isSome then d
  else if 3 ≤ d.pkg.level then d.setDbg n fun g => { g with refused := true, hgo := false }
  else
    let es := if d.st.hang then d.snapEntries n else d.ringEntries n
    d.setDbg n fun g => { g with cap := some (d.time, auto, es), hgo := !auto || g.hgo }

/-- DBG_HGCTL.GO. -/
def Dev.hgctlGo (d : Dev) (n : Nat) : Dev :=
  if (d.part n).d.hgo || (d.part n).d.cap.isSome then d
  else (d.setDbg n fun g => { g with hgo := true, refused := false }).captureStart n false

/-- HANG_AUTO_CAPTURE. -/
def Dev.hangAuto (d : Dev) (n : Nat) : Dev :=
  let g := (d.part n).d
  if d.live ∧ g.hangms ≠ 0 ∧ d.cmds.any (fun c => c.part = n ∧ c.open_) ∧ g.last + 1000000 * g.hangms ≤ d.now then d.captureStart n true else d

/-- CAPTURE_COMPLETE: the header and the entries that fit HGLEN are written through the partition's engine translations; a piece that faults is not written. -/
def Dev.captureEnd (d : Dev) (n : Nat) : Dev :=
  let g := (d.part n).d
  match g.cap with
  | none => d
  | some (t0, auto, es) =>
    if !d.live || d.bell.failedAt.isSome then d
    else
      let fit := (g.hglen - 64) / 32
      let ws := es.take fit
      let head := bytesOf 8 (b2n d.st.hang * 2 ^ 63 + b2n auto * 2 ^ 62 + b2n (decide (ws.length < es.length)) * 2 ^ 61 + n * 2 ^ 32 + ws.length) ++
        bytesOf 8 t0 ++ bytesOf 8 d.time ++ bytesOf 8 (g.seq + 1) ++ bytesOf 32 0
      let bs := (head ++ ws.flatMap HEntry.bytes).take g.hglen
      let d := (pieces g.hgbuf.toNat bs.length).foldl (fun (d : Dev) p =>
        let r := d.accE n p.1 p.2 true ⟨none, some n⟩
        match r.2 with
        | .loc _ | .host _ => Dev.writeAll ⟨portXfer, n, ⟨none, some n⟩⟩ [(r.2, p.2)] ((bs.drop (p.1 - g.hgbuf.toNat)).take p.2) r.1
        | _ => r.1) d
      (d.setDbg n fun g => { g with cap := none, hgo := false, seq := g.seq + 1 }).raiseEvt n 4

/-! ### The DBG partition block (Table 15.6) -/

/-- DBG_FRCFG; `act` says that the half with FREN is written. -/
def Dev.frcfg (d : Dev) (n : Nat) (v : Word) (act : Bool) : Dev :=
  let d := d.setDbg n fun g => { g with frbase := BitVec.ofNat 64 (wf v 63 12), frlog := wf v 7 4, fren := wb v 0 }
  if act && wb v 0 then d.setDbg n fun g => { g with head := 0, tail := 0, phase := true } else d

/-- The trace buffer lies in Yard units of partition n (R462). -/
def Dev.traceBufOk (d : Dev) (n : Nat) (base len : Nat) : Bool :=
  decide (base + len ≤ 2 ^ 20) &&
    (List.range ((base + len + 4095) / 4096 - base / 4096)).all fun i => decide (d.st.yown (base / 4096 + i) = n)

/-- Trace sources of partition n. -/
def Dev.traceSources (d : Dev) (n : Nat) : List Nat :=
  ((d.tiles.map (fun (e : Nat × Tile) => e.1) ++ (d.coresOf n).map fun (c : Nat) => 65536 + c).filter fun k => d.traced k = some n).filter fun k =>
    decide (k < 65536) || (d.core (k - 65536)).run

/-- DBG_TRCTL: EN may set only under R462; when it does, every traced source writes a SYNC record. -/
def Dev.trctl (d : Dev) (n : Nat) (v : Word) (act : Bool) : Dev :=
  let g := (d.part n).d
  let g1 := { g with denied := g.denied && !(act && wb v 62), operf := wf v 15 0 }
  let g2 := if g.tren then g1 else { g1 with mode := wb v 61, src := wf v 60 59 }
  if !act then d.setDbg n fun _ => g2
  else if !wb v 63 then d.setDbg n fun _ => { g2 with tren := false }
  else if !d.st.traceen n || !d.traceBufOk n g.trbase g.trlen then d.setDbg n fun _ => { g2 with denied := true }
  else
    let d := d.setDbg n fun _ => { g2 with tren := true }
    if g.tren then d
    else (d.traceSources n).foldl (fun (d : Dev) k =>
      let pc := if k < 65536 then (d.tile k).pc else (d.core (k - 65536)).pc
      ({ d with trace := SMap.put TSrc.init d.trace k TSrc.init }).sync n k pc) d

/-- Word w of the DBG block of partition n. -/
def Dev.dbgRead (d : Dev) (n w : Nat) : Word :=
  let g := (d.part n).d
  match w with
  | 0 => pack [(g.frbase.toNat % 2 ^ 52, 12), (g.frlog, 4), (b2n g.fren, 0)]
  | 1 => pack [(g.lost, 48), (g.tail, 16), (g.head, 0)]
  | 2 => pack [(b2n g.tren, 63), (b2n g.denied, 62), (b2n g.mode, 61), (g.src, 59), (g.operf, 0)]
  | 3 => pack [(g.trbase, 44), (g.trlen, 24)]
  | 4 => pack [(g.wraps, 32), (g.wp, 0)]
  | 5 => pack [(b2n g.hgo, 63), (b2n g.refused, 62), (g.hangms, 32)]
  | 6 => g.hgbuf
  | 7 => BitVec.ofNat 64 g.hglen
  | _ => 0

/-- A write of word w; lo and hi say which halves are written. HGBUF and HGLEN are held to their alignment. -/
def Dev.dbgWrite (d : Dev) (n w : Nat) (v : Word) (lo hi : Bool) : Dev :=
  match w with
  | 0 => d.frcfg n v lo
  | 1 => d.setDbg n fun g => { g with head := wf v 15 0 }
  | 2 => d.trctl n v hi
  | 3 => d.setDbg n fun g => if g.tren then g else { g with trbase := wf v 63 44, trlen := wf v 43 24 }
  | 5 =>
    let d := d.setDbg n fun g => { g with hangms := wf v 47 32 }
    if wb v 63 then d.hgctlGo n else d
  | 6 => d.setDbg n fun g => { g with hgbuf := BitVec.ofNat 64 (wf v 63 6 * 64) }
  | 7 => d.setDbg n fun g => { g with hglen := wf v 31 5 * 32 }
  | _ => d

end Sys2Proof.Machine
end

