-- ==== Sys2Proof/Machine/Regs.lean ====
section
/-! DEFINITION. Machine/Regs.lean: the register space in both views (R13 to R16, R334, R335, R472 to R485). Offsets are in register-space form; a view is none for the privileged one and some n for that of partition n. -/

namespace Sys2Proof.Machine

open Sys2Proof

/-! ### Access errors (R13, R482) -/

/-- SIZE of Table 16.12. -/
def sizeCode (len : Nat) : Nat := min 7 (if len ≤ 1 then 0 else Nat.log2 (len - 1) + 1)

/-- An access error: BADCNT counts it, and the first is captured. -/
def Dev.accessError (d : Dev) (func off : Nat) (write : Bool) (len : Nat) : Dev :=
  let d := { d with pkg := { d.pkg with badcnt := sat 16 (d.pkg.badcnt + 1) } }
  if d.pkg.err.testBit 0 then d
  else
    let a := pack [(1, 63), (b2n write, 62), (sizeCode len, 59), (func, 53), (off % 2 ^ 26, 0)]
    ({ d with pkg := { d.pkg with errAddr := a } }).pkgErr 0

/-! ### The PKG block (Table 16.2) -/

def Dev.rststat (d : Dev) : Word :=
  let p := d.pkg
  pack [(b2n p.ready, 63), (b2n p.warm, 62), (p.cause, 48), (p.warmcnt, 32), (p.stfail, 16)]

/-- Registers of the PKG block; none where the unprivileged view does not hold the offset. -/
def Dev.pkgRead (d : Dev) (v : Option Nat) (o : Nat) : Option Word :=
  let priv (w : Word) : Option Word := if v.isNone then some w else none
  if o = 0x000 then some (pack [(Config.vendorId.toNat, 48), (d.var.code, 32), (Config.revision.toNat, 24), (1, 16)])
  else if o = 0x008 then some (pack [(d.bell.fwver, 32), (b2n d.bell.fwcopy, 31), (Config.romVersion.toNat, 0)])
  else if o = 0x010 then priv Config.serial
  else if o = 0x018 then priv (BitVec.ofNat 64 Config.eui48.toNat)
  else if o = 0x020 then some d.timeW
  else if o = 0x040 then some (BitVec.ofNat 64 (match v with | none => d.pkg.capGen | some n => (d.part n).capgen))
  else if o = 0x048 then some (d.cap0 v)
  else if o = 0x050 then some (d.cap1 v)
  else if o = 0x058 then some (BitVec.ofNat 64 (d.brickBits v))
  else if o = 0x060 then some (BitVec.ofNat 64 (d.brickBits v / 2 ^ 64))
  else if o = 0x068 then some (BitVec.ofNat 64 (d.coreBits v))
  else if o = 0x070 then some (BitVec.ofNat 64 (d.coreBits v / 2 ^ 64))
  else if o = 0x078 then some (if v.isNone then pack [(d.un.eng, 36), (d.un.port, 0)] else 0)
  else if 0x080 ≤ o ∧ o < 0x0A0 then some (BitVec.ofNat 64 (d.qtrBits v / 2 ^ (64 * ((o - 0x080) / 8))))
  else if 0x400 ≤ o ∧ o < 0x800 then some (d.lbrick v ((o - 0x400) / 16) ((o - 0x400) % 16 / 8))
  else if o = 0x100 then priv (BitVec.ofNat 64 d.pkg.intSum)
  else if o = 0x108 then priv (BitVec.ofNat 64 d.pkg.intEn)
  else if o = 0x110 then priv (pack [(d.pkg.badcnt, 48), (d.pkg.err, 0)])
  else if o = 0x118 then priv d.pkg.errAddr
  else if o = 0x120 then priv d.loadWord
  else if o = 0x180 then priv d.rststat
  else priv 0

/-- Bits of m cleared in w. -/
def clearBits (w m : Nat) : Nat := w &&& (2 ^ 64 - 1 - m % 2 ^ 64)

def Dev.pkgWrite (d : Dev) (o : Nat) (v : Word) : Dev :=
  if o = 0x100 then { d with pkg := { d.pkg with intSum := clearBits d.pkg.intSum (wf v 7 0) } }
  else if o = 0x108 then { d with pkg := { d.pkg with intEn := wf v 7 0 } }
  else if o = 0x110 then { d with pkg := { d.pkg with err := clearBits d.pkg.err (wf v 6 0), badcnt := wf v 63 48 } }
  else if o = 0x120 then d.loadWrite v
  else if o = 0x188 then (if wb v 63 then d.warmReset 3 else d)
  else d

/-! ### The PART block (Tables 10.3 to 10.5, 10.15) -/

def Dev.arunBits (d : Dev) (n k : Nat) : Nat :=
  (List.range 64).foldl (fun a i => if d.coreOwner (64 * k + i) = n ∧ (d.core (64 * k + i)).run then a + 2 ^ i else a) 0

def Dev.partRead (d : Dev) (priv : Bool) (n o : Nat) : Option Word :=
  let p := d.part n
  let onlyP (w : Word) : Option Word := if priv then some w else none
  let a (w : Word) : Word := if p.st = 0 then 0 else w
  if o = 0x00 then some (a (pack [(p.st, 62), (b2n p.faulted, 61), (p.reason, 48), (p.rcount, 32)]))
  else if o = 0x08 then some (a (pack [(b2n p.rst, 63)]))
  else if o = 0x10 then some (a (pack [(p.pfen, 16), (p.en, 8), (p.pend, 0)]))
  else if o = 0x28 then onlyP (a p.aroot)
  else if o = 0x30 then onlyP (a p.aentry)
  else if o = 0x38 then onlyP (a (pack [(b2n p.aerr, 62), (p.acore, 0)]))
  else if o = 0x40 then some (a (BitVec.ofNat 64 (d.arunBits n 0)))
  else if o = 0x48 then some (a (BitVec.ofNat 64 (d.arunBits n 1)))
  else onlyP 0

/-- PART_CTL: RESET is RO in the unprivileged view. -/
def Dev.partCtl (d : Dev) (priv : Bool) (n : Nat) (v : Word) : Dev :=
  let d := if wb v 62 then d.partResume n else d
  if priv && wb v 63 then d.partReset n 1 else d

def Dev.partWrite (d : Dev) (priv : Bool) (n o : Nat) (v : Word) : Dev :=
  if (d.part n).st = 0 then d
  else if o = 0x08 then d.partCtl priv n v
  else if o = 0x10 then
    d.setPart n fun p => { p with pend := clearBits p.pend (wf v 7 0), en := wf v 15 8, pfen := if priv then wf v 23 16 else p.pfen }
  else if !priv then d
  else if o = 0x28 then d.setPart n fun p => { p with aroot := v }
  else if o = 0x30 then d.setPart n fun p => { p with aentry := v }
  else if o = 0x38 then d.astart n v
  else d

/-! ### MSI-X (R350): address, then data and the mask bit, 16 bytes a vector -/

def vecCount (fn : Nat) : Nat := if fn = 0 then 256 else 72

def Dev.msixRead (d : Dev) (priv : Bool) (fn o : Nat) : Option Word :=
  let vec (v : Nat) : Vec := SMap.get Vec.reset d.vecs (fn * 256 + v)
  if o < 16 * vecCount fn then
    let e := vec (o / 16)
    some (if o % 16 = 0 then e.addr else pack [(b2n e.mask, 32), (e.data, 0)])
  else if 0x8000 ≤ o ∧ o < 0x8000 + 8 * cdiv (vecCount fn) 64 then
    some (BitVec.ofNat 64 ((List.range 64).foldl (fun a i => if (vec ((o - 0x8000) * 8 + i)).pend then a + 2 ^ i else a) 0))
  else if priv then some 0 else none

/-- A write of the table: an unmasked vector that is pending is sent. -/
def Dev.msixWrite (d : Dev) (fn o : Nat) (v : Word) : Dev :=
  if 16 * vecCount fn ≤ o then d
  else
    let k := fn * 256 + o / 16
    let d := { d with vecs := SMap.upd Vec.reset d.vecs k fun e =>
      if o % 16 = 0 then { e with addr := v } else { e with data := wf v 31 0, mask := wb v 32 } }
    if d.live then d.flushVecs else d

/-! ### The serving block (Table 8.7, R272) -/

/-- Local address below which billets of a CACHE tile never reach, and the top of their area (R272). -/
def bilTop : Nat := 0x7FEF8
def bilMax : Nat := (bilTop - 0x40000) / 1024

def Dev.active (d : Dev) (n : Nat) : Nat := (d.serving n).active

def Dev.tngRead (d : Dev) (n w : Nat) : Word :=
  let t := d.serving n
  match w with
  | 0 => t.seqbase
  | 1 => pack [(t.seqcap, 48), (t.bfmt, 32), (t.hq, 24), (t.hkv, 16), (t.dhc, 13), (t.nlayer, 0)]
  | 2 => t.graph
  | 3 => pack [(t.maxtok, 32), (t.chunk, 16), (t.maxbatch, 0)]
  | 4 => pack [(t.span, 48), (t.biltile, 32), (t.bilyard, 0)]
  | 5 => pack [(t.stepno, 32), (t.active, 0)]
  | 6 => pack [(t.slagcnt, 48), (t.rolefail, 32), (b2n t.badcfg, 0)]
  | _ => 0

/-- R272: TNG_CONFIG_WRITE, of word w. -/
def Dev.tngWrite (d : Dev) (n w : Nat) (v : Word) : Dev :=
  let t := d.serving n
  let bad (d : Dev) : Dev := d.setServing n fun t => { t with badcfg := true }
  match w with
  | 0 => d.setServing n fun t => { t with seqbase := v }
  | 1 =>
    if t.active ≠ 0 then bad d
    else
      let b := wf v 35 32
      let ok := b == 5 || b == 3 || b == 1
      d.setServing n fun t =>
        { t with seqcap := wf v 63 48, bfmt := if ok then b else 5, hq := wf v 31 24, hkv := wf v 23 16, dhc := wf v 15 13, nlayer := wf v 12 0
                 badcfg := t.badcfg || !ok }
  | 2 => d.setServing n fun t => { t with graph := v }
  | 3 => d.setServing n fun t => { t with maxtok := wf v 63 32, chunk := wf v 31 16, maxbatch := wf v 12 0 }
  | 4 =>
    if t.active ≠ 0 then bad d
    else
      let ymax := ((List.range 256).filter fun u => d.st.yown u = n).length
      d.setServing n fun t =>
        { t with span := wf v 63 48, biltile := min bilMax (wf v 47 32), bilyard := min ymax (wf v 7 0)
                 badcfg := t.badcfg || decide (bilMax < wf v 47 32) || decide (ymax < wf v 7 0) }
  | 6 => d.setServing n fun t => { t with badcfg := t.badcfg && !wb v 0 }
  | _ => d

/-! ### The FAB block (Tables 11.6 to 11.10) -/

def Dev.fabPortWord (d : Dev) (p : Nat) : Word :=
  if !d.portIn p then 0
  else
    let x := d.port p
    let lanes := (List.range 8).foldl (fun a l => if (d.laneAt p l).up ∧ !(d.laneAt p l).mis then a + 2 ^ l else a) 0
    let links := (d.fab.links.filter fun l => l.ref.port.val = p).length
    pack [(x.st, 61), (lanes, 53), (links, 49), (x.replays, 32), (x.crcerr, 16), (x.downs, 0)]

def Dev.fabLaneWord (d : Dev) (p l : Nat) : Word :=
  if !d.portIn p then 0
  else
    let x := d.laneAt p l
    pack [(x.ppkg, 48), (x.pport, 42), (x.plane, 39), (b2n x.sw, 38), (b2n x.up, 37), (b2n x.mis, 36)]

def Dev.fabRead (d : Dev) (o : Nat) : Word :=
  let f := d.fab
  if o = 0 then pack [(f.pkgid, 48), (f.tbm, 32), (b2n f.noid, 0)]
  else if o = 8 then pack [(b2n f.locked, 63), (b2n f.master, 62), ((BitVec.ofInt 32 f.offset).toNat, 0)]
  else if o = 0x18 then pack [(b2n f.jgo, 63), (b2n f.jerr, 62), (f.jscope, 56), (f.jtag, 0)]
  else if 0x100 ≤ o ∧ o < 0x220 then d.fabPortWord ((o - 0x100) / 8)
  else if 0x1000 ≤ o ∧ o < 0x1900 then d.fabLaneWord ((o - 0x1000) / 64) ((o - 0x1000) % 64 / 8)
  else 0

/-- FAB_JOBRST.GO clears once the local resets are done (Table 11.8, R481 event 7). -/
def Dev.settleJob (d : Dev) : Dev :=
  if d.fab.jgo ∧ (List.range 32).all (fun n => decide ((d.part n).st ≠ 2) || decide (d.st.jobtag n ≠ d.fab.jtag)) then
    ({ d with fab := { d.fab with jgo := false } }).raisePkg 7
  else d

/-- FAB_JOBRST (R378): SCOPE and JOBTAG are written, and GO starts a job reset or is refused. -/
def Dev.fabJobrst (d : Dev) (v : Word) : Dev :=
  if d.fab.jgo then d
  else
    let d : Dev := { d with fab := { d.fab with jscope := wf v 57 56, jtag := wf v 15 0 } }
    if !wb v 63 then d
    else if wf v 57 56 = 3 ∨ wf v 15 0 = 0 then { d with fab := { d.fab with jerr := true } }
    else
      let d : Dev := { d with fab := { d.fab with jerr := false, jgo := true } }
      (d.jobReset (wf v 15 0) (wf v 57 56) 1).settleJob

def Dev.fabWrite (d : Dev) (o : Nat) (v : Word) : Dev :=
  if o = 0x18 then d.fabJobrst v
  else if 0x100 ≤ o ∧ o < 0x220 ∧ d.portIn ((o - 0x100) / 8) then
    d.setPort ((o - 0x100) / 8) fun p => { p with replays := wf v 47 32, crcerr := wf v 31 16, downs := wf v 15 0 }
  else d

/-! ### The PWR block (Tables 16.14, 16.15) and the CNT block (Table 15.5) -/

def Dev.pwrRead (d : Dev) (o : Nat) : Word :=
  if o = 0 then pack [(min 3 (popc 16 d.pwr.conv), 16), (d.pwr.conv, 0)] else if o = 8 then BitVec.ofNat 64 d.start.slot else 0

/-- Queue banks of function fn, then partition totals. -/
def Dev.cntRead (d : Dev) (v : Option Nat) (o : Nat) : Option Word :=
  let fn := match v with | none => 0 | some n => n + 1
  if o < 0x8000 then some (SMap.get 0 d.cntQ (qKey fn (o / 0x200) * 64 + o % 0x200 / 8))
  else
    let n := (o - 0x8000) / 0x200
    let e := (o - 0x8000) % 0x200 / 8
    match v with
    | none => some (if n < 32 then SMap.get 0 d.cntP (n * 64 + e) else 0)
    | some m => if n = 0 then some (SMap.get 0 d.cntP (m * 64 + e)) else none

/-! ### Both views (R472, R473) -/

/-- What a TNG_BRICK entry reads: 0 for an unpopulated site, and in the unprivileged view for a brick of which the partition has no quarter. -/
def Dev.tngBrick (d : Dev) (v : Option Nat) (p : Nat) : Word :=
  if d.var.sites ≤ p then 0
  else match v with
    | none => d.brickWord p
    | some n => match d.logical p with | some b => if (d.quarters b).contains n then d.brickWord p else 0 | none => 0

/-- A read at register-space offset o, a multiple of 8; none where the unprivileged view holds nothing (R335). -/
def Dev.regRead (d : Dev) (v : Option Nat) (o : Nat) : Option Word :=
  let priv (w : Word) : Option Word := if v.isNone then some w else none
  let fn := match v with | none => 0 | some n => n + 1
  let b := o / 0x100000
  let x := o % 0x100000
  if v.isSome ∧ 0x10000 ≤ x then none
  else match b with
    | 0 => d.pkgRead v x
    | 1 => priv (if x < 0x38 then d.imgRead (x / 8) else 0)
    | 2 | 3 => match v with
      | none => if o < 0x400000 then some ((d.partRead true ((o - 0x200000) / 0x10000) (x % 0x10000)).getD 0) else some 0
      | some n => if b = 2 then d.partRead false n x else none
    | 6 => if x < 0x4000 then (if x % 0x100 < 0x38 then some (d.qRead fn (x / 0x100) (x % 0x100 / 8)) else priv 0)
           else if 0x8000 ≤ x ∧ x < 0x8200 then some 0 else priv 0
    | 7 => d.msixRead v.isNone fn x
    | 8 => if x < 0x240 then some (d.tngBrick v (x / 8))
           else match v with
             | none => if x = 0x400 then some d.tngReqWord
                 else if x = 0x408 then some (pack [(d.tongs.coldms, 32), (d.tongs.bankus, 0)])
                 else if 0x1000 ≤ x ∧ x < 0x3000 ∧ x % 0x100 < 0x38 then some (d.tngRead ((x - 0x1000) / 0x100) (x % 0x100 / 8)) else some 0
             | some n => if 0x1000 ≤ x ∧ x < 0x1038 then some (d.tngRead n ((x - 0x1000) / 8)) else none
    | 9 => match v with
        | none => if 0x1000 ≤ x ∧ x < 0x3000 ∧ x % 0x100 < 0x40 then some (d.xlatRead ((x - 0x1000) / 0x100) (x % 0x100 / 8)) else some 0
        | some n => if x = 0x1008 ∨ x = 0x1010 ∨ x = 0x1018 ∨ x = 0x1038 then some (d.xlatRead n ((x - 0x1000) / 8)) else none
    | 10 => priv (if x = 0x1000 then d.hearthCtlWord else if x = 0x1008 then d.hearthStatWord else if x = 0x1010 then d.sramErrWord else 0)
    | 11 => priv (if x = 0 then BitVec.ofNat 64 d.mem.amode else 0)
    | 12 => priv (d.fabRead x)
    | 13 => priv (d.pwrRead x)
    | 14 => match v with
        | none => if 0x1000 ≤ x ∧ x < 0x3000 ∧ x % 0x100 < 0x40 then some (d.dbgRead ((x - 0x1000) / 0x100) (x % 0x100 / 8)) else some 0
        | some n => if 0x1000 ≤ x ∧ x < 0x1040 then some (d.dbgRead n ((x - 0x1000) / 8)) else none
    | 15 => d.cntRead v x
    | _ => priv 0

/-- Bits of a register that act when written 1 (W1C, W1S): a 32-bit write leaves those of the other half alone. -/
def actBits (o : Nat) : Nat :=
  let x := o % 0x100000
  match o / 0x100000 with
  | 0 => if x = 0x100 then 0xFF else if x = 0x110 then 0x7F else if x = 0x188 then 2 ^ 63 else 0
  | 1 => if x = 0x28 then 2 ^ 63 else 0
  | 2 | 3 => if x % 0x10000 = 8 then 3 * 2 ^ 62 else if x % 0x10000 = 0x10 then 0xFF else if x % 0x10000 = 0x38 then 2 ^ 63 else 0
  | 6 => if x % 0x100 = 0x28 then 6 else if x % 0x100 = 0x30 then 2 ^ 63 else 0
  | 8 => if x = 0x400 then 2 ^ 63 else if x % 0x100 = 0x30 then 1 else 0
  | 9 => if x % 0x100 = 0x28 then 2 ^ 63 else 0
  | 10 => if x = 0x1000 then 1 else 0
  | 11 => 0x100
  | 12 => if x = 0x18 then 2 ^ 63 else 0
  | 14 => if x % 0x100 = 0x10 then 2 ^ 62 else if x % 0x100 = 0x28 then 2 ^ 63 else 0
  | _ => 0

/-- A write of a whole register; lo and hi say which halves the access reaches. -/
def Dev.regPut (d : Dev) (v : Option Nat) (o : Nat) (w : Word) (lo hi : Bool) : Dev :=
  let fn := match v with | none => 0 | some n => n + 1
  let x := o % 0x100000
  match o / 0x100000, v with
  | 0, none => d.pkgWrite x w
  | 1, none => if x = 0x20 then { d with img := { d.img with paddr := w } } else if x = 0x28 then d.imgPctl w else d
  | 2, none | 3, none => d.partWrite true ((o - 0x200000) / 0x10000) (x % 0x10000) w
  | 2, some n => d.partWrite false n x w
  | 6, _ =>
    if x < 0x4000 then d.qWrite fn (x / 0x100) (if x % 0x100 < 0x38 then x % 0x100 / 8 else 7) w
    else if 0x8000 ≤ x ∧ x < 0x8200 ∧ lo then d.doorbell fn ((x - 0x8000) / 8) (wf w 15 0) else d
  | 7, _ => d.msixWrite fn x w
  | 8, none =>
    if x = 0x400 then d.tngReq w else if x = 0x408 then d.pwrctl w
    else if 0x1000 ≤ x ∧ x < 0x3000 ∧ x % 0x100 < 0x38 then d.tngWrite ((x - 0x1000) / 0x100) (x % 0x100 / 8) w else d
  | 9, none => if 0x1000 ≤ x ∧ x < 0x3000 then d.xlatWrite ((x - 0x1000) / 0x100) (x % 0x100 / 8) w else d
  | 10, none => if x = 0x1000 then d.hearthCtl w else if x = 0x1010 then d.sramErr w else d
  | 11, none => if x = 0 then d.cohCtl w else d
  | 12, none => d.fabWrite x w
  | 14, none => if 0x1000 ≤ x ∧ x < 0x3000 then d.dbgWrite ((x - 0x1000) / 0x100) (x % 0x100 / 8) w lo hi else d
  | 14, some n => if 0x1000 ≤ x ∧ x < 0x1040 then d.dbgWrite n ((x - 0x1000) / 8) w lo hi else d
  | _, _ => d

/-- Function code of Table 16.12 and the view's partition. -/
def viewOf : View → Nat × Option Nat
  | .fn f => (f.val, if f.val = 0 then none else some (f.val - 1))
  | .space p => (63, p.map (·.val))

/-- Register-space offset of an offset of a view (R334): an unprivileged view is 1 MiB of blocks of 64 KiB. -/
def spaceOff (v : Option Nat) (off : Nat) : Nat :=
  match v with
  | none => off
  | some _ => off / 0x10000 * 0x100000 + off % 0x10000

/-- An access that R13 allows: 4 or 8 bytes, naturally aligned. -/
def alignedReg (off len : Nat) : Bool := (len == 4 || len == 8) && off % len == 0

/-- Whether a view holds the offset of an allowed access. -/
def Dev.holds (d : Dev) (v : Option Nat) (off : Nat) : Bool :=
  match v with
  | none => true
  | some _ => decide (off < 0x100000) && (d.regRead v (spaceOff v off / 8 * 8)).isSome

/-- A read of len bytes at an offset of a view. -/
def Dev.viewRead (d : Dev) (func : Nat) (v : Option Nat) (off len : Nat) : Dev × List Byte :=
  if !alignedReg off len || !d.holds v off then (d.accessError func off false len, List.replicate len 0)
  else
    let w := (d.regRead v (spaceOff v off / 8 * 8)).getD 0
    (d, bytesOf len (w.toNat / 2 ^ (8 * (off % 8))))

/-- A write of bytes at an offset of a view: a 32-bit access reaches only its half. -/
def Dev.viewWrite (d : Dev) (func : Nat) (v : Option Nat) (off : Nat) (bs : List Byte) : Dev :=
  let len := bs.length
  if !alignedReg off len || !d.holds v off then d.accessError func off true len
  else
    let o := spaceOff v off / 8 * 8
    let n := leNat bs
    if len = 8 then d.regPut v o (BitVec.ofNat 64 n) true true
    else
      let old := clearBits ((d.regRead v o).getD 0).toNat (actBits o)
      let hi := decide (off % 8 = 4)
      let w := if hi then old % 2 ^ 32 + n * 2 ^ 32 else old / 2 ^ 32 * 2 ^ 32 + n
      d.regPut v o (BitVec.ofNat 64 w) (!hi) hi

/-- REGISTER_WRITE: at an offset of a view, a whole register or one of its halves. -/
def Dev.regWrite (d : Dev) (view : View) (off : Nat) (half : Option Bool) (w : Word) : Dev :=
  if !d.answers then d
  else
    let x := viewOf view
    match half with
    | none => d.viewWrite x.1 x.2 off (bytesOf 8 w.toNat)
    | some false => d.viewWrite x.1 x.2 off (bytesOf 4 w.toNat)
    | some true => d.viewWrite x.1 x.2 (off + 4) (bytesOf 4 (w.toNat / 2 ^ 32))

/-- REGISTER_ACCESS_ERROR: an access that breaks R13, or one at an offset that an unprivileged view does not hold (R335). -/
def Dev.regError (d : Dev) (view : View) (off : Nat) (write : Bool) (len : Nat) : Dev :=
  let x := viewOf view
  if d.answers && (!alignedReg off len || !d.holds x.2 off) then d.accessError x.1 off write len else d

/-! ### Memory and register space together -/

/-- Reads local pieces in order, register space included: a piece is one access of its length. -/
def Dev.fetch (q : Req) : List (Acc × Nat) → Dev → Dev × List Byte
  | [], d => (d, [])
  | (a, n) :: rest, d =>
    let r := match a with
      | .loc p => match place p with
        | .unpriv m o => d.viewRead 63 (some m) o n
        | _ => d.read q p n
      | .host b => d.hostRead q b n
      | _ => (d, List.replicate n 0)
    let s := Dev.fetch q rest r.1
    (s.1, r.2 ++ s.2)

/-- Writes bytes over pieces in order, register space included. -/
def Dev.store (q : Req) : List (Acc × Nat) → List Byte → Dev → Dev
  | [], _, d => d
  | (a, n) :: rest, bs, d =>
    let d := match a with
      | .loc p => match place p with
        | .unpriv m o => d.viewWrite 63 (some m) o (bs.take n)
        | _ => d.write q p (bs.take n)
      | .host b => d.hostWrite q b (bs.take n)
      | _ => d
    Dev.store q rest (bs.drop n) d

end Sys2Proof.Machine
end

