-- ==== Sys2Proof/Machine/Transfers.lean ====
section
/-! DEFINITION. Machine/Transfers.lean: rows of MOVE and COPY, credited writes, FILL, PREFETCH, ADVISE, RESUME and host accesses through BAR2 (R198 to R203, R247 to R260, R337, R345). -/

namespace Sys2Proof.Machine

open Sys2Proof

/-! ### Rows (R247, R248) -/

/-- Index of dimension k of row r. -/
def Cmd.dimIdx (c : Cmd) (r k : Nat) : Nat :=
  match k with
  | 1 => r % c.cnt 1
  | 2 => r / c.cnt 1 % c.cnt 2
  | 3 => r / (c.cnt 1 * c.cnt 2) % c.cnt 3
  | _ => r / (c.cnt 1 * c.cnt 2 * c.cnt 3)

/-- Signed strides of dimension k: of the source, then of the destination. -/
def Cmd.stride (c : Cmd) (dst : Bool) (k : Nat) : Int := sx 48 (bfld c.desc (0x40 + 16 * (k - 1) + (if dst then 10 else 4)) 47 0)

/-- Source or destination address of row r, modulo 2^64. -/
def Cmd.rowVa (c : Cmd) (dst : Bool) (r : Nat) : Nat :=
  let base : Int := (c.f (if dst then 0x28 else 0x20) 63 0 : Nat)
  ((base + ([1, 2, 3, 4].map fun k => (c.dimIdx r k : Int) * c.stride dst k).sum) % (2 ^ 64 : Nat)).toNat

/-- Runs of virtual addresses that row r reads, in order. -/
def Cmd.rowRuns (c : Cmd) (r : Nat) : List (Nat × Nat) :=
  let a := c.rowVa false r
  let w := c.swBits
  match c.smode with
  | 0 => [(a, c.rowLen)]
  | 1 => (List.range (8 * c.rowLen / w)).map fun (e : Nat) =>
      ((((a : Int) + (e : Int) * sx 32 (c.f 0x30 31 0) * (w / 8 : Nat)) % (2 ^ 64 : Nat)).toNat, w / 8)
  | _ => (List.range 8).map fun i => ((a + i * c.f 0x30 31 0) % 2 ^ 64, w)

/-- R194: the block's rows as read, transposed. -/
def transpose (w : Nat) (bs : List Byte) : List Byte :=
  let n := leNat bs
  bytesOf (8 * w) ((List.range 64).foldl (fun a i => a + fld n (i / 8 * 8 * w + i % 8 * w + w - 1) (i / 8 * 8 * w + i % 8 * w) * 2 ^ ((8 * (i % 8) + i / 8) * w)) 0)

/-- The tile store that an access reaches. -/
def accStore : Acc → Option (Nat × Nat × Nat)
  | .loc a => match place a with | .store b t _ => some (0x10000, b, t) | _ => none
  | .remote p a => match place a with | .store b t _ => some (p, b, t) | _ => none
  | _ => none

/-- R248, R194: a gathered row lies in one tile store, and a block keeps its alignment. -/
def Cmd.gatherOk (c : Cmd) (r : Nat) (src : List (Acc × Nat)) : Bool :=
  let w := c.swBits
  let one := match src with | (a, _) :: rest => (accStore a).isSome && rest.all fun p => accStore p.1 = accStore a | [] => false
  match c.smode with
  | 0 => true
  | 1 => one
  | _ => one && c.rowVa false r % w == 0 && c.f 0x30 31 0 % w == 0 && decide (w ≤ c.f 0x30 31 0)

/-- R345: which side of a COPY reaches the host window. -/
def copyOk (op : Nat) (isDst : Bool) (l : List (Acc × Nat)) : Bool :=
  let host (p : Acc × Nat) : Bool := match p.1 with | .host _ => true | _ => false
  if op = 3 then (if isDst then l.all fun p => !host p else l.all host)
  else if op = 4 then (if isDst then l.all host else l.all fun p => !host p)
  else true

/-- The requester port that carries a transfer: the transfer engines, or the first copy engine of the direction. -/
def Dev.xferPort (d : Dev) (c : Cmd) : Nat :=
  if c.op = 3 ∨ c.op = 4 then portCopy ((d.copyEngines c.part (c.op == 4)).headD 0) else portXfer

def Dev.xferReq (d : Dev) (c : Cmd) : Req := ⟨d.xferPort c, c.part, c.acct⟩

/-! ### R250: bytes that one row writes and the same or a later row reads -/

/-- Key of an access for the marks: local memory, then the host bus. -/
def accKey : Acc → Option Nat
  | .loc a => some a
  | .host b => some (2 ^ 64 + b)
  | _ => none

/-- Overlap of two runs. -/
def runCap (a n b m : Nat) : Option (Nat × Nat) :=
  let lo := max a b
  let hi := min (a + n) (b + m)
  if lo < hi then some (lo, hi - lo) else none

/-- Runs of `l` that meet a mark of the other kind of a row that p selects. -/
def MoveRun.clash (m : MoveRun) (wr : Bool) (p : Nat → Bool) (l : List (Acc × Nat)) : List (Nat × Nat) :=
  l.flatMap fun x =>
    match accKey x.1 with
    | none => []
    | some k => m.marks.filterMap fun e => if e.1 = wr ∧ p e.2.1 then runCap k x.2 e.2.2.1 e.2.2.2 else none

/-- Overlapping bytes get undefined contents. -/
def Dev.undefine (d : Dev) (q : Req) (l : List (Nat × Nat)) : Dev :=
  l.foldl (fun (d : Dev) x =>
    let bs := freeBytes d.fi x.2
    let d := { d with fi := d.fi + x.2 }
    let a : Acc := if x.1 < 2 ^ 64 then .loc x.1 else .host (x.1 - 2 ^ 64)
    Dev.store q [(a, x.2)] bs d) d

def markRuns (wr : Bool) (row : Nat) (l : List (Acc × Nat)) : List (Bool × Nat × Nat × Nat) :=
  l.filterMap fun x => (accKey x.1).map fun k => (wr, row, k, x.2)

def Dev.setMove (d : Dev) (r : CmdRef) (f : MoveRun → MoveRun) : Dev := d.setCmd r fun c => { c with move := f c.move }

/-! ### The end of a MOVE (R249, R252) -/

/-- A transfer's rows are under way: a MOVE or COPY runs, a DUMP has fired, a SNAPSHOT copies. -/
def Cmd.moving (c : Cmd) : Bool :=
  (c.isMove && decide (c.phase = .running)) || (c.op == 0x20 && decide (c.phase = .fired)) || (c.op == 0x31 && decide (c.phase = .copying))

/-- Every row that started has been delivered and counted: the command completes if it has nothing more to do. A SNAPSHOT is completed by its own event; a DUMP raises the dump ready event (R466). -/
def Dev.settleMove (d : Dev) (r : CmdRef) : Dev :=
  match d.cmd r with
  | none => d
  | some c =>
    let m := c.move
    if !c.moving ∨ c.op = 0x31 ∨ m.parked.isSome ∨ m.delivered ≠ m.next ∨ d.awaits (fun w => w = .sync r) then d
    else match m.stop with
      | some st => d.complete r st
      | none =>
        if m.next ≠ c.rows then d
        else (if c.op = 0x20 then d.raiseEvt c.part 2 else d).complete r (if c.restruck ≠ 0 then stOkRestruck else stOk)

/-- No row at or after f is delivered; the command will end with a status. -/
def Dev.rowStop (d : Dev) (r : CmdRef) (f st : Nat) : Dev :=
  (d.setMove r fun m => { m with next := f, bufs := m.bufs.filter fun b => b.row < f, wrote := m.wrote.filter fun e => e.1 < f, stop := some st }).settleMove r

/-- R252, R253: row f has met a fault of a kind at an address. A detected error in a table is R215's. -/
def Dev.rowFault (d : Dev) (c : Cmd) (f va : Nat) (side : Bool) (kind : Nat) : Dev :=
  if kind = 4 then d.xferError c.ref va
  else if kind = 1 ∧ c.resumable then
    let g := c.move.fgen + 1
    let d := d.setMove c.ref fun m => { m with fgen := g, parked := some (d.now + 1000000 * max 1 (d.part c.part).x.parkms) }
    ((d.ring 2 0 0x0A (some c) (BitVec.ofNat 64 f)).count c.acct 43 1).xferFault c va true side kind f g
  else (d.xferFault c va false side kind f c.move.fgen).rowStop c.ref f (kindStatus kind)

/-! ### Writing a row -/

/-- A row's bytes are all written: it waits for its turn to be delivered. The run of a DUMP or SNAPSHOT is done at once. -/
def Dev.rowWrote (d : Dev) (r : CmdRef) (row : Nat) : Dev :=
  let mv : Bool := match d.cmd r with | some c => c.isMove | none => true
  let d := d.setMove r fun m =>
    match m.bufs.find? fun b => b.row = row with
    | some b =>
      let m := { m with bufs := m.bufs.filter (fun b => b.row ≠ row) }
      if mv then { m with wrote := m.wrote ++ [(row, b.ctr)] } else { m with delivered := row + 1 }
    | none => m
  if mv then d else d.settleMove r

/-- WRITE packets of a run of bytes to another package; none where no route leads there. -/
def Dev.sendWrites (d : Dev) (n port pkg addr : Nat) (bs : List Byte) (who : Waiter) (acct : Acct) : Option Dev :=
  (runs256 bs.length).foldl (fun (o : Option Dev) x =>
    o.bind fun d => d.request n port pkg kWrite (addr + x.1) 0 ((bs.drop x.1).take x.2) who acct) (some d)

/-- Remote pieces of a row's write; none where no route leads there. -/
def Dev.sendRow (d : Dev) (c : Cmd) (row : Nat) (dst : List (Acc × Nat)) (bs : List Byte) : Option Dev :=
  (dst.foldl (fun (o : Option (Dev × List Byte)) p =>
    o.bind fun e =>
      match p.1 with
      | .remote pkg a => (e.1.sendWrites c.part (e.1.xferPort c) pkg a (e.2.take p.2) (.rowWrite c.ref row) c.acct).map fun d => (d, e.2.drop p.2)
      | _ => some (e.1, e.2.drop p.2)) (some (d, bs))).map (·.1)

/-- Step 3 of R249 for a row whose bytes have all been read. -/
def Dev.rowWrite (d : Dev) (r : CmdRef) (row : Nat) : Dev :=
  match d.cmd r with
  | none => d
  | some c =>
    match c.move.bufs.find? fun b => b.row = row with
    | none => d
    | some b =>
      let bs := if c.smode = 2 then transpose c.swBits b.data else b.data
      let upd (f : RowBuf → RowBuf) (d : Dev) : Dev := d.setMove r fun m => { m with bufs := updFirst (fun b => b.row = row) f m.bufs }
      if c.dkind then upd (fun b => { b with read := true, data := bs }) d
      else if touchesCredit b.dst then d.rowFault c row b.dva true 3
      else match d.refusedBy b.dst with
        | some k => (d.badWr k).rowFault c row b.dva true 3
        | none =>
          match d.sendRow c row b.dst bs with
          | none => d.rowStop r row stLinkLost
          | some d =>
            let need := (d.fab.waits.filter fun a => a.who = .rowWrite r row).length
            let edge := d.badEdges b.dst
            let d := Dev.store (d.xferReq c) b.dst bs d
            let d := d.undefine (d.xferReq c) (c.move.clash false (fun x => decide (row ≤ x)) b.dst)
            let d := d.setMove r fun m => { m with marks := m.marks ++ markRuns true row b.dst }
            let d := if c.op = 2 ∨ c.op = 0x20 then d.count c.acct 41 (units64 bs.length) else d
            match edge with
            | some x => d.xferError r x
            | none => if need = 0 then d.rowWrote r row else upd (fun b => { b with need := need, read := true }) d

/-! ### Reading a row -/

/-- READ packets for the remote pieces of a row, by offset in the row; none where no route leads there. -/
def Dev.sendReads (d : Dev) (c : Cmd) (row : Nat) (src : List (Acc × Nat)) : Option Dev :=
  (src.foldl (fun (o : Option (Dev × Nat)) p =>
    o.bind fun e =>
      match p.1 with
      | .remote pkg a =>
        ((runs256 p.2).foldl (fun (o : Option Dev) x =>
          o.bind fun d => d.request c.part (d.xferPort c) pkg kRead (a + x.1) (BitVec.ofNat 64 x.2) [] (.rowRead c.ref row (e.2 + x.1) x.2) c.acct)
          (some e.1)).map fun d => (d, e.2 + p.2)
      | _ => some (e.1, e.2 + p.2)) (some (d, 0))).map (·.1)

/-- Destination accesses of a row: its pages, or the receiver of a credit window. -/
def Dev.rowDst (d : Dev) (c : Cmd) (va len : Nat) : Dev × Except (Nat × Nat) (List (Acc × Nat)) :=
  if !c.dkind then Dev.accRange c.part true c.acct (pieces va len) d
  else
    let va := c.f 0x28 63 0
    let r := Dev.accRange c.part true c.acct [(va, 1)] d
    match r.2 with
    | .ok [(a, _)] =>
      let ok := match a with
        | .loc x | .remote _ x => (match place x with | .store .. | .yard _ => true | _ => false)
        | _ => false
      (r.1, if ok then .ok [(a, 1)] else .error (va, 3))
    | x => (r.1, x)

/-- An access for an AMO: read and write allowed, in memory. -/
def Dev.accAmo (d : Dev) (n va : Nat) (acct : Acct) : Dev × Acc :=
  let r := d.accE n va 8 false acct
  match r.2 with
  | .bad _ | .wait => r
  | _ =>
    let s := r.1.accE n va 8 true acct
    match s.2 with
    | .loc a => (match place a with | .unpriv .. => (s.1, .bad 3) | _ => if touchesCredit [(s.2, 8)] then (s.1, .bad 3) else s)
    | _ => s

/-- The row counter of a row, if it has one. -/
def Dev.rowCtr (d : Dev) (c : Cmd) : Dev × Option Acc :=
  if !c.rowCount then (d, none)
  else
    let r := d.accAmo c.part (c.f 0x38 63 0) c.acct
    (r.1, some r.2)

/-- Steps 1 and 2 of R249 for the next row, which reads `runs` from sva on and writes len bytes at dva. -/
def Dev.startRowAt (d : Dev) (c : Cmd) (runs : List (Nat × Nat)) (sva dva len : Nat) : Dev :=
  let row := c.move.next
  let s := Dev.accRange c.part false c.acct (runs.flatMap fun x => pieces x.1 x.2) d
  match s.2 with
  | .error (_, 0) => s.1
  | .error (va, k) => s.1.rowFault c row va false k
  | .ok src =>
    if !copyOk c.op false src then s.1.rowFault c row sva false 3
    else if !c.gatherOk row src then s.1.rowStop c.ref row stUnitAbsent
    else
      let t := s.1.rowDst c dva len
      match t.2 with
      | .error (_, 0) => t.1
      | .error (va, k) => t.1.rowFault c row va true k
      | .ok dst =>
        if !copyOk c.op true dst then t.1.rowFault c row dva true 3
        else
          let u := t.1.rowCtr c
          match u.2 with
          | some .wait => u.1
          | some (.bad k) => u.1.rowFault c row (c.f 0x38 63 0) true k
          | ctr =>
            match u.1.badIn src with
            | some a => u.1.xferError c.ref a
            | none =>
              let q := u.1.xferReq c
              let d := u.1.undefine q (c.move.clash true (fun x => decide (x ≤ row)) src)
              match d.sendReads c row src with
              | none => d.rowStop c.ref row stLinkLost
              | some d =>
                let r := Dev.fetch q src d
                let need := (d.fab.waits.filter fun a => match a.who with | .rowRead x y _ _ => x = c.ref && y == row | _ => false).length
                let b : RowBuf := { row := row, dva := dva, dst := dst, need := need, data := r.2, ctr := ctr, read := false, asked := false }
                let d := r.1.setMove c.ref fun m => { m with next := row + 1, bufs := m.bufs ++ [b], marks := m.marks ++ markRuns false row src }
                if need = 0 then d.rowWrite c.ref row else d

/-- The next row of a MOVE or COPY. -/
def Dev.startRow (d : Dev) (c : Cmd) : Dev :=
  let row := c.move.next
  d.startRowAt c (c.rowRuns row) (c.rowVa false row) (c.rowVa true row) c.rowLen

/-- MOVE, COPY_IN and COPY_OUT: the command starts, and each further event starts its next row. -/
def Dev.moveGo (d : Dev) (r : CmdRef) (op : Nat) : Dev :=
  let go (d : Dev) : Dev :=
    match d.running_ r op with
    | none => d
    | some c =>
      if c.move.stop.isSome ∨ c.move.parked.isSome ∨ c.rows ≤ c.move.next ∨ c.marked ∨ d.snapHeld c then d else d.startRow c
  match d.cmd r with
  | some c => if c.phase = .waiting then d.start_ r op fun c d => go (d.ring 2 0 0x02 (some c) 0) else go d
  | none => d

/-! ### Delivery -/

/-- ROW_DELIVERED: the lowest row that is written and not delivered, with its count. -/
def Dev.rowDelivered (d : Dev) (r : CmdRef) : Dev :=
  match d.cmd r with
  | none => d
  | some c =>
    if c.phase ≠ .running ∨ !d.live then d
    else match c.move.wrote.find? fun e => e.1 = c.move.delivered with
      | none => d
      | some (row, ctr) =>
        let done (d : Dev) : Dev :=
          ((d.setMove r fun m => { m with delivered := row + 1, wrote := m.wrote.filter fun e => e.1 ≠ row }).count c.acct 40 1).settleMove r
        match ctr with
        | none => done d
        | some (.remote pkg a) =>
          match d.request c.part (d.xferPort c) pkg kAmo a 1 (amoData 1 3 0) (.sync r) c.acct with
          | some d => done d
          | none => d.rowStop r row stLinkLost
        | some a =>
          if (d.badIn [(a, 8)]).isSome then d.xferError r ((d.badIn [(a, 8)]).getD 0)
          else match d.refusedBy [(a, 8)] with
            | some k => (d.badWr k).rowFault c row (c.f 0x38 63 0) true 3
            | none => done (d.farAmo (d.xferReq c) a 8 (fun v => some ((v + 1) % 2 ^ 64)) none).1

/-- PARK_TIMEOUT (R253). -/
def Dev.parkTimeout (d : Dev) (r : CmdRef) : Dev :=
  match d.cmd r with
  | none => d
  | some c =>
    match c.move.parked with
    | some t => if d.live ∧ t ≤ d.now then (d.setMove r fun m => { m with parked := none, stop := some stTranslation }).settleMove r else d
    | none => d

/-! ### RESUME (R254) -/

/-- RESUME (0x0A): the parked MOVE that matches goes on, or ends. -/
def Dev.resumeCmd (d : Dev) (r : CmdRef) : Dev :=
  d.start_ r 0x0A fun c d =>
    let pf := c.f 0x20 6 6 = 1
    let hit (x : Cmd) : Bool :=
      x.move.parked.isSome && x.open_ && x.part == c.part && x.viaPf == decide pf && x.ref.q.val == c.f 0x20 5 0 &&
        x.ref.slot.toNat == c.f 0x20 31 16 && x.move.fgen == c.f 0x20 47 32
    if pf ∧ !c.viaPf then d.complete r stPermission
    else match d.cmds.find? hit with
      | none => d.complete r stUnitAbsent
      | some x =>
        let d := d.setMove x.ref fun m => { m with parked := none, stop := if c.f 0x20 48 48 = 1 then some stTranslation else m.stop }
        (d.settleMove x.ref).complete r stOk

/-! ### Credited writes (R198 to R203) -/

/-- Ingress receivers: brick hub b, or 64 + bank of the Yard (R196, R198). Sender of a credited write: a requester port, or 1,000 + package. -/
def Dev.sender (d : Dev) : Who → Nat
  | .cmd c _ => (match d.cmd c with | some c => d.xferPort c | none => portXfer)
  | .remote p _ => 1000 + p.toNat

/-- Receivers of each block of a granted row. -/
def rowReceivers (k : Nat) (w : Win) (q : CReq) : List Nat :=
  (List.range (granules q.bytes)).map fun i =>
    if k < 2 ^ 20 then k / 8 / 128
    else 64 + fld ((k - 2 ^ 20) / 8 * 2 ^ 24 + w.byteAt q.start (256 * i)) 17 12

/-- Ingress credits that a granted row holds as it leaves: one for each block, at most 16 of a receiver at a time. -/
def rowNeeds (k : Nat) (w : Win) (q : CReq) : List (Nat × Nat) :=
  let rs := rowReceivers k w q
  rs.eraseDups.map fun x => (x, min 16 (rs.filter (· == x)).length)

/-- Credits that the granted rows of a sender need of a receiver. -/
def Dev.ingrDemand (d : Dev) (rcv snd : Nat) : Nat :=
  (d.wins.map fun e => ((e.2.granted.filter fun q => !q.written && d.sender q.who == snd).map fun q =>
    ((rowNeeds e.1 e.2 q).filter fun x => x.1 == rcv).map (·.2)).flatten).flatten.foldl max 0

/-- INGRESS_CREDIT_GRANT: within the receiver's pool, the sender's 16, and what its rows need. -/
def Dev.ingrGrant (d : Dev) (rcv snd blocks : Nat) : Dev :=
  let k := rcv * 65536 + snd
  let held := SMap.get 0 d.ingr k
  let out := ((d.ingr.filter fun e => e.1 / 65536 = rcv).map (·.2)).sum
  let pool := if rcv < 64 then 256 else 64
  if d.live ∧ snd < 65536 ∧ held + blocks ≤ min 16 (d.ingrDemand rcv snd) ∧ out + blocks ≤ pool then
    { d with ingr := SMap.put 0 d.ingr k (held + blocks) }
  else d

/-- CREDITED_WRITE_REQUEST: the command's lowest row that has been read asks its window. -/
def Dev.creditReq (d : Dev) (r : CmdRef) : Dev :=
  match d.cmd r with
  | none => d
  | some c =>
    match c.move.bufs.find? fun b => !b.asked with
    | none => d
    | some b =>
      if !d.live ∨ c.phase ≠ .running ∨ !b.read ∨ !c.dkind then d
      else
        let d1 := d.setMove r fun m => { m with bufs := updFirst (fun x => x.row = b.row) (fun x => { x with asked := true }) m.bufs }
        let ask (k : Nat) : Dev :=
          let q := (d.win k).request ⟨.cmd r b.row, c.rowLen, b.data, 0, false⟩
          if q.2 then d1.putWin k q.1 else d.rowStop r b.row stPermission
        match b.dst with
        | (.loc a, _) :: _ =>
          (match place a with
          | .store bk t _ => ask (tileWin (tKey bk t) (c.f 0x30 45 43))
          | .yard o => ask (yardWin (o / 2 ^ 24) (c.f 0x30 45 43))
          | _ => d.rowStop r b.row stPermission)
        | (.remote pkg a, _) :: _ =>
          (match d1.request c.part (d.xferPort c) pkg kCredreq a (pack [(c.f 0x30 45 43, 0), (c.rowLen, 32)]) [] (.credit r b.row) c.acct with
          | some d => d
          | none => d.rowStop r b.row stLinkLost)
        | _ => d.rowStop r b.row stPermission

/-- CREDIT_GRANT: the oldest request of a window. Granules of a streaming bank wait while they are held (R70). -/
def Dev.creditGrant (d : Dev) (k : Nat) : Dev :=
  let w := d.win k
  let held (tp g : Nat) : Bool :=
    decide (k < 2 ^ 20) && decide (k % 8 < 4) &&
      (List.range g).any fun i => (d.tile (k / 8)).heldAt (2 ^ (k % 8)) true (256 * ((tp + i) % 96)) 256
  let w' := w.grant held
  if !d.live ∨ w'.granted.length = w.granted.length then d
  else match w.queue.head? with
    | none => d
    | some q =>
      let d := (d.putWin k w').winRing k 0x08 (granules q.bytes)
      match q.who with
      | .cmd .. => d
      | .remote p t => d.post p.toNat kCredgnt 1 0 t 0 0 []

/-- Local address of byte i of a granted row, for its power domain. -/
def winAddr (k : Nat) : Nat :=
  if k < 2 ^ 20 then 0x90000000000 + k / 8 / 128 * 2 ^ 32 + k / 8 % 128 * 2 ^ 20 else 0x80000000000 + (k - 2 ^ 20) / 8 * 2 ^ 24

/-- A word with bad parity that the last bytes of a granted row fill in part (R213). -/
def Dev.landEdge (d : Dev) (k : Nat) (w : Win) (q : CReq) : Option Nat :=
  let o := w.byteAt q.start (q.bytes - 1)
  if q.bytes % 4 = 0 then none
  else if k < 2 ^ 20 ∧ k % 8 < 4 then
    (if (d.tile (k / 8)).bad.contains ((arrStrm (k % 8)).base + o % 24576 / 4) then some (winAddr k) else none)
  else d.bad (winAddr k + o) 1

/-- The bytes of a granted row go to its granules, with fresh parity. -/
def Dev.landBytes (d : Dev) (k : Nat) (w : Win) (q : CReq) : Dev :=
  (List.range q.bytes).foldl (fun (d : Dev) i =>
    let o := w.byteAt q.start i
    let v := nthD 0 q.data i
    if k < 2 ^ 20 then
      (if k % 8 < 4 then d.setTile (k / 8) fun t =>
          { t.setCourse (k % 8) fun c => { c with strm := SMap.put 0 c.strm (o % 24576) v } with
            bad := t.bad.filter fun x => x != (arrStrm (k % 8)).base + o % 24576 / 4 }
       else d.setTile (k / 8) fun t => t.put o [v])
    else
      let y := (k - 2 ^ 20) / 8 * 2 ^ 24 + o
      { d with mem := { d.mem with yard := SMap.put 0 d.mem.yard y v, yardBad := SMap.put 0 d.mem.yardBad (y / 4) 0 } }) d

/-- ROW_LANDS: the first granted row, once its bytes are here and its sender holds its ingress credits; the credits go back. -/
def Dev.rowLands (d : Dev) (k : Nat) : Dev :=
  let w := d.win k
  match w.granted with
  | [] => d
  | q :: _ =>
    let needs := rowNeeds k w q
    let snd := d.sender q.who
    let has := needs.all fun x => decide (x.2 ≤ SMap.get 0 d.ingr (x.1 * 65536 + snd))
    if !d.live ∨ (!q.written ∧ (q.data.length < q.bytes ∨ !has)) then d
    else if !d.lit (winAddr k) then d.wantWake (winAddr k)
    else
      let edge := if q.written then none else d.landEdge k w q
      let d := if q.written then d else d.landBytes k w q
      let acct : Acct :=
        match q.who with
        | .cmd c _ => (match d.cmd c with | some c => c.acct | none => ⟨none, none⟩)
        | .remote .. => ⟨none, if k < 2 ^ 20 then none else some (d.st.yown ((k - 2 ^ 20) / 8))⟩
      let d := if k < 2 ^ 20 then d else d.count acct 36 (units64 q.bytes)
      let d := { d with ingr := needs.foldl (fun m (x : Nat × Nat) => SMap.upd 0 m (x.1 * 65536 + snd) fun h => h - x.2) d.ingr }
      let l := (d.win k).land
      let d := l.2.foldl Dev.failReq (d.putWin k l.1)
      match q.who with
      | .cmd c row =>
        let d := (match d.cmd c with | some x => if x.op = 2 ∧ x.open_ then d.count x.acct 41 (units64 q.bytes) else d | none => d)
        match edge with
        | some x => d.xferError c x
        | none => d.rowWrote c row
      | .remote p t => d.post p.toNat kResp 1 0 t 0 (if edge.isSome then BitVec.ofNat 64 stDetected else 0) []

/-! ### Responses from other packages (R368, R369) -/

/-- A row's remote request was refused or met an error. -/
def Dev.rowRefused (d : Dev) (r : CmdRef) (row st : Nat) : Dev :=
  if st = stDetected then d.xferError r 0
  else (d.forget fun w => match w with
    | .rowRead x y _ _ | .rowWrite x y | .credit x y => x = r && decide (row ≤ y)
    | _ => false).rowStop r row st

/-- Bytes of a row have arrived at an offset. -/
def Dev.rowBytes (d : Dev) (r : CmdRef) (row off : Nat) (bs : List Byte) : Dev :=
  let d := d.setMove r fun m =>
    { m with bufs := updFirst (fun b => b.row = row) (fun b => { b with need := b.need - 1, data := patch b.data off bs }) m.bufs }
  match d.cmd r with
  | some c => if c.move.bufs.any fun b => b.row = row ∧ b.need = 0 then d.rowWrite r row else d
  | none => d

/-- One WRITE of a row has been answered. -/
def Dev.rowAnswered (d : Dev) (r : CmdRef) (row : Nat) : Dev :=
  let d := d.setMove r fun m => { m with bufs := updFirst (fun b => b.row = row) (fun b => { b with need := b.need - 1 }) m.bufs }
  match d.cmd r with
  | some c => if c.move.bufs.any fun b => b.row = row ∧ b.need = 0 then d.rowWrote r row else d
  | none => d

/-- A window has granted a remote credited row: its data go out under the request's tag, marked in OPINFO bit 63 (log 30), and its landing is awaited. -/
def Dev.rowGranted (d : Dev) (r : CmdRef) (row pkg : Nat) (tid : BitVec 16) : Dev :=
  match d.cmd r with
  | none => d
  | some c =>
    match c.move.bufs.find? fun b => b.row = row with
    | none => d
    | some b =>
      let d := (runs256 b.data.length).foldl (fun (d : Dev) x =>
        (d.sendPkt { dst := BitVec.ofNat 16 pkg, src := 0, jobtag := BitVec.ofNat 16 (d.st.jobtag c.part), kind := BitVec.ofNat 6 kWrite, vc := 0
                     stream := BitVec.ofNat 16 (d.xferPort c), sseq := 0, tid := tid, addr := BitVec.ofNat 48 x.1, opinfo := 0x8000000000000000
                     data := (b.data.drop x.1).take x.2 }).getD d) d
      let d := d.setMove r fun m => { m with bufs := updFirst (fun b => b.row = row) (fun b => { b with need := 1 }) m.bufs }
      { d with fab := { d.fab with waits := d.fab.waits ++ [Await.mk tid.toNat pkg (.rowWrite r row)] } }

/-! ### FILL (R255) -/

/-- Bytes of the pattern from virtual address va on. -/
def fillBytes (pat va n : Nat) : List Byte := (List.range n).map fun i => BitVec.ofNat 8 (pat / 2 ^ (8 * ((va + i) % 8)))

/-- The pages of a FILL in ascending order, up to the first fault. -/
def Dev.fillGo (c : Cmd) : List (Nat × Nat) → Dev → Dev × Option Nat
  | [], d => (d, none)
  | (va, n) :: rest, d =>
    let r := d.accE c.part va n true c.acct
    let bs := fillBytes (c.f 0x30 63 0) va n
    let no (k : Nat) (d : Dev) : Dev × Option Nat := (d.xferFault c va false true k 0 0, some (kindStatus k))
    match r.2 with
    | .bad 4 => (r.1, some stDetected)
    | .bad k => no k r.1
    | .wait => (r.1, some 0)
    | .remote pkg a =>
      (match r.1.sendWrites c.part portXfer pkg a bs (.sync c.ref) c.acct with
      | some d => Dev.fillGo c rest d
      | none => (r.1, some stLinkLost))
    | a =>
      if touchesCredit [(a, n)] then no 3 r.1
      else match r.1.refusedBy [(a, n)] with
        | some k => no 3 (r.1.badWr k)
        | none => Dev.fillGo c rest (Dev.store ⟨portXfer, c.part, c.acct⟩ [(a, n)] bs r.1)

/-- FILL completes once its remote writes have been answered. -/
def Dev.settleFill (d : Dev) (r : CmdRef) : Dev :=
  match d.running_ r 0x05 with
  | some c => if d.awaits fun w => w = .sync r then d else d.complete r (if c.restruck ≠ 0 then stOkRestruck else stOk)
  | none => d

/-- FILL; a page whose domain is not LIT makes the whole of it wait (R292). LEN 0 is 2^40 bytes. -/
def Dev.fill (d : Dev) (r : CmdRef) : Dev :=
  match d.cmd r with
  | none => d
  | some c =>
    let len := if c.f 0x28 39 0 = 0 then 2 ^ 40 else c.f 0x28 39 0
    let x := Dev.accRange c.part true c.acct (pieces (c.f 0x20 63 0) len) d
    match x.2 with
    | .error (_, 0) => if c.op = 5 ∧ d.canStart c ∧ !c.marked then x.1 else d
    | _ =>
      if d.snapHeld c then d
      else d.start_ r 0x05 fun c d =>
        let g := Dev.fillGo c (pieces (c.f 0x20 63 0) len) d
        match g.2 with
        | some st => if st = stDetected then g.1.xferError r 0 else (g.1.forget fun w => w = .sync r).complete r st
        | none => g.1.settleFill r

/-! ### Page moves (R256 to R259) -/

/-- The engine leaf of a page of partition n: its address in the tables and its value; the walk's end otherwise. -/
def leafAddr (q : Req) (lo : Nat) (tok : Nat → Bool) (va : Nat) (d : Dev) : List Nat → Nat → Except Nat (Nat × Word × Nat)
  | [], _ => .error 2
  | lv :: rest, tbl =>
    if !tok tbl then .error 2
    else
      let a := tbl + 8 * tblIdx lv va
      if (d.bad a 8).isSome then .error 4
      else
        let e := BitVec.ofNat 64 (leNat (d.read q a 8).2)
        match entryStep lv lo va e with
        | .error (.ok _ _) => .ok (a, e, lv)
        | .error (.bad k) => .error k
        | .ok nx => leafAddr q lo tok va d rest nx

def Dev.leaf (d : Dev) (n va : Nat) : Except Nat (Nat × Word × Nat) :=
  if !(d.part n).x.en || !canonical va then .error 1
  else leafAddr ⟨portXfer, 32, ⟨none, none⟩⟩ 1 (fun t => d.inCarve t 4096) va d [4, 3, 2, 1] ((d.part n).x.root.toNat * 4096 % 2 ^ 48)

/-- A frame for partition n: a tier frame or a host-window frame, 2 MiB aligned, within grant, out of every pool. -/
def Dev.frameAcc (d : Dev) (n pa : Nat) (pool : Bool) : Option Acc :=
  let a := pa % 2 ^ 48
  if pa % 2 ^ 21 ≠ 0 ∨ !d.here (pa / 2 ^ 48) ∨ !d.grant n a (2 ^ 21) ∨ (d.inPool none a != pool) then none
  else match place a with
    | .ftier _ | .dtier _ => some (.loc a)
    | .host o => if pool then none else some (.host (d.busAddr n o))
    | _ => none

/-- A row of partition n is still on its way to bytes of a frame (R259 step 1). -/
def Dev.frameBusy (d : Dev) (n a : Nat) : Bool :=
  d.cmds.any fun c => decide (c.part = n) && c.move.bufs.any fun b => b.dst.any fun p =>
    match p.1 with | .loc x => decide (a / 2 ^ 21 = x / 2 ^ 21) | _ => false

/-- R259: freeze, recall and write back the old frame, copy, rewrite the leaf, invalidate its translations, release. -/
def Dev.movePage (d : Dev) (q : Req) (n va : Nat) (leafAt : Nat) (e : Word) (old new : Acc) (newPa : Nat) : Dev :=
  let lines := match old with | .loc a => linesOf a (2 ^ 21) | _ => []
  let m := lines.foldl (fun m l => m.recall d.gen l) d.mem
  let m := (m.hClean fun h => lines.contains h.line).hDrop fun h => lines.contains h.line
  let d := { d with mem := m }
  let r := Dev.readAll q [(old, 2 ^ 21)] d
  let d := Dev.writeAll q [(new, 2 ^ 21)] r.2 r.1
  let w := BitVec.ofNat 64 (newPa / 4096 * 4096 + e.toNat % 4096)
  let d := d.write ⟨portXfer, 32, ⟨none, none⟩⟩ leafAt (bytesOf 8 w.toNat)
  d.setPart n fun p => { p with x := { p.x with tlb := SMap.drop (fun k => k == va / 2 ^ 21) p.x.tlb } }

/-- Old frame of a leaf as an access of partition n. -/
def Dev.oldFrame (d : Dev) (n : Nat) (e : Word) : Option Acc :=
  let pa := wf e 63 12 * 4096
  let a := pa % 2 ^ 48
  if !d.here (pa / 2 ^ 48) then none
  else match place a with
    | .host o => some (.host (d.busAddr n o))
    | .ftier _ | .dtier _ | .yard _ => some (.loc a)
    | _ => none

/-- PREFETCH moves one page with each event; `polled` counts them. -/
def Dev.prefetchPage (d : Dev) (r : CmdRef) : Dev :=
  match d.running_ r 0x08 with
  | none => d
  | some c =>
    let n := c.f 0x28 36 32
    let i := c.polled
    let va := c.f 0x20 63 0 + i * 2 ^ 21
    let fail (d : Dev) (k : Nat) : Dev := (d.xferFault { c with part := n } va false false k i 0).complete r (kindStatus k)
    let next (d : Dev) : Dev := d.setCmd r fun c => { c with polled := i + 1 }
    if d.snapHeld c ∨ c.marked then d
    else if c.f 0x28 31 0 ≤ i then d.complete r (if c.restruck ≠ 0 then stOkRestruck else stOk)
    else
      let la := c.f 0x30 63 0 + 8 * i
      if !d.inCarve la 8 then fail d 3
      else if (d.bad la 8).isSome then d.xferError r la
      else
        let rd := d.read ⟨portXfer, 32, c.acct⟩ la 8
        let d := rd.1
        let pa := leNat rd.2
        match d.leaf n va with
        | .error k => if k = 4 then d.xferError r va else fail d (if k = 3 then 3 else k)
        | .ok (at_, e, lv) =>
          if lv ≠ 1 ∨ wb e 9 then fail d 1
          else if wf e 63 12 * 4096 = pa then next d
          else match d.frameAcc n pa false, d.oldFrame n e with
            | some new, some old =>
              let olda := match old with | .loc a => a | _ => 0
              let wait := (match new with | .loc a => !d.lit a | _ => false) || (match old with | .loc a => !d.lit a || d.frameBusy n a | _ => false)
              if wait then (match new with | .loc a => d.wantWake a | _ => d).wantWake olda
              else
                match d.badIn [(old, 2 ^ 21)] with
                | some a => d.xferError r a
                | none =>
                  let host (a : Acc) : Bool := match a with | .host _ => true | _ => false
                  let port := if host old then portCopy ((d.copyEngines n false).headD 0) else if host new then portCopy ((d.copyEngines n true).headD 0) else portXfer
                  if (host old ∧ (d.copyEngines n false).isEmpty) ∨ (host new ∧ (d.copyEngines n true).isEmpty) then d.complete r stUnitAbsent
                  else
                    let d := if port = portXfer then d.count c.acct 41 (units64 (2 ^ 21)) else d
                    next (d.movePage ⟨port, n, c.acct⟩ n va at_ e old new pa)
            | _, _ => fail d 3

/-- PREFETCH (R256): accepted only on PF queues. -/
def Dev.prefetch (d : Dev) (r : CmdRef) : Dev :=
  match d.cmd r with
  | some c =>
    if c.phase = .waiting then
      d.start_ r 0x08 fun c d => if !c.viaPf then d.complete r stPermission else d.prefetchPage r
    else d.prefetchPage r
  | none => d

/-! ### ADVISE (R260) -/

/-- One operation of Table 7.7 on the lines of a page run, or on the page. -/
def Dev.advisePage (d : Dev) (c : Cmd) (va n : Nat) : Dev :=
  let op := c.f 0x30 3 0
  let skip (d : Dev) : Dev := d.count c.acct 61 1
  let r := d.xlateE c.part va c.acct
  match r.2 with
  | .bad _ => skip r.1
  | .ok pa e =>
    let d := r.1
    let a := pa % 2 ^ 48
    let tier := d.here (pa / 2 ^ 48) && (match place a with | .ftier _ | .dtier _ => true | _ => false)
    if !tier ∨ !d.grant c.part a n ∨ (3 ≤ op ∧ !wb e 9) then skip d
    else
      let ls := linesOf a n
      match op with
      | 0 => ls.foldl (fun (d : Dev) l =>
          let before := d.mem.lockRefused
          let m := d.mem.lock l c.part c.part (d.st.lockq c.part)
          let d := { d with mem := m }
          if m.lockRefused ≠ before then d.count c.acct 62 1 else d) d
      | 1 => { d with mem := d.mem.unlock fun h => ls.contains h.line && decide (h.locked = some c.part) }
      | 2 => { d with mem := d.mem.hClean fun h => ls.contains h.line && h.locked.isNone }
      | _ => d.setServing c.part fun t => { t with prefs := SMap.put 0 t.prefs (va / 2 ^ 21) (if op = 3 then 1 else if op = 4 then 2 else 0) }

def Dev.advise (d : Dev) (r : CmdRef) : Dev :=
  d.start_ r 0x09 fun c d =>
    ((pieces (c.f 0x20 63 0) (c.f 0x28 39 0)).foldl (fun (d : Dev) p => d.advisePage c p.1 p.2) d).complete r stOk

/-! ### Host accesses through BAR2 (R246, R337) -/

/-- A host access through the PF BAR2: the carve units in ascending order. -/
def Dev.bar2Pf (d : Dev) (off : Nat) (wr : Option (List Byte)) (len : Nat) : Dev :=
  let n := match wr with | some bs => bs.length | none => len
  let unit (o : Nat) : Option Nat := (d.carve)[o / 2 ^ 30]?
  let fail : Dev := let d := d.pkgErr 6; if wr.isSome then d else d.emit (.read (List.replicate n 0xFF))
  let segs : List (Option (Acc × Nat)) := ((List.range ((off + n + 2 ^ 30 - 1) / 2 ^ 30 - off / 2 ^ 30)).map fun i =>
    let lo := max off ((off / 2 ^ 30 + i) * 2 ^ 30)
    let hi := min (off + n) ((off / 2 ^ 30 + i + 1) * 2 ^ 30)
    match unit lo with
    | some u => if d.siteIn (unitSite u) then some (.loc (unitBase u + lo % 2 ^ 30), hi - lo) else none
    | none => none)
  if segs.any Option.isNone then fail
  else
    let l := segs.filterMap id
    let q : Req := ⟨portPcie, 32, ⟨none, none⟩⟩
    match wr with
    | some bs => Dev.writeAll q l bs d
    | none => if (d.badIn l).isSome then fail else let r := Dev.readAll q l d; r.1.emit (.read r.2)

/-- The fault record of a host access through a VF BAR2, and what the host sees. -/
def Dev.bar2Fault (d : Dev) (n va kind len : Nat) (wr : Bool) : Dev :=
  let d := if wr then d else d.emit (.read (List.replicate len 0xFF))
  d.faultEntry n 3 (xferBody va false true kind 0 0 0 0 0 0) false 0 0

/-- A host access through the VF BAR2 of partition n: one answer for each page that it touches. -/
def Dev.bar2Vf (d : Dev) (n off : Nat) (wr : Option (List Byte)) (len : Nat) : Dev :=
  let bs := wr.getD []
  let cnt := if wr.isSome then bs.length else len
  let va := (d.part n).x.bar2va.toNat * 2 ^ 21 + off
  let acct : Acct := ⟨none, some n⟩
  let q : Req := ⟨portPcie, n, acct⟩
  let x := Dev.accRange n wr.isSome acct (pieces va cnt) d
  let d := x.1
  match x.2 with
  | .error (_, 0) => d
  | .error (a, k) => d.bar2Fault n a k cnt wr.isSome
  | .ok l =>
    if touchesCredit l then d.bar2Fault n va 3 cnt wr.isSome
    else if wr.isNone ∧ (d.badIn l).isSome then (d.sawBad acct false ((d.badIn l).getD 0)).bar2Fault n va 4 cnt false
    else match (if wr.isSome then d.refusedBy l else none) with
      | some k => (d.badWr k).bar2Fault n va 3 cnt true
      | none =>
        let sent := (l.foldl (fun (o : Option (Dev × Nat)) p =>
          o.bind fun e =>
            let more : Option Dev := match p.1 with
              | .remote pkg a => (runs256 p.2).foldl (fun (o : Option Dev) y =>
                  o.bind fun d => d.request n portPcie pkg (if wr.isSome then kWrite else kRead) (a + y.1)
                    (if wr.isSome then 0 else BitVec.ofNat 64 y.2) ((bs.drop (e.2 + y.1)).take (if wr.isSome then y.2 else 0))
                    (.bar2 (n + 1) (va + e.2 + y.1) y.2 wr.isSome) acct) (some e.1)
              | _ => some e.1
            more.map fun d => (d, e.2 + p.2)) (some (d, 0)))
        match sent with
        | none => d.bar2Fault n va 5 cnt wr.isSome
        | some (d, _) =>
          let here := l.filter fun p => match p.1 with | .remote .. => false | _ => true
          match wr with
          | some bs =>
            let w := Dev.store q l bs d
            (match d.badEdges l with
            | some x => (w.sawBad acct false x).bar2Fault n va 4 cnt true
            | none => w)
          | none => if here.isEmpty then d else let r := Dev.fetch q here d; r.1.emit (.read r.2)

/-- BAR2_ACCESS: within the BAR's size. -/
def Dev.bar2 (d : Dev) (f off : Nat) (wr : Option (List Byte)) (len : Nat) : Dev :=
  if !d.live || !d.start.perstRel then d
  else if f = 0 then d.bar2Pf off wr len
  else if off < 2 ^ d.start.bar2log ∧ (d.part (f - 1)).st ≠ 0 then d.bar2Vf (f - 1) off wr len
  else d

end Sys2Proof.Machine
end

