-- ==== Sys2Proof/Machine/Sync.lean ====
section
/-! DEFINITION. Machine/Sync.lean: SIGNAL, WAIT, FENCE, NOP, CANCEL, DUMP and MARK (R294, R346, R464 to R466). -/

namespace Sys2Proof.Machine

open Sys2Proof

/-- R215 for a command that acts in one action and meets a detected error at address a. -/
def Dev.atomicError (d : Dev) (r : CmdRef) (a : Nat := 0) : Dev :=
  match d.cmd r with
  | none => d
  | some c => let d := (d.sawBad c.acct false a).complete r stDetected; if c.rsafe then d else d.partFault c.part

/-! ### WAIT (R346) -/

/-- Operation code that an AMO packet carries for a read without a write (log 30). -/
def amoRead : Nat := 15

def condMet (cond : Nat) (v x : Nat) : Bool := if cond = 0 then decide (x ≤ v) else if cond = 1 then v == x else v != x

/-- A read of the semaphore of a running WAIT. -/
def Dev.waitRead (d : Dev) (r : CmdRef) : Dev :=
  match d.running_ r 0x19 with
  | none => d
  | some c =>
    if c.marked ∨ d.awaits (fun w => w = .sync r) then d
    else
      let d := d.setCmd r fun c => { c with polled := d.now }
      let a := d.accE c.part (c.f 0x20 63 0) 8 false c.acct
      match a.2 with
      | .bad 4 => a.1.atomicError r
      | .bad k => a.1.complete r (kindStatus k)
      | .wait => a.1
      | .remote pkg x => (a.1.request c.part portXfer pkg kAmo x 0 (amoData amoRead 3 0) (.sync r) c.acct).getD (a.1.complete r stLinkLost)
      | x =>
        match a.1.badIn [(x, 8)] with
        | some p => a.1.atomicError r p
        | none =>
          let v := a.1.farAmo ⟨portXfer, c.part, c.acct⟩ x 8 (fun _ => none) none
          if condMet (c.f 0x30 1 0) v.2 (c.f 0x28 63 0) then v.1.complete r stOk else v.1

/-- WAIT: it starts, and reads. -/
def Dev.waitStart (d : Dev) (r : CmdRef) : Dev := d.start_ r 0x19 fun _ d => d.waitRead r

/-- Every running WAIT of partition n reads. -/
def Dev.pollAll (d : Dev) (n : Nat) : Dev :=
  ((d.cmds.filter fun c => c.part = n ∧ c.op = 0x19 ∧ c.phase = .running).map (·.ref)).foldl (fun (d : Dev) r => d.waitRead r) d

/-! ### SIGNAL (R346) -/

/-- Cores that a SIGNAL names. -/
def Cmd.signalCores (c : Cmd) : List Nat := (List.range 128).filter fun i => (c.f 0x38 63 0 + 2 ^ 64 * c.f 0x40 63 0).testBit i

/-- After the AMO: EVENT on each core named, then the record; WAITs of the partition read. -/
def Dev.signalDone (d : Dev) (r : CmdRef) : Dev :=
  match d.cmd r with
  | none => d
  | some c =>
    let d := c.signalCores.foldl (fun (d : Dev) i => d.setCore i fun k => { k with ipend := setBit k.ipend 2 }) d
    (d.complete r stOk).pollAll c.part

/-- A SIGNAL that has started acts once its address can be reached. -/
def Dev.signalAct (d : Dev) (r : CmdRef) : Dev :=
  match d.running_ r 0x18 with
  | none => d
  | some c =>
    let op := c.f 0x30 1 0
    let val := c.f 0x28 63 0
    if d.awaits (fun w => w = .sync r) then d
    else if c.signalCores.any fun i => d.coreOwner i ≠ c.part then d.complete r stPermission
    else
      let a := if op = 2 then d.accE c.part (c.f 0x20 63 0) 8 false c.acct else d.accAmo c.part (c.f 0x20 63 0) c.acct
      match a.2 with
      | .bad 4 => a.1.atomicError r
      | .bad k => a.1.complete r (kindStatus k)
      | .wait => a.1
      | .remote pkg x =>
        (a.1.request c.part portXfer pkg kAmo x (BitVec.ofNat 64 val) (amoData (if op = 2 then amoRead else op) 3 0) (.sync r) c.acct).getD
          (a.1.complete r stLinkLost)
      | x =>
        match a.1.badIn [(x, 8)] with
        | some p => a.1.atomicError r p
        | none => match (if op = 2 then none else a.1.refusedBy [(x, 8)]) with
          | some k => (a.1.badWr k).complete r stPermission
          | none =>
            let f (old : Nat) : Option Nat := if op = 0 then some val else if op = 1 then some ((old + val) % 2 ^ 64) else none
            (a.1.farAmo ⟨portXfer, c.part, c.acct⟩ x 8 f none).1.signalDone r

/-- SIGNAL. -/
def Dev.signal (d : Dev) (r : CmdRef) : Dev :=
  match d.cmd r with
  | some c => if c.phase = .waiting then d.start_ r 0x18 fun _ d => d.signalAct r else d.signalAct r
  | none => d

/-- The response to the AMO of a SIGNAL, a WAIT or a row counter. -/
def Dev.syncResp (d : Dev) (r : CmdRef) (old : Nat) : Dev :=
  match d.cmd r with
  | none => d
  | some c =>
    if c.op = 0x18 then d.signalDone r
    else if c.op = 0x19 then (if condMet (c.f 0x30 1 0) old (c.f 0x28 63 0) then d.complete r stOk else d)
    else if c.op = 0x05 then d.settleFill r
    else d.settleMove r

/-! ### FENCE and NOP -/

/-- FENCE: it starts after every earlier command; at its next event the confirming read has come back. -/
def Dev.fenceCmd (d : Dev) (r : CmdRef) : Dev :=
  match d.running_ r 0x1A with
  | some _ => d.complete r stOk
  | none => d.start_ r 0x1A fun _ d => d

def Dev.nopCmd (d : Dev) (r : CmdRef) : Dev := d.start_ r 0x3F fun _ d => d.complete r stOk

/-! ### CANCEL (R294) -/

/-- Targets of a CANCEL. -/
def Dev.cancelTargets (d : Dev) (c : Cmd) : List CmdRef :=
  let qk := qKey (if c.f 0x20 6 6 = 1 then 0 else c.part + 1) (c.f 0x20 5 0)
  let mine := fun (x : Cmd) => x.open_ && x.part == c.part && x.ref.qk == qk && decide (x.ref ≠ c.ref)
  if c.f 0x20 48 48 = 1 then ((d.cmds.takeWhile fun x => x.ref ≠ c.ref).filter mine).map (·.ref)
  else (d.cmds.filter fun x => mine x && x.ref.slot.toNat == c.f 0x20 31 16).map (·.ref)

/-- Every target of a CANCEL has completed; another command in its slot is no target. -/
def Dev.cancelOver (d : Dev) (c : Cmd) : Bool :=
  c.hold.all fun r => match d.cmd r with | some x => !x.open_ || !x.marked | none => true

/-- CANCEL: the marks are set in one action; a later event completes it once its targets have completed. -/
def Dev.cancel (d : Dev) (r : CmdRef) : Dev :=
  match d.running_ r 0x1B with
  | some c => if d.cancelOver c then d.complete r stOk else d
  | none =>
    d.start_ r 0x1B fun c d =>
      if c.f 0x20 6 6 = 1 ∧ !c.viaPf then d.complete r stPermission
      else
        let ts := d.cancelTargets c
        if ts.isEmpty then d.complete r stUnitAbsent
        else ts.foldl (fun (d : Dev) t => d.mark t) (d.setCmd r fun c => { c with hold := ts })

/-! ### DUMP (R465, R466) -/

/-- DUMP that was held back at acceptance is armed when it may start. -/
def Dev.dump (d : Dev) (r : CmdRef) : Dev := d.start_ r 0x20 fun _ d => d.armDump r

/-- DUMP_FIRE: the copy of a DUMP that has fired, in the order of acceptance; at shed level 3 it ends with AGAIN. -/
def Dev.dumpFire (d : Dev) (r : CmdRef) : Dev :=
  match d.cmd r with
  | none => d
  | some c =>
    let older := (d.cmds.takeWhile fun x => x.ref ≠ r).any fun x => x.part = c.part ∧ x.phase = .fired
    if c.op ≠ 0x20 ∨ c.phase ≠ .fired ∨ !d.live ∨ c.move.next ≠ 0 ∨ older then d
    else if 3 ≤ d.pkg.level then ({ d with pkg := { d.pkg with agains := sat 16 (d.pkg.agains + 1) } }).complete r stAgain
    else
      let len := c.f 0x40 39 0
      d.startRowAt c [(c.f 0x30 63 0, len)] (c.f 0x30 63 0) (c.f 0x38 63 0) len

/-! ### MARK (R464) -/

/-- MARK: a trace record if the partition traces, and an entry in the queue's hang ring. -/
def Dev.markCmd (d : Dev) (r : CmdRef) : Dev :=
  d.start_ r 0x21 fun c d =>
    let v := c.f 0x20 63 0
    let d := if (d.part c.part).d.tren then d.traceRaw c.part (traceRec 6 2 (r.hunit) (c.oper * 2 ^ 28) v) else d
    (d.ring 0 r.hunit 0x0C (some c) (BitVec.ofNat 64 v)).complete r stOk

end Sys2Proof.Machine
end

