-- ==== Sys2Proof/Machine/Barrier.lean ====
section
/-! DEFINITION. Machine/Barrier.lean: combining points, releases, broadcast payload, BARRIER and SNAPSHOT (R372 to R377). -/

namespace Sys2Proof.Machine

open Sys2Proof

/-! ### Arrivals (R373, R376) -/

/-- What an arrival at a combining point carries. -/
structure BArr where
  tag : Nat
  barid : Nat
  gen : Nat
  scope : Nat
  nlocal : Nat
  pkgcnt : Nat
  chcnt : Nat
  chlead : Nat
  root : Nat
  blen : Nat
  bsrc : Nat
deriving DecidableEq, Repr

/-- Who arrives: a command, or a package from below. -/
inductive BWho where
  | cmd (c : CmdRef)
  | pkg (p : Nat)
deriving DecidableEq, Repr

/-- The fields that a level compares: a scope ignores what lies above it, and an upper point does not see what is a package's or a chassis's own. -/
def BArr.at_ (a : BArr) (level : Nat) : BArr :=
  let a := if a.scope = 0 then { a with pkgcnt := 0, chlead := 0 } else a
  let a := if a.scope < 2 then { a with chcnt := 0, root := 0 } else a
  let a := if level = 0 then a else { a with nlocal := 0 }
  if level < 2 then a else { a with pkgcnt := 0, chlead := 0 }

def Cmd.arrival (c : Cmd) (tag : Nat) : BArr :=
  { tag := tag, barid := c.f 0x20 63 48, gen := c.f 0x20 47 32, scope := c.f 0x28 63 62, nlocal := c.f 0x28 47 32, pkgcnt := c.f 0x28 31 16
    chcnt := c.f 0x28 15 0, chlead := c.f 0x20 31 16, root := c.f 0x20 15 0, blen := if c.op = 0x30 then c.f 0x38 39 0 else 0
    bsrc := c.f 0x28 61 61 }

/-- An open context fixes these fields (R373). -/
def BCtx.fits (x : BCtx) (a : BArr) : Bool :=
  let b := a.at_ x.level
  x.scope == b.scope && x.nlocal == b.nlocal && x.pkgcnt == b.pkgcnt && x.chcnt == b.chcnt && x.chlead == b.chlead && x.root == b.root && x.blen == b.blen

/-- Arrivals that a level waits for. -/
def BArr.need (a : BArr) (level : Nat) : Nat := if level = 0 then a.nlocal else if level = 1 then a.pkgcnt else a.chcnt

def BArr.open_ (a : BArr) (level : Nat) : BCtx :=
  let b := a.at_ level
  { tag := a.tag, barid := a.barid, gen := a.gen, level := level, scope := b.scope, need := a.need level, got := 0, nlocal := b.nlocal
    pkgcnt := b.pkgcnt, chcnt := b.chcnt, chlead := b.chlead, root := b.root, blen := b.blen, cmds := [], pkgs := [], bsrc := 0, sent := false
    rel := false, recv := 0 }

/-- R375, R376: what becomes of an arrival. -/
inductive BOut where
  | join (x : BCtx)
  | opens
  | waits
  | refused
deriving DecidableEq, Repr

def Dev.barLook (d : Dev) (level : Nat) (a : BArr) : BOut :=
  match d.fab.ctxs.find? fun x => x.level == level && x.tag == a.tag && x.barid == a.barid with
  | some x =>
    if x.gen = a.gen then (if x.fits a then .join x else .refused)
    else if (x.gen + 1) % 65536 = a.gen then .waits else .refused
  | none =>
    let opens : BOut := if 256 ≤ d.fab.ctxs.length then .waits else .opens
    match d.fab.gens.find? fun g => g.level == level && g.tag == a.tag && g.barid == a.barid with
    | some g => if (g.gen + 1) % 65536 = a.gen then opens else .refused
    | none => opens

/-! ### Packets of an arrival (log 30) -/

def BArr.packet (a : BArr) (src level : Nat) : Packet :=
  { dst := BitVec.ofNat 16 (if level = 1 then a.chlead else a.root), src := BitVec.ofNat 16 src, jobtag := BitVec.ofNat 16 a.tag
    kind := BitVec.ofNat 6 kBarArrive, vc := 2, stream := 0xFFFF, sseq := 0, tid := 0, addr := 0, opinfo := barWord a.barid a.gen a.chlead a.root
    data := bytesOf 8 (a.scope * 2 ^ 62 + a.nlocal * 2 ^ 32 + a.pkgcnt * 2 ^ 16 + a.chcnt) ++ bytesOf 8 a.blen ++ bytesOf 1 a.bsrc ++ bytesOf 1 level }

def arrivalOf (p : Packet) : BArr :=
  { tag := p.jobtag.toNat, barid := wf p.opinfo 63 48, gen := wf p.opinfo 47 32, chlead := wf p.opinfo 31 16, root := wf p.opinfo 15 0
    scope := bfld p.data 0 63 62, nlocal := bfld p.data 0 47 32, pkgcnt := bfld p.data 0 31 16, chcnt := bfld p.data 0 15 0
    blen := bfld p.data 8 39 0, bsrc := bfld p.data 16 7 0 }
def arrivalLevel (p : Packet) : Nat := bfld p.data 17 7 0

/-! ### Broadcast payload (R374) -/

/-- Every power domain as if LIT: a payload write is admitted after the wake that it asks for (R292). -/
def Dev.awake (d : Dev) : Dev :=
  { d with tongs := { d.tongs with regions := [], bricks := d.tongs.bricks.map fun e => (e.1, { e.2 with pstate := 0 }) } }

/-- A write of bytes at a virtual address of partition n: the kind of a fault, if any. -/
def Dev.pushBytes (d : Dev) (n va : Nat) (bs : List Byte) (acct : Acct) : Dev × Option Nat :=
  let x := Dev.accRange n true acct (pieces va bs.length) d.awake
  let d1 : Dev := { x.1 with tongs := { x.1.tongs with regions := d.tongs.regions, bricks := d.tongs.bricks } }
  match x.2 with
  | .error (_, k) => (d1, some k)
  | .ok l =>
    let bad (p : Acc × Nat) : Bool := match p.1 with | .remote .. => true | _ => false
    if touchesCredit l ∨ l.any bad then (d1, some 3)
    else match d1.refusedBy l with
      | some k => (d1.badWr k, some 3)
      | none =>
        let d2 := l.foldl (fun (d : Dev) p => match p.1 with | .loc a => if d.lit a then d else d.wantWake a | _ => d) d1
        (Dev.store ⟨portXfer, n, acct⟩ l bs d2, none)

def Dev.setCtx (d : Dev) (x : BCtx) (f : BCtx → BCtx) : Dev :=
  { d with fab := { d.fab with ctxs := updFirst (fun y => y.level == x.level && y.tag == x.tag && y.barid == x.barid && y.gen == x.gen) f d.fab.ctxs } }

/-- A BCAST packet; TID says which context takes it: 0 level 0, 1 level 1 from below, 2 level 2, 3 level 1 from above (log 30). -/
def Dev.postPayload (d : Dev) (x : BCtx) (pkg tgt off : Nat) (bs : List Byte) : Dev :=
  d.post pkg kBcast 2 x.tag (BitVec.ofNat 16 tgt) off x.word bs

/-- A chunk reaches level 0: it is written for every arrival that does not carry BSRC; the last one completes them. -/
def Dev.payload0 (d : Dev) (tag barid gen off : Nat) (bs : List Byte) : Dev :=
  match d.ctxAt 0 tag barid gen with
  | none => d
  | some x =>
    if !x.rel then d
    else
      let d := d.setCtx x fun y => { y with recv := y.recv + bs.length }
      let d := x.cmds.foldl (fun (d : Dev) r =>
        match d.cmd r with
        | some c =>
          if c.f 0x28 61 61 = 1 then d
          else
            let w := d.pushBytes c.part (c.f 0x30 63 0 + off) bs c.acct
            match w.2 with
            | none => w.1
            | some k => w.1.abort r (kindStatus k) 0
        | none => d) d
      if x.recv + bs.length < x.blen then d
      else match d.ctxAt 0 tag barid gen with
        | some y => y.cmds.foldl (fun (d : Dev) r => d.complete r stOk) (d.dropCtx y)
        | none => d

/-- A context through which payload passes closes after its last byte. -/
def Dev.passed (d : Dev) (x : BCtx) (n : Nat) : Dev :=
  let d := d.setCtx x fun y => { y with recv := y.recv + n }
  match d.ctxAt x.level x.tag x.barid x.gen with
  | some y => if y.blen ≤ y.recv then d.dropCtx y else d
  | none => d

/-- A chunk from above reaches level 1: it goes to every package below. -/
def Dev.payload1Down (d : Dev) (tag barid gen off : Nat) (bs : List Byte) : Dev :=
  match d.ctxAt 1 tag barid gen with
  | none => d
  | some x =>
    let d := x.pkgs.foldl (fun (d : Dev) p =>
      if p = d.fab.pkgid then d.payload0 tag barid gen off bs else d.postPayload x p 0 off bs) d
    d.passed x bs.length

/-- A chunk reaches level 2 from a chassis: it goes to the others. -/
def Dev.payload2 (d : Dev) (src tag barid gen off : Nat) (bs : List Byte) : Dev :=
  match d.ctxAt 2 tag barid gen with
  | none => d
  | some x =>
    let d := x.pkgs.foldl (fun (d : Dev) p =>
      if p = src then d
      else if p = d.fab.pkgid then d.payload1Down tag barid gen off bs else d.postPayload x p 3 off bs) d
    d.passed x bs.length

/-- A chunk from below reaches level 1: it goes to the other packages, and up. -/
def Dev.payload1Up (d : Dev) (src tag barid gen off : Nat) (bs : List Byte) : Dev :=
  match d.ctxAt 1 tag barid gen with
  | none => d
  | some x =>
    let d := x.pkgs.foldl (fun (d : Dev) p =>
      if p = src then d
      else if p = d.fab.pkgid then d.payload0 tag barid gen off bs else d.postPayload x p 0 off bs) d
    let d := if x.scope < 2 then d
      else if x.root = d.fab.pkgid then d.payload2 d.fab.pkgid tag barid gen off bs else d.postPayload x x.root 2 off bs
    d.passed x bs.length

/-- The release has reached a level-0 context that holds the source: its payload is read and streamed. A fault of the source ends every local arrival with its status. -/
def Dev.streamPayload (d : Dev) (x : BCtx) : Dev :=
  match (x.cmds.filterMap d.cmd).find? fun c => c.f 0x28 61 61 = 1 with
  | none => d
  | some c =>
    let s := Dev.accRange c.part false c.acct (pieces (c.f 0x30 63 0) x.blen) d.awake
    let d : Dev := { s.1 with tongs := { s.1.tongs with regions := d.tongs.regions, bricks := d.tongs.bricks } }
    match s.2 with
    | .error (_, k) => d.endCtx x (kindStatus k)
    | .ok l =>
      if (d.badIn l).isSome then d.endCtx x stDetected
      else
        let r := Dev.fetch ⟨portXfer, c.part, c.acct⟩ l d
        let d := (runs256 x.blen).foldl (fun (d : Dev) e =>
          let bs := (r.2.drop e.1).take e.2
          if x.scope = 0 then d
          else if x.chlead = d.fab.pkgid then d.payload1Up d.fab.pkgid x.tag x.barid x.gen e.1 bs
          else d.postPayload x x.chlead 1 e.1 bs) r.1
        (runs256 x.blen).foldl (fun (d : Dev) e => d.payload0 x.tag x.barid x.gen e.1 ((r.2.drop e.1).take e.2)) d

/-! ### Releases -/

/-- R376: the generation table of a level, most recently used first, 1,024 entries. -/
def Dev.putGen (d : Dev) (x : BCtx) : Dev :=
  let other := d.fab.gens.filter fun g => !(g.level == x.level && g.tag == x.tag && g.barid == x.barid)
  let mine := (other.filter fun g => g.level = x.level).take 1023
  { d with fab := { d.fab with gens := GenE.mk x.level x.tag x.barid x.gen :: (mine ++ other.filter fun g => g.level ≠ x.level) } }

/-- An arrival is released: a BARRIER completes, a SNAPSHOT goes on to copy. -/
def Dev.releaseCmd (d : Dev) (r : CmdRef) : Dev :=
  match d.cmd r with
  | some c => if c.op = 0x31 then d.setCmd r fun c => { c with phase := .copying } else d.complete r stOk
  | none => d

/-- A release reaches the context of a level, and goes down. -/
def Dev.releaseGo (tag barid gen status : Nat) : Nat → Dev → Dev
  | 0, d =>
    match d.ctxAt 0 tag barid gen with
    | none => d
    | some x =>
      let d := d.putGen x
      if status ≠ stOk then d.endCtx x status
      else if x.blen = 0 then x.cmds.foldl (fun (d : Dev) r => d.releaseCmd r) (d.dropCtx x)
      else
        let d := d.setCtx x fun y => { y with rel := true }
        match d.ctxAt 0 tag barid gen with
        | some y => d.streamPayload y
        | none => d
  | k + 1, d =>
    match d.ctxAt (k + 1) tag barid gen with
    | none => d
    | some x =>
      let d := d.putGen x
      if status ≠ stOk then d.endCtx x status
      else
        let d := if x.blen = 0 then d.dropCtx x else d.setCtx x fun y => { y with rel := true }
        x.pkgs.foldl (fun (d : Dev) p => if p = d.fab.pkgid then Dev.releaseGo tag barid gen status k d else d.postRelease x p status) d

/-- Every arrival of the last combining point is in: the release starts. Exactly one must carry BSRC where there is payload. -/
def Dev.releaseTop (d : Dev) (x : BCtx) : Dev :=
  Dev.releaseGo x.tag x.barid x.gen (if x.blen ≠ 0 ∧ x.bsrc ≠ 1 then stUnitAbsent else stOk) x.level d

/-! ### Combining -/

/-- A refused arrival: its command ends, or the package below is told. -/
def Dev.refuseArr (d : Dev) (level : Nat) (a : BArr) (w : BWho) : Dev :=
  match w with
  | .cmd r => d.abort r stUnitAbsent 0
  | .pkg p =>
    if p = d.fab.pkgid then (match d.ctxAt (level - 1) a.tag a.barid a.gen with | some y => d.endCtx y stUnitAbsent | none => d)
    else d.postRelease { a.open_ level with chlead := a.chlead, root := a.root } p stUnitAbsent

/-- R373 to R376: an arrival at a level, and what follows above it; `k` is the number of levels above. -/
def Dev.barIn : Nat → Nat → BArr → BWho → Dev → Dev
  | k, level, a, w, d =>
    let wait (d : Dev) : Dev := match w with
      | .cmd r => { d with fab := { d.fab with barWait := d.fab.barWait ++ [r] } }
      | .pkg p => { d with fab := { d.fab with barPkt := d.fab.barPkt ++ [a.packet p level] } }
    let add (x : BCtx) (d : Dev) : Dev :=
      let y := match w with
        | .cmd r => { x with got := x.got + 1, bsrc := x.bsrc + a.bsrc, cmds := x.cmds ++ [r] }
        | .pkg p => { x with got := x.got + 1, bsrc := x.bsrc + a.bsrc, pkgs := x.pkgs ++ [p] }
      let full := decide (y.need ≤ y.got) && !y.sent
      let d := d.setCtx x fun _ => { y with sent := y.sent || full }
      if !full then d
      else if level = y.scope then d.releaseTop { y with sent := true }
      else
        let up : BArr := { a with bsrc := y.bsrc }
        let tgt := if level = 0 then a.chlead else a.root
        if tgt = d.fab.pkgid then
          (match k with
          | 0 => d
          | k + 1 => Dev.barIn k (level + 1) up (.pkg tgt) d)
        else match d.sendPkt (up.packet d.fab.pkgid (level + 1)) with
          | some d => d
          | none => d.endCtx { y with sent := true } stLinkLost
    match d.barLook level a with
    | .waits => wait d
    | .refused => d.refuseArr level a w
    | .join x => add x d
    | .opens =>
      let x := a.open_ level
      let d : Dev := { d with fab := { d.fab with ctxs := d.fab.ctxs ++ [x] } }
      add x (d.barRing (d.fab.ctxs.length - 1) 0x06 a.tag)

/-- An arrival of a command at its package. -/
def Dev.arriveCmd (d : Dev) (r : CmdRef) : Dev :=
  match d.cmd r with
  | some c => Dev.barIn 2 0 (c.arrival (d.st.jobtag c.part)) (.cmd r) (d.setCmd r fun c => { c with phase := .arrived })
  | none => d

/-- BAR_ARRIVE from another package. -/
def Dev.arrivePkt (d : Dev) (p : Packet) : Dev :=
  let level := arrivalLevel p
  if level = 1 ∨ level = 2 then Dev.barIn (2 - level) level (arrivalOf p) (.pkg p.src.toNat) d else d

/-- Arrivals that waited for a context try again, in order (R375). -/
def Dev.barRetry (d : Dev) : Dev :=
  let cs := d.fab.barWait
  let ps := d.fab.barPkt
  let d : Dev := { d with fab := { d.fab with barWait := [], barPkt := [] } }
  ps.foldl (fun (d : Dev) p => d.arrivePkt p) (cs.foldl (fun (d : Dev) r => d.arriveCmd r) d)

/-- BAR_RELEASE: the status and the level of the context that takes it (log 30). -/
def Dev.releasePkt (d : Dev) (p : Packet) : Dev :=
  let level := (nthD 0 p.data 1).toNat
  if level ≤ 1 then
    (Dev.releaseGo p.jobtag.toNat (wf p.opinfo 63 48) (wf p.opinfo 47 32) (nthD 0 p.data 0).toNat level d).barRetry
  else d

/-- BCAST. -/
def Dev.bcastPkt (d : Dev) (p : Packet) : Dev :=
  let tag := p.jobtag.toNat
  let b := wf p.opinfo 63 48
  let g := wf p.opinfo 47 32
  let o := p.addr.toNat
  (match p.tid.toNat with
  | 0 => d.payload0 tag b g o p.data
  | 1 => d.payload1Up p.src.toNat tag b g o p.data
  | 2 => d.payload2 p.src.toNat tag b g o p.data
  | 3 => d.payload1Down tag b g o p.data
  | _ => d).barRetry

/-! ### BARRIER and SNAPSHOT -/

/-- R373: a scope above the package needs a job tag. -/
def Dev.scopeOk (d : Dev) (c : Cmd) : Bool := c.f 0x28 63 62 == 0 || decide (d.st.jobtag c.part ≠ 0)

/-- BARRIER. -/
def Dev.barrier (d : Dev) (r : CmdRef) : Dev :=
  d.start_ r 0x30 fun c d => if !d.scopeOk c then d.complete r stPermission else (d.arriveCmd r).barRetry

/-- R377 step 2: no task of the partition runs, and every write that it has issued has reached its home. -/
def Dev.drained (d : Dev) (n : Nat) : Bool :=
  (d.tiles.all fun e => match e.2.task with | some t => t.part != n | none => true) &&
    (d.cmds.all fun c => !(c.part == n && c.op != 0x31) || (c.move.bufs.isEmpty && c.move.wrote.isEmpty)) &&
    !(d.fab.waits.any fun a => d.waiterPart n a.who) &&
    d.wins.all fun e => e.2.granted.all fun q => match q.who with
      | .cmd c _ => (match d.cmd c with | some c => c.part != n | none => true)
      | .remote .. => true

/-- SNAPSHOT_DRAIN_COMPLETE: it arrives. -/
def Dev.snapDrained (d : Dev) (r : CmdRef) : Dev :=
  match d.cmd r with
  | some c => if c.op = 0x31 ∧ c.phase = .draining ∧ d.live ∧ d.drained c.part then (d.arriveCmd r).barRetry else d
  | none => d

/-- The copy of the next region of a SNAPSHOT, or its end with the hold released; the packets held at ingress are the fabric's to take up. -/
def Dev.snapCopy (d : Dev) (c : Cmd) : Dev :=
  let m := c.move
  let ended (st : Nat) : Dev := (d.setPart c.part fun p => { p with snap := none }).complete c.ref st
  if !d.live ∨ m.delivered ≠ m.next then d
  else match m.stop with
    | some st => ended st
    | none =>
      if c.rows ≤ m.next then ended stOk
      else
        let ea := c.f 0x30 63 0 + 32 * m.next
        let x := Dev.accRange c.part false c.acct (pieces ea 32) d
        match x.2 with
        | .error (_, 0) => x.1
        | .error (va, k) => x.1.rowFault c m.next va false k
        | .ok l =>
          let far := l.any fun p => match p.1 with | .remote .. => true | _ => false
          if far then x.1.rowFault c m.next ea false 3
          else if (x.1.badIn l).isSome then x.1.rowStop c.ref m.next stDetected
          else
            let r := Dev.fetch ⟨portXfer, c.part, c.acct⟩ l x.1
            let len := bfld r.2 16 39 0
            let src := bfld r.2 0 63 0
            if len = 0 then r.1.setMove c.ref fun m => { m with next := m.next + 1, delivered := m.next + 1 }
            else r.1.startRowAt c [(src, len)] src (bfld r.2 8 63 0) len

/-- SNAPSHOT: it holds, starts after the earlier commands of its queue, and copies region by region after its release. -/
def Dev.snapshot (d : Dev) (r : CmdRef) : Dev :=
  match d.cmd r with
  | none => d
  | some c =>
    if c.op ≠ 0x31 then d
    else if c.phase = .copying then d.snapCopy c
    else
      let d := if (d.part c.part).snap = none ∧ c.phase = .waiting then d.setPart c.part fun p => { p with snap := some r } else d
      if (d.part c.part).snap ≠ some r then d
      else
        let done (d : Dev) (st : Nat) : Dev := (d.setPart c.part fun p => { p with snap := none }).complete r st
        d.start_ r 0x31 fun c d => if !d.scopeOk c then done d stPermission else d.setCmd r fun c => { c with phase := .draining }

end Sys2Proof.Machine
end

