-- ==== Sys2Proof/Machine/Kernel.lean ====
section
/-! DEFINITION. Machine/Kernel.lean: KERNEL commands, the dispatch arbiters, the units of a tile and the end of tasks (R53 to R85, R106 to R117, R122, R148 to R156, R173, R265 to R267, R288, R295, R348). -/

namespace Sys2Proof.Machine

open Sys2Proof

/-! ### Start and placement -/

/-- KERNEL: the command starts; the Tongs places it (R265). -/
def Dev.kernel (d : Dev) (r : CmdRef) : Dev := d.start_ r 1 fun _ d => d

/-- Earlier accepted KERNEL commands of the partition that keep this one from being placed (R265): those of its role, and those that could be placed now. -/
def Dev.placedAfter (d : Dev) (c : Cmd) : Bool :=
  (d.cmds.takeWhile fun x => x.ref ≠ c.ref).any fun x =>
    x.op == 1 && x.part == c.part && decide (x.phase = .running) && !x.placed && !x.marked &&
      (wf (x.w 0x30) 63 61 == wf (c.w 0x30) 63 61 || decide (d.resolve x.part (x.w 0x30) ≠ .wait))

/-- PLACEMENT (R265). -/
def Dev.placement (d : Dev) (r : CmdRef) : Dev :=
  match d.running_ r 1 with
  | none => d
  | some c =>
    if c.placed || c.marked || d.snapHeld c || d.placedAfter c then d
    else match d.resolve c.part (c.w 0x30) with
      | .absent => d.complete r stUnitAbsent
      | .unavailable => (d.setServing c.part fun t => { t with rolefail := sat 16 (t.rolefail + 1) }).complete r stRole
      | .wait => d
      | .on ks => d.placeTasks r ks fun i => kernelTask c i ks.length

/-! ### Dispatch (R288, R295) -/

/-- The command that owns what a message carries. -/
def Dev.msgCmd (d : Dev) (m : Msg) : Option CmdRef :=
  match m.load with
  | .task t => some t.cmd
  | .span n _ _ _ => (d.serving n).run.map (·.cmd)

def Msg.part (m : Msg) : Nat := match m.load with | .task t => t.part | .span n _ _ _ => n

/-- The message goes to the slag queue. -/
def Dev.toSlag (d : Dev) (m : Msg) : Dev :=
  let d : Dev := { d with tongs := { d.tongs with slag := d.tongs.slag ++ [m] } }
  let d := d.setServing m.part fun t => { t with slagcnt := sat 16 (t.slagcnt + 1) }
  let d := d.count ⟨d.msgCmd m, some m.part⟩ 49 1
  d.ring 3 0 0x0B ((d.msgCmd m).bind d.cmd) (BitVec.ofNat 64 m.tries) 0 false m.part

/-- DISPATCH_ARRIVAL (R288): the oldest message on its way to tile t, or to the hub of its brick, is executed, or returned to the slag queue while that has room. -/
def Dev.dispatchArrival (d : Dev) (t : TileRef) : Dev :=
  match d.tongs.inflight.find? fun m => m.brick == t.brick.val && (match m.load with | .task _ => m.tile == t.tile.val | .span .. => true) with
  | none => d
  | some m =>
    let off : Dev := { d with tongs := { d.tongs with inflight := d.tongs.inflight.erase m } }
    let good := match d.phys m.brick with | some p => d.brickIn m.brick && decide ((d.brick p).epoch = m.epoch ∧ (d.brick p).pstate = 0) | none => false
    if !d.live then d
    else if good then
      match m.load with
      | .task k => { off with tongs := { off.tongs with ready := SMap.upd [] off.tongs.ready (tKey m.brick m.tile) fun l => l ++ [k] } }
      | .span .. => { off with tongs := { off.tongs with spans := off.tongs.spans ++ [m] } }
    else if 512 ≤ d.tongs.slag.length then d
    else off.toSlag m

/-- ARBITER_GRANT (R295): the ready task of an idle tile begins with the state of R173, unless its cancel mark is set. -/
def Dev.arbiterGrant (d : Dev) (t : TileRef) : Dev :=
  let k := t.key
  match SMap.get [] d.tongs.ready k with
  | [] => d
  | x :: rest =>
    if !d.live || (d.tile k).task.isSome || !d.tileIn k then d
    else if d.markedCmd x.cmd then (d.count ⟨some x.cmd, some x.part⟩ 63 1).endReady x k
    else if (match d.cmd x.cmd with | some c => d.snapHeld c | none => false) then d
    else
      let d : Dev := { d with tongs := { d.tongs with ready := SMap.put [] d.tongs.ready k rest } }
      let d := d.setTile k fun y => y.begin_ x x.pc x.arg x.seed t.tile.val t.brick.val x.part
      let d := d.setTasks x.cmd (fun y => y.task = x && y.tile = k && y.phase = 0) fun y => { y with phase := 1 }
      let d := d.setPart x.part fun p => { p with d := { p.d with last := d.now } }
      (d.count ⟨some x.cmd, some x.part⟩ 1 1).traceBegin k x.pc

/-! ### The units of a tile -/

/-- A unit of tile k acts; what it counted goes to the counters (R458). -/
def Dev.unit (d : Dev) (k : Nat) (f : Tile → Tile) : Dev :=
  if !d.live || !d.tileIn k then d
  else
    let t := f (d.tile k)
    let a : Acct := match t.task with | some x => ⟨some x.cmd, some x.part⟩ | none => ⟨none, none⟩
    let d := match (d.tile k).fin, t.fin with
      | none, some f => if f.reason = 4 then d.sawBad a true f.addr.toNat else d
      | _, _ => d
    t.ev.foldl (fun (d : Dev) e => if e.1 = 12 ∨ e.1 = 21 then d.countK a e.1 e.2 else d.count a e.1 e.2)
      (d.setTile k fun _ => { t with ev := [] })

/-- The variant has weld units (Table 0.1). -/
def Dev.weld (d : Dev) : Bool := d.var.weld

/-- COURSE_PROOF_SELF_TEST (R83): a tile that passes ends its command with PROOF_REPEAT; one that fails leaves service (R35). -/
def Dev.selfTestTile (d : Dev) (t : TileRef) (pass : Bool) : Dev :=
  if pass then d.unit t.key proofSelfTest
  else if d.live && (d.tile t.key).runs && (d.tile t.key).passes.any (fun p => p.stuck) then d.withdrawUnit (.tile t)
  else d

/-- Tiles of the cluster that a launch on tile k spans (R154). -/
def clusterOf (k cl : Nat) : List Nat := (List.range (2 ^ cl)).map fun i => k / 128 * 128 + k % 128 / 2 ^ cl * 2 ^ cl + i

/-- Every thread of block b on tile k waits at its barrier. -/
def Dev.blockAtBar (d : Dev) (cmd : Option CmdRef) (l : Launch) (b k : Nat) : Bool :=
  let t := d.tile k
  match t.launch with
  | some m => decide (m.cl = l.cl ∧ m.nblk = l.nblk ∧ m.bsz = l.bsz) && t.runs && decide (t.task.map (·.cmd) = cmd) && decide (t.atBar b = m.bsz)
  | none => false

/-- CBAR_COMPLETE (R156): the lowest cluster group of tile t's launch that has wholly arrived goes on, on every rank. -/
def Dev.cbarComplete (d : Dev) (t : TileRef) : Dev :=
  let x := d.tile t.key
  match x.launch with
  | none => d
  | some l =>
    let ks := clusterOf t.key l.cl
    let bs := x.groups.toList.filterMap fun g => match g with | some g => if g.bar then some g.blk else none | none => none
    match (bs.foldr insNat []).find? fun b => ks.all (d.blockAtBar (x.task.map (·.cmd)) l b) with
    | some b => if d.live then ks.foldl (fun (d : Dev) k => d.setTile k fun y => y.leaveBar b) d else d
    | none => d

/-! ### The end of a task (R173, R215, R348) -/

/-- The kernel fault entry of a task that ended early: none where its status is no fault (R169, R455). -/
def faultOf (t : Task) (k : Nat) (f : TFin) : Option KFault :=
  let reason := if f.reason ≠ 0 then f.reason else if f.status = stPermission then 9 else if f.status = stTranslation then 0xA else 0
  if reason = 0 then none
  else some ⟨reason, f.unit, k, f.thread, f.insn, f.pc, f.addr, t.layer, t.oper⟩

/-- KEND completes (R173): every unit, group and device-virtual store of the task has completed. -/
def Dev.kendDone (d : Dev) (k : Nat) : Bool :=
  let t := d.tile k
  t.kend && t.unitsDone 0x1F && !d.awaits (onTile k)

/-- TASK_END: the task on a tile ends, with the status of its first failure, or as KEND completes. -/
def Dev.taskEnd (d : Dev) (r : TileRef) : Dev :=
  let k := r.key
  let t := d.tile k
  match t.task with
  | none => d
  | some x =>
    if !d.live then d
    else match t.fin with
    | some f =>
      match d.cmd x.cmd with
      | none => d.stopTile k
      | some c =>
        let bad := decide (f.status = stDetected) && (f.reason == 4 || f.reason == 5)
        if bad && !c.marked && c.mayRestrike x.rsafe f.addr.toNat then
          (d.setCmd x.cmd fun c => { c with badAt := some f.addr.toNat }).restrike x
        else
          let d := (d.taskFails x f.status (faultOf x k f)).endTask k f.status t.weldBound
          if bad && !x.rsafe then d.partFault x.part else d
    | none => if d.kendDone k then d.endTask k (if t.restruck ≠ 0 then stOkRestruck else stOk) t.weldBound else d

end Sys2Proof.Machine
end

