-- ==== Sys2Proof/Machine/Operands.lean ====
section
/-! DEFINITION. Machine/Operands.lean: agents that execute instructions: readiness, fetch, exceptions, register operands and the advance to the next instruction (R160 to R164, R170, R179, chapter 15). -/

namespace Sys2Proof.Machine

open Sys2Proof

/-! ### Agents -/

/-- The profile an agent runs (R160). -/
def profOf : Agent → Prof
  | .anvil _ => .a
  | .smith _ => .s
  | .group _ _ => .l

/-- A group of a tile, or an empty one. -/
def Group.none_ : Group := { pc := 0, blk := 0, idx := 0, wide := false, m := .replicate 8 0, stack := [], x := [], f := [], bar := false }
def Dev.grp (d : Dev) (t : TileRef) (g : Fin 8) : Group := ((d.tile t.key).group g.val).getD Group.none_
def Dev.setGrp (d : Dev) (t : TileRef) (g : Fin 8) (f : Group → Group) : Dev :=
  d.setTile t.key fun x => match x.group g.val with | some y => x.setGroup g.val (some (f y)) | none => x

/-- The address of the instruction that an agent executes next. -/
def Dev.pcOf (d : Dev) : Agent → Word
  | .anvil c => (d.core c.val).pc
  | .smith t => (d.tile t.key).pc
  | .group t g => (d.grp t g).pc

/-- To whom the work of an agent is attributed (R458). -/
def Dev.acctOf (d : Dev) : Agent → Acct
  | .anvil c => ⟨none, some (d.coreOwner c.val)⟩
  | .smith t | .group t _ => match (d.tile t.key).task with | some x => ⟨some x.cmd, some x.part⟩ | none => ⟨none, none⟩

/-- The partition of an agent. -/
def Dev.partOf (d : Dev) : Agent → Nat
  | .anvil c => d.coreOwner c.val
  | .smith t | .group t _ => match (d.tile t.key).task with | some x => x.part | none => 32

/-- Whose access an agent makes: a tile's goes out through its brick hub. -/
def Dev.reqOf (d : Dev) : Agent → Req
  | .anvil c => ⟨portCore c.val, d.coreOwner c.val, d.acctOf (.anvil c)⟩
  | .smith t => ⟨t.brick.val, d.partOf (.smith t), d.acctOf (.smith t)⟩
  | .group t g => ⟨t.brick.val, d.partOf (.group t g), d.acctOf (.group t g)⟩

/-- A response to an access of the agent is outstanding. -/
def Dev.agentBusy (d : Dev) (a : Agent) : Bool := d.awaits fun w => w.by_ == some a

/-- The agent can execute an instruction now. A core in WFI goes on once an enabled interrupt is pending (R180). -/
def Dev.agentReady (d : Dev) (a : Agent) : Bool :=
  d.live && !d.agentBusy a &&
  match a with
  | .anvil c => d.coreIn c.val && (d.core c.val).run && (!(d.core c.val).wfi || decide (d.ipend c.val &&& (d.core c.val).ien ≠ 0))
  | .smith t => d.tileIn t.key && (d.tile t.key).runs && !(d.tile t.key).kend
  | .group t g => d.tileIn t.key && (d.tile t.key).runs && ((d.tile t.key).group g.val).isSome && !(d.grp t g).bar

/-! ### Exceptions (R161, R163, R176, R179, R214, R241) -/

/-- What stops an instruction. -/
inductive Exc where
  | illegal (w : Nat)
  | priv (w : Nat)
  | align (addr : Word)
  /-- No valid translation: 0 load, 1 store, 2 fetch. -/
  | xlat (kind : Nat) (va : Word)
  | perm (va : Word)
  /-- An uncorrectable error at a physical address: poison, or parity of a tile-store word. -/
  | poison (pa : Word)
  | parity (pa : Word)
  | maskStack
deriving DecidableEq, Repr

/-- Cause and value of an Anvil trap (Table 5.13). -/
def Exc.trap : Exc → Nat × Word
  | .illegal w => (cIllegal, BitVec.ofNat 64 w)
  | .priv w => (cPriv, BitVec.ofNat 64 w)
  | .align x => (cMisaligned, x)
  | .xlat k va => ((if k = 0 then cLoad else if k = 1 then cStore else cFetch), va)
  | .perm va => (cPerm, va)
  | .poison pa | .parity pa => (cDetected, pa)
  | .maskStack => (cIllegal, 0)

/-- Status, fault reason, address and instruction word of a KERNEL command's end (Tables 15.1, 15.2). -/
def Exc.fin : Exc → Nat × Nat × Word × Nat
  | .illegal w | .priv w => (stDetected, 1, 0, w)
  | .align x => (stDetected, 2, x, 0)
  | .xlat _ va => (stTranslation, 0xA, va, 0)
  | .perm va => (stPermission, 9, va, 0)
  | .poison pa => (stDetected, 5, pa, 0)
  | .parity pa => (stDetected, 4, pa, 0)
  | .maskStack => (stDetected, 3, 0, 0)

/-- The task of a tile ends early at an instruction. -/
def Tile.fail (t : Tile) (e : Exc) (unit thread : Nat) (pc : Word) : Tile :=
  let f := e.fin
  if t.fin = none then { t with fin := some ⟨f.1, f.2.1, unit, f.2.2.1, thread, f.2.2.2, pc⟩ } else t

/-- An instruction of an agent stops at thread `th`: an Anvil core traps, a tile's part of its KERNEL command ends; nothing still outstanding for it goes on. -/
def Dev.raise (d : Dev) (a : Agent) (th : Nat) (e : Exc) : Dev :=
  let d := match e with
    | .parity x => d.sawBad (d.acctOf a) true x.toNat
    | .poison _ => d.count (d.acctOf a) 57 1
    | _ => d
  let d := d.forget fun w => w.by_ == some a
  match a with
  | .anvil c => d.trap c.val (d.core c.val).pc e.trap.1 e.trap.2
  | .smith t => d.setTile t.key fun x => x.fail e 0 0 x.pc
  | .group t g => d.setTile t.key fun x => x.fail e 1 th (d.grp t g).pc

/-- The exception of a fault kind of a walk (Table 7.6): 1 translation, 2 malformed entry, 3 permission, 4 detected. -/
def excOf (kind acc : Nat) (va : Word) : Exc := if kind = 3 then .perm va else if kind = 4 then .poison 0 else .xlat acc va

/-! ### Fetch (R163, R183, R241) -/

/-- Why the word at va cannot be fetched: the device that waits for a wake, or the exception; none where it can. Only the translation is at issue: the instruction itself comes with the command. -/
def Dev.fetchWord (d : Dev) (a : Agent) (va : Nat) : Option (Dev ⊕ Exc) :=
  let w := BitVec.ofNat 64 va
  let pick (r : Acc) (w' : Dev) : Option (Dev ⊕ Exc) :=
    match r with
    | .bad k => some (.inr (excOf k 2 w))
    | .wait => some (.inl w')
    | .loc p => if (d.bad p 4).isSome then some (.inr (.poison (BitVec.ofNat 64 p))) else none
    | _ => none
  match a with
  | .anvil c =>
    match (d.walkA c.val va).2 with
    | .bad k => some (.inr (excOf k 2 w))
    | .ok pa _ => let r := d.accA c.val va 4 2; pick r.2.1 (d.wantWake (pa % 2 ^ 48))
  | .smith _ | .group _ _ =>
    match (d.xlateE (d.partOf a) va (d.acctOf a)).2 with
    | .bad k => some (.inr (excOf k 2 w))
    | .ok pa e => if !wb e 7 then some (.inr (.perm w)) else pick (d.target (d.partOf a) pa 4) (d.wantWake (pa % 2 ^ 48))

/-- The fetch of an instruction of `len` bytes at an agent's program counter. -/
def Dev.fetchStop (d : Dev) (a : Agent) (len : Nat) : Option (Dev ⊕ Exc) :=
  let pc := d.pcOf a
  if pc.toNat % 4 ≠ 0 then some (.inr (.align pc))
  else match d.fetchWord a pc.toNat with
    | some x => some x
    | none => if len = 8 then d.fetchWord a (pc + 4).toNat else none

/-- An instruction of an agent: where the agent is ready and the fetch goes through, k executes it. -/
def Dev.insn (d : Dev) (a : Agent) (len : Nat) (k : Dev → Dev) : Dev :=
  if !d.agentReady a then d
  else match d.fetchStop a len with
    | some (.inl w) => w
    | some (.inr e) => d.raise a 0 e
    | none => k (match a with | .anvil c => d.setCore c.val fun x => { x with wfi := false } | _ => d)

/-! ### Advance -/

/-- The instruction of an agent retires and execution goes on at pc (R152, R457). -/
def Dev.goto (d : Dev) (a : Agent) (pc : Word) : Dev :=
  match a with
  | .anvil c => d.setCore c.val fun x => { x with pc := pc, retired := x.retired + 1 }
  | .smith t => (d.setTile t.key fun x => { x with pc := pc }).count (d.acctOf a) 5 1
  | .group t g => d.setGrp t g fun x => x.goto pc

/-- A group's instruction counts once for each active thread, before it changes the mask (Table 15.4). -/
def Dev.countInsn (d : Dev) : Agent → Dev
  | .group t g => d.count (d.acctOf (.group t g)) 4 (d.grp t g).active.length
  | _ => d

/-- On to the instruction after one of `len` bytes. -/
def Dev.next (d : Dev) (a : Agent) (len : Nat) : Dev := d.goto a (d.pcOf a + BitVec.ofNat 64 len)

/-! ### Register operands (R162, R166, R170) -/

/-- A register of the list is reserved by a Swage program: the instruction waits (R170). -/
def Dev.reservedReg (d : Dev) (a : Agent) (rs : List Nat) : Bool :=
  match a with
  | .smith t => rs.any (d.tile t.key).reserved
  | _ => false

/-- x registers of a Smith core. -/
def Tile.rx (t : Tile) (r : Nat) : Word := if r = 0 then 0 else SMap.get 0 t.x r
def Tile.wx (t : Tile) (r : Nat) (v : Word) : Tile := if r = 0 then t else { t with x := SMap.put 0 t.x r v }
def Tile.rf (t : Tile) (r : Nat) : Word := SMap.get 0 t.f r
def Tile.wf (t : Tile) (r : Nat) (v : Word) : Tile := { t with f := SMap.put 0 t.f r v }

/-- A register of a thread of an agent: float or integer. -/
def Dev.reg (d : Dev) (a : Agent) (th : Nat) (flt : Bool) (r : Nat) : Word :=
  match a with
  | .anvil c => if flt then (d.core c.val).rf r else (d.core c.val).rx r
  | .smith t => if flt then (d.tile t.key).rf r else (d.tile t.key).rx r
  | .group t g => if flt then (d.grp t g).rf th r else (d.grp t g).rx th r

def Dev.setReg (d : Dev) (a : Agent) (th : Nat) (flt : Bool) (r : Nat) (v : Word) : Dev :=
  match a with
  | .anvil c => d.setCore c.val fun x => if flt then x.wf r v else x.wx r v
  | .smith t => d.setTile t.key fun x => if flt then x.wf r v else x.wx r v
  | .group t g => d.setGrp t g fun x => if flt then x.wf th r v else x.wx th r v

/-- Threads for which an instruction takes effect: thread 0 stands for a core (R146). -/
def Dev.activeOf (d : Dev) : Agent → List Nat
  | .group t g => (d.grp t g).active
  | _ => [0]

/-- Dynamic rounding mode of a core (Table 5.14). -/
def Dev.dynOf (d : Dev) : Agent → Nat
  | .anvil c => fld (d.core c.val).fsr 6 5
  | _ => 0

/-- IEEE flags are sticky in ASR_FSR (R166). -/
def Dev.addFlags (d : Dev) (a : Agent) (fl : Nat) : Dev :=
  match a with
  | .anvil c => d.setCore c.val fun x => { x with fsr := x.fsr ||| fl }
  | _ => d

/-- An instruction that computes a register from registers: legal or not, the x registers it touches, its destination, and its result from a thread's x and f registers. -/
def Dev.compute (d : Dev) (a : Agent) (len w : Nat) (ok : Bool) (xs : List Nat) (rd : Nat) (f : (Nat → Word) → (Nat → Word) → FRes) : Dev :=
  d.insn a len fun (d : Dev) =>
    if !ok then d.raise a 0 (.illegal w)
    else if d.reservedReg a xs then d
    else
      let d' := (d.activeOf a).foldl
        (fun (e : Dev) th =>
          let r := f (d.reg a th false) (d.reg a th true)
          (e.setReg a th (!r.toX) rd r.val).addFlags a r.flags) (d.countInsn a)
      d'.next a len

/-- An integer result. -/
def xRes (v : Word) : FRes := { toX := true, val := v, flags := 0 }

/-- Float instructions trap ILLEGAL on a core whose FEN is 0, vector instructions where VEN is 0 (Table 5.15). -/
def Dev.fenOk (d : Dev) : Agent → Bool
  | .anvil c => (d.core c.val).fen
  | _ => true

end Sys2Proof.Machine
end

