-- ==== Sys2Proof/Machine/Scalar.lean ====
section
/-! DEFINITION. Machine/Scalar.lean: integer and float operations, immediates, branches and jumps, fences and time reads of every profile (R163 to R168, R175, R180, R182). -/

namespace Sys2Proof.Machine

open Sys2Proof

/-! ### Integer and float operations -/

/-- A first word of a long form (Table 5.3). -/
def longWord (lop rd rs1 : Nat) (imm : BitVec 42) : Nat := insWord 0x3F rd rs1 (lop * 2 ^ 10 + imm.toNat / 2 ^ 32)

/-- MAJ 0x01 (Table 5.5). -/
def Dev.intReg (d : Dev) (a : Agent) (rd rs1 rs2 fn : Nat) : Dev :=
  d.compute a 4 (insWord 1 rd rs1 (regLow rs2 fn)) (Machine.intReg fn rs2 0 0).isSome [rd, rs1, rs2] rd
    fun x _ => xRes ((Machine.intReg fn rs2 (x rs1) (x rs2)).getD 0)

/-- MAJ 0x02 to 0x06. -/
def immMaj : ImmOp → Nat | .addi => 2 | .andi => 3 | .ori => 4 | .xori => 5 | .slti => 6
def Dev.immInsn (d : Dev) (a : Agent) (op : ImmOp) (rd rs1 : Nat) (imm : BitVec 16) : Dev :=
  d.compute a 4 (insWord (immMaj op) rd rs1 imm.toNat) true [rd, rs1] rd fun x _ => xRes (immOp op (x rs1) imm)

/-- SHI. -/
def Dev.shi (d : Dev) (a : Agent) (rd rs1 : Nat) (imm : BitVec 16) : Dev :=
  d.compute a 4 (insWord 7 rd rs1 imm.toNat) (shiOp 0 imm).isSome [rd, rs1] rd fun x _ => xRes ((shiOp (x rs1) imm).getD 0)

/-- LUI. -/
def Dev.lui (d : Dev) (a : Agent) (rd rs1 : Nat) (imm : BitVec 16) : Dev :=
  d.compute a 4 (insWord 8 rd rs1 imm.toNat) (rs1 == 0) [rd] rd fun _ _ => xRes (sxw 32 (imm.toNat * 2 ^ 16))

/-- LI. -/
def Dev.li (d : Dev) (a : Agent) (rd rs1 : Nat) (imm : BitVec 42) : Dev :=
  d.compute a 8 (longWord 0 rd rs1 imm) (rs1 == 0) [rd] rd fun _ _ => xRes (sxw 42 imm.toNat)

/-- LIH. -/
def Dev.lih (d : Dev) (a : Agent) (rd rs1 : Nat) (imm : BitVec 42) : Dev :=
  d.compute a 8 (longWord 1 rd rs1 imm) (lihOp 0 imm).isSome [rd, rs1] rd fun x _ => xRes ((lihOp (x rs1) imm).getD 0)

/-- ADDIL, ANDIL, ORIL, XORIL. -/
def longLop : LongOp → Nat | .addil => 2 | .andil => 3 | .oril => 4 | .xoril => 5
def Dev.longInsn (d : Dev) (a : Agent) (op : LongOp) (rd rs1 : Nat) (imm : BitVec 42) : Dev :=
  d.compute a 8 (longWord (longLop op) rd rs1 imm) true [rd, rs1] rd fun x _ => xRes (longOp op (x rs1) imm)

/-- FOP (Table 5.6). -/
def Dev.fopInsn (d : Dev) (a : Agent) (rd rs1 rs2 fn : Nat) : Dev :=
  let xs := fopX (fld fn 10 5)
  d.compute a 4 (insWord 0x18 rd rs1 (regLow rs2 fn)) ((fop (profOf a) (d.dynOf a) fn rs2 0 0 0).isSome && d.fenOk a)
    ((if xs.1 then [rd] else []) ++ (if xs.2 then [rs1] else [])) rd
    fun x f => (fop (profOf a) (d.dynOf a) fn rs2 (f rs1) (f rs2) (x rs1)).getD (xRes 0)

/-- FMA family. -/
def Dev.fmaInsn (d : Dev) (a : Agent) (rd rs1 rs2 rs3 fn : Nat) : Dev :=
  d.compute a 4 (insWord 0x19 rd rs1 (rs2 * 2 ^ 11 + rs3 * 2 ^ 6 + fn)) ((fmaOp (profOf a) (d.dynOf a) fn 0 0 0).isSome && d.fenOk a) [] rd
    fun _ f => (fmaOp (profOf a) (d.dynOf a) fn (f rs1) (f rs2) (f rs3)).getD (xRes 0)

/-! ### Control flow -/

/-- Trace key of an agent that is traced: a Smith core or an Anvil core (R462). -/
def traceKeyOf : Agent → Option Nat
  | .anvil c => some (coreKey c.val)
  | .smith t => some t.key
  | .group _ _ => none

def brMaj : BrOp → Nat | .beq => 0x10 | .bne => 0x11 | .blt => 0x12 | .bge => 0x13 | .bltu => 0x14 | .bgeu => 0x15

/-- Whether a branch is taken: a group's active threads decide as one (R147); where they disagree, or none is active, the manual gives no outcome and a free value decides. -/
def Dev.taken (d : Dev) (a : Agent) (op : BrOp) (rs1 rs2 : Nat) : Dev × Bool :=
  let os := (d.activeOf a).map fun th => brTaken op (d.reg a th false rs1) (d.reg a th false rs2)
  match os with
  | o :: rest => if rest.all fun p => p == o then (d, o) else let f := d.free; (f.2, wb f.1 0)
  | [] => let f := d.free; (f.2, wb f.1 0)

/-- BRA format: offset in 4-byte units from the branch (R164). -/
def Dev.branch (d : Dev) (a : Agent) (op : BrOp) (rs1 rs2 : Nat) (off : BitVec 16) : Dev :=
  d.insn a 4 fun (d : Dev) =>
    if d.reservedReg a [rs1, rs2] then d
    else
      let d := d.countInsn a
      let r := d.taken a op rs1 rs2
      let tgt := if r.2 then d.pcOf a + 4 * sxw 16 off.toNat else d.pcOf a + 4
      let e := r.1.goto a tgt
      match traceKeyOf a with | some k => e.traceBranch k r.2 tgt | none => e

/-- A jump of `len` bytes: the link register of each active thread takes the address of the next instruction. -/
def Dev.jump (d : Dev) (a : Agent) (len rd : Nat) (tgt : Word) : Dev :=
  let link := d.pcOf a + BitVec.ofNat 64 len
  ((d.activeOf a).foldl (fun (e : Dev) th => e.setReg a th false rd link) (d.countInsn a)).goto a tgt

/-- JL. -/
def Dev.jl (d : Dev) (a : Agent) (rd : Nat) (off : BitVec 21) : Dev :=
  d.insn a 4 fun (d : Dev) =>
    if d.reservedReg a [rd] then d else d.jump a 4 rd (d.pcOf a + 4 * sxw 21 off.toNat)

/-- JLR: illegal in the L profile (Table 5.4). -/
def Dev.jlr (d : Dev) (a : Agent) (rd rs1 : Nat) (imm : BitVec 16) : Dev :=
  d.insn a 4 fun (d : Dev) =>
    if profOf a = .l then d.raise a 0 (.illegal (insWord 0x17 rd rs1 imm.toNat))
    else if d.reservedReg a [rd, rs1] then d
    else
      let tgt := d.reg a 0 false rs1 + 4 * sxw 16 imm.toNat
      let e := d.jump a 4 rd tgt
      match traceKeyOf a with | some k => e.traceTarget k tgt | none => e

/-- JLL. -/
def Dev.jll (d : Dev) (a : Agent) (rd rs1 : Nat) (imm : BitVec 42) : Dev :=
  d.insn a 8 fun (d : Dev) =>
    if profOf a = .l ∨ rs1 ≠ 0 then d.raise a 0 (.illegal (longWord 8 rd rs1 imm))
    else if d.reservedReg a [rd] then d
    else d.jump a 8 rd (d.pcOf a + 4 * sxw 42 imm.toNat)

/-! ### Fences and time -/

/-- FENCE (Table 5.17): accesses of one agent take effect in order in the model, and a remote one before the next instruction, so a legal fence only goes on. -/
def Dev.fenceInsn (d : Dev) (a : Agent) (rd rs1 : Nat) (imm : BitVec 16) : Dev :=
  d.insn a 4 fun (d : Dev) =>
    if rd ≠ 0 ∨ rs1 ≠ 0 ∨ fld imm.toNat 15 7 ≠ 0 ∨ (profOf a ≠ .a ∧ imm.toNat.testBit 5) then d.raise a 0 (.illegal (insWord 0x1C rd rs1 imm.toNat))
    else (d.countInsn a).next a 4

/-- RDTIME. -/
def Dev.rdtime (d : Dev) (a : Agent) (rd rs1 rs2 : Nat) : Dev :=
  d.compute a 4 (insWord 0x1F rd rs1 (regLow rs2 0)) (rs1 == 0 && rs2 == 0) [rd] rd fun _ _ => xRes d.timeW

/-- Strokes have passed since the last read: how many is open, but at least one (R180, log 1). -/
def Dev.passStrokes (d : Dev) (a : Agent) : Dev :=
  let f := d.free
  match a with
  | .anvil c => f.2.setCore c.val fun x => { x with strokes := x.strokes + 1 + f.1.toNat }
  | .smith t | .group t _ =>
    let q := t.brick.val * 4 + t.tile.val / 24
    { f.2 with qstrokes := SMap.upd 0 f.2.qstrokes q fun n => n + 1 + f.1.toNat }

/-- ASR_STROKES of a core, or the strokes of a tile's quarter-domain (R180). -/
def Dev.strokesOf (d : Dev) : Agent → Word
  | .anvil c => BitVec.ofNat 64 (d.core c.val).strokes
  | .smith t | .group t _ => BitVec.ofNat 64 (SMap.get 0 d.qstrokes (t.brick.val * 4 + t.tile.val / 24))

/-- RDSTROKE. -/
def Dev.rdstroke (d : Dev) (a : Agent) (rd rs1 rs2 : Nat) : Dev :=
  let d := if d.agentReady a then d.passStrokes a else d
  d.compute a 4 (insWord 0x1F rd rs1 (regLow rs2 1)) (rs1 == 0 && rs2 == 0) [rd] rd fun _ _ => xRes (d.strokesOf a)

/-! ### The meanings -/

def execIntRegOp (a : Agent) (rd rs1 rs2 : BitVec 5) (fn : BitVec 11) (s : State) : Host.Outcome State Fault Refusal :=
  s.act fun d => d.intReg a rd.toNat rs1.toNat rs2.toNat fn.toNat
def execAddi (a : Agent) (op : ImmOp) (rd rs1 : BitVec 5) (imm : BitVec 16) (s : State) : Host.Outcome State Fault Refusal :=
  s.act fun d => d.immInsn a op rd.toNat rs1.toNat imm
def execShi (a : Agent) (rd rs1 : BitVec 5) (imm : BitVec 16) (s : State) : Host.Outcome State Fault Refusal :=
  s.act fun d => d.shi a rd.toNat rs1.toNat imm
def execLui (a : Agent) (rd rs1 : BitVec 5) (imm : BitVec 16) (s : State) : Host.Outcome State Fault Refusal :=
  s.act fun d => d.lui a rd.toNat rs1.toNat imm
def execLi (a : Agent) (rd rs1 : BitVec 5) (imm : BitVec 42) (s : State) : Host.Outcome State Fault Refusal :=
  s.act fun d => d.li a rd.toNat rs1.toNat imm
def execLih (a : Agent) (rd rs1 : BitVec 5) (imm : BitVec 42) (s : State) : Host.Outcome State Fault Refusal :=
  s.act fun d => d.lih a rd.toNat rs1.toNat imm
def execAddil (a : Agent) (op : LongOp) (rd rs1 : BitVec 5) (imm : BitVec 42) (s : State) : Host.Outcome State Fault Refusal :=
  s.act fun d => d.longInsn a op rd.toNat rs1.toNat imm
def execFop (a : Agent) (rd rs1 rs2 : BitVec 5) (fn : BitVec 11) (s : State) : Host.Outcome State Fault Refusal :=
  s.act fun d => d.fopInsn a rd.toNat rs1.toNat rs2.toNat fn.toNat
def execFma (a : Agent) (rd rs1 rs2 rs3 : BitVec 5) (fn : BitVec 6) (s : State) : Host.Outcome State Fault Refusal :=
  s.act fun d => d.fmaInsn a rd.toNat rs1.toNat rs2.toNat rs3.toNat fn.toNat
def execBranch (a : Agent) (op : BrOp) (rs1 rs2 : BitVec 5) (off : BitVec 16) (s : State) : Host.Outcome State Fault Refusal :=
  s.act fun d => d.branch a op rs1.toNat rs2.toNat off
def execJl (a : Agent) (rd : BitVec 5) (off : BitVec 21) (s : State) : Host.Outcome State Fault Refusal :=
  s.act fun d => d.jl a rd.toNat off
def execJlr (a : Agent) (rd rs1 : BitVec 5) (imm : BitVec 16) (s : State) : Host.Outcome State Fault Refusal :=
  s.act fun d => d.jlr a rd.toNat rs1.toNat imm
def execJll (a : Agent) (rd rs1 : BitVec 5) (imm : BitVec 42) (s : State) : Host.Outcome State Fault Refusal :=
  s.act fun d => d.jll a rd.toNat rs1.toNat imm
def execFenceInstr (a : Agent) (rd rs1 : BitVec 5) (imm : BitVec 16) (s : State) : Host.Outcome State Fault Refusal :=
  s.act fun d => d.fenceInsn a rd.toNat rs1.toNat imm
def execRdtime (a : Agent) (rd rs1 rs2 : BitVec 5) (s : State) : Host.Outcome State Fault Refusal :=
  s.act fun d => d.rdtime a rd.toNat rs1.toNat rs2.toNat
def execRdstroke (a : Agent) (rd rs1 rs2 : BitVec 5) (s : State) : Host.Outcome State Fault Refusal :=
  s.act fun d => d.rdstroke a rd.toNat rs1.toNat rs2.toNat

end Sys2Proof.Machine
end

