-- ==== Sys2Proof/Machine/Loads.lean ====
section
/-! DEFINITION. Machine/Loads.lean: loads, stores and AMOs of every agent, and the responses to remote ones (R155, R157, R167, R176, R182, R192, R204, R226, R227, R368). -/

namespace Sys2Proof.Machine

open Sys2Proof

/-! ### Where an access goes -/

/-- Outcome of checking one access: a translated address, a tile-store byte, a wait, or an exception. -/
inductive Hit where
  | go (a : Acc) (cached : Bool)
  | bank (k off : Nat)
  | wait
  | stop (e : Exc)
deriving DecidableEq, Repr

/-- An access of an Anvil core: kind 0 load, 1 store or AMO (R241). -/
def Dev.accCore (d : Dev) (core : Nat) (va : Word) (n kind : Nat) : Dev × Hit :=
  if va.toNat % n ≠ 0 then (d, .stop (.align va))
  else
    let r := d.accA core va.toNat n kind
    match r.2.1 with
    | .bad k => (r.1, .stop (excOf k kind va))
    | .wait => (r.1, .wait)
    | a => (r.1, .go a r.2.2)

/-- log2 of the cluster size of the launch on a tile (R154). -/
def Tile.cl (t : Tile) : Nat := match t.launch with | some l => l.cl | none => 0

/-- The tile store that a tile-local address names, with the offset (R155, R176). -/
def Dev.bankOf (d : Dev) (a : Agent) (va : Nat) : Option (Nat × Nat) :=
  match a with
  | .anvil _ => none
  | .smith t => if va < storeSize then some (t.key, va) else none
  | .group t _ =>
    if va < storeSize then some (t.key, va)
    else
      let o := va - 0x1000000
      let cl := (d.tile t.key).cl
      let k := t.key / 128 * 128 + t.tile.val / 2 ^ cl * 2 ^ cl + o / 2 ^ 20
      if 0x1000000 ≤ va ∧ o / 2 ^ 20 < 2 ^ cl ∧ o % 2 ^ 20 < storeSize ∧ d.tileIn k then some (k, o % 2 ^ 20) else none

/-- An access of a Smith core or a thread: `whole` says that it is a load or store, which alone reach the credit block, with 8 bytes (R192). -/
def Dev.accTile (d : Dev) (a : Agent) (space : Nat) (va : Word) (n : Nat) (write whole : Bool) : Dev × Hit :=
  if va.toNat % n ≠ 0 then (d, .stop (.align va))
  else if space = 1 then
    match d.bankOf a va.toNat with
    | none => (d, .stop (.perm va))
    | some (k, o) =>
      let d := if storeSize ≤ va.toNat then d.count (d.acctOf a) 25 1 else d
      (d, if 0x7FF00 < o + n ∧ !(whole && n == 8) then .stop (.perm va) else .bank k o)
  else
    let r := d.accE (d.partOf a) va.toNat n write (d.acctOf a)
    match r.2 with
    | .bad k => (r.1, .stop (excOf k (b2n write) va))
    | .wait => (r.1, .wait)
    | x => (r.1, .go x false)

/-- One access of an agent's thread. -/
def Dev.access (d : Dev) (a : Agent) (space : Nat) (va : Word) (n : Nat) (write whole : Bool) : Dev × Hit :=
  match a with
  | .anvil c => d.accCore c.val va n (b2n write)
  | _ => d.accTile a space va n write whole

/-- Every active thread's access is checked before any of them acts: the accesses, the lowest thread's exception, or a wait. -/
def Dev.accesses (a : Agent) (va : Nat → Word) (space n : Nat) (write whole : Bool) : List Nat → Dev → Dev × Except (Option (Nat × Exc)) (List (Nat × Hit))
  | [], d => (d, .ok [])
  | th :: rest, d =>
    let r := d.access a space (va th) n write whole
    match r.2 with
    | .stop e => (r.1, .error (some (th, e)))
    | .wait => (r.1, .error none)
    | h =>
      let q := Dev.accesses a va space n write whole rest r.1
      match q.2 with
      | .ok l => (q.1, .ok ((th, h) :: l))
      | .error e => (q.1, .error e)

/-! ### Tile stores as threads see them -/

/-- A tile-store word of the run with bad parity. -/
def Tile.badWord (t : Tile) (o n : Nat) : Option Nat := t.bad.find? fun w => decide (w < 131072) && decide (o < 4 * w + 4) && decide (4 * w < o + n)

def Dev.bankRead (d : Dev) (k o n : Nat) : Except Exc (List Byte) :=
  match creditAt (tileWin k 0) storeSize o with
  | some (w, i) => .ok (bytesOf n (d.winRead w i).toNat)
  | none =>
    match (d.tile k).badWord o n with
    | some w => .error (.parity (BitVec.ofNat 64 (storeAddr k (4 * w))))
    | none => .ok (SMap.bytes 0 (d.tile k).store o n)

/-- A store to a tile store; a partial write of a word with bad parity is an error for its writer (R213). -/
def Dev.bankWrite (d : Dev) (k o : Nat) (bs : List Byte) : Dev × Option Exc :=
  match creditAt (tileWin k 0) storeSize o with
  | some (w, i) => (d.winWrite w i (BitVec.ofNat 64 (leNat bs)), none)
  | none =>
    (d.setTile k fun t => t.put o bs,
      match (d.tile k).badWord o bs.length with
      | some w => if bs.length < 4 then some (.parity (BitVec.ofNat 64 (storeAddr k (4 * w)))) else none
      | none => none)

/-! ### One thread's access -/

/-- Bytes of a size code (Table 5.4). -/
def sizeBytes (size : Nat) : Nat := 2 ^ (size % 4)

/-- The register value of a load (Table 5.4, R162). -/
def loadVal (flt : Bool) (size : Nat) (bs : List Byte) : Word :=
  if flt || decide (4 ≤ size) then BitVec.ofNat 64 (leNat bs) else sxw (8 * bs.length) (leNat bs)

/-- No route leads to the package of a remote access: it is lost (R381). -/
def Dev.lost (d : Dev) (a : Agent) (dst : Dest) (len : Nat) (va pa : Word) : Dev × Bool := (d.lose (.agent a dst len va pa), false)

/-- A remote request of an agent; the instruction ends when its response has come. -/
def Dev.sendOut (d : Dev) (a : Agent) (dst : Dest) (len : Nat) (va : Word) (pkg pa kind : Nat) (op : Word) (data : List Byte) : Dev × Bool :=
  let w := BitVec.ofNat 64 (pkg * 2 ^ 48 + pa)
  match d.request (d.partOf a) (d.reqOf a).port pkg kind pa op data (.agent a dst len va w) (d.acctOf a) with
  | some d => (d, true)
  | none => d.lost a dst len va w

/-- What is wrong with the word at a local address: a poisoned line of a tier, or parity (R213, R214). -/
def badExc (p : Nat) : Exc :=
  match place p with
  | .ftier _ | .dtier _ => .poison (BitVec.ofNat 64 p)
  | _ => .parity (BitVec.ofNat 64 p)

/-- Reads n bytes for an agent: none and an exception where the data are bad. -/
def Dev.readFor (d : Dev) (a : Agent) (x : Acc) (cached : Bool) (n : Nat) : Dev × Except Exc (List Byte) :=
  match a, cached with
  | .anvil c, true =>
    let r := d.readA c.val x true n
    let pa := match x with | .loc p => p | _ => 0
    match r.2 with
    | some bs => (r.1, .ok bs)
    | none => (d, .error (.poison (BitVec.ofNat 64 pa)))
  | _, _ =>
    match d.badIn [(x, n)] with
    | some p => (d, .error (badExc p))
    | none => let r := Dev.fetch (d.reqOf a) [(x, n)] d; (r.1, .ok r.2)

/-- Writes bytes for an agent, unless R192 or R204 refuses them. -/
def Dev.writeFor (d : Dev) (a : Agent) (x : Acc) (cached : Bool) (va : Word) (bs : List Byte) : Dev × Option Exc :=
  match a, cached with
  | .anvil c, true => ((d.writeA c.val x true bs).1, none)
  | _, _ =>
    if touchesCredit [(x, bs.length)] then (d, some (.perm va))
    else match d.refusedBy [(x, bs.length)] with
      | some k => (d.badWr k, some (.perm va))
      | none => (Dev.store (d.reqOf a) [(x, bs.length)] bs d, none)

/-- A thread goes on, or its exception stops the instruction. -/
def Dev.orRaise (d : Dev) (a : Agent) (th : Nat) : Option Exc → Dev × Bool
  | none => (d, true)
  | some e => (d.raise a th e, false)

/-- LD or FLD of one thread. -/
def Dev.loadOne (d : Dev) (a : Agent) (rd : Nat) (flt : Bool) (size th : Nat) (va : Word) (h : Hit) : Dev × Bool :=
  let n := sizeBytes size
  let fin (d : Dev) (r : Except Exc (List Byte)) : Dev × Bool :=
    match r with
    | .ok bs => (d.setReg a th flt rd (loadVal flt size bs), true)
    | .error e => d.orRaise a th (some e)
  match h with
  | .bank k o => fin d (d.bankRead k o n)
  | .go (.remote pkg pa) _ => d.sendOut a (.reg th rd flt size) 4 va pkg pa kRead (BitVec.ofNat 64 n) []
  | .go x c => let r := d.readFor a x c n; fin r.1 r.2
  | _ => (d, true)

/-- ST or FST of one thread. -/
def Dev.storeOne (d : Dev) (a : Agent) (th : Nat) (va : Word) (bs : List Byte) (h : Hit) : Dev × Bool :=
  match h with
  | .bank k o => let r := d.bankWrite k o bs; r.1.orRaise a th r.2
  | .go (.remote pkg pa) _ => d.sendOut a .none_ 4 va pkg pa kWrite 0 bs
  | .go x c => let r := d.writeFor a x c va bs; r.1.orRaise a th r.2
  | _ => (d, true)

/-- Whether an Anvil AMO on a cached line runs near: PLACE, COH_CTL, then the predictor (R226, R228). -/
def Dev.amoNear (d : Dev) (core place a : Nat) : Bool :=
  if place = 1 then true else if place = 2 then false
  else if d.mem.amode = 1 then true else if d.mem.amode = 2 then false
  else decide (SMap.get 0 d.mem.pred (core * 256 + predIdx (a / 128)) < 2)

/-- A register view, which takes no AMO. -/
def isView (p : Nat) : Bool := match place p with | .unpriv .. => true | _ => false

/-- AMO of one thread: op, size code (2 or 3) and place (R167). -/
def Dev.amoOne (d : Dev) (a : Agent) (rd op size place th : Nat) (va src cmp : Word) (h : Hit) : Dev × Bool :=
  let n := sizeBytes size
  let f (old : Nat) : Option Nat := amoNew op (8 * n) old src.toNat cmp.toNat
  let put (d : Dev) (old : Nat) : Dev × Bool := (d.setReg a th false rd (sxw (8 * n) old), true)
  match h with
  | .bank k o =>
    match d.bankRead k o n with
    | .error e => d.orRaise a th (some e)
    | .ok bs =>
      let old := leNat bs
      put (match f old with | some v => d.setTile k fun t => t.put o (bytesOf n v) | none => d) old
  | .go (.remote pkg pa) _ => d.sendOut a (.reg th rd false size) 4 va pkg pa kAmo src (amoData op size cmp)
  | .go (.loc p) c =>
    let x : Acc := .loc p
    if isView p || touchesCredit [(x, n)] || (match Machine.place p with | .store _ _ o => decide (0x7FF00 < o + n) | .yard o => decide (0xFFFF00 < o % 2 ^ 24 + n) | _ => false)
    then d.orRaise a th (some (.perm va))
    else match (if c then none else d.refusedBy [(x, n)]) with
    | some k => (d.badWr k).orRaise a th (some (.perm va))
    | none =>
      match a with
      | .anvil core =>
        if (!c || (d.mem.holders (p / 128)).isEmpty) && (d.bad p n).isSome then d.orRaise a th (some (badExc p))
        else if c && d.amoNear core.val place p then
          let r := d.nearAmo core.val (d.coreOwner core.val) p n f
          put r.1 r.2
        else
          let r := d.farAmo (d.reqOf a) x n f (some core.val)
          put r.1 r.2
      | _ =>
        if (d.mem.holders (p / 128)).isEmpty && (d.bad p n).isSome then d.orRaise a th (some (badExc p))
        else let r := d.farAmo (d.reqOf a) x n f none; put r.1 r.2
  | .go x _ => let r := d.farAmo (d.reqOf a) x n f none; put r.1 r.2
  | _ => (d, true)

/-- Threads act in ascending order until one stops the instruction. -/
def Dev.each (f : Dev → Nat → Hit → Dev × Bool) : List (Nat × Hit) → Dev → Dev × Bool
  | [], d => (d, true)
  | (th, h) :: rest, d =>
    let r := f d th h
    if r.2 then Dev.each f rest r.1 else r

/-! ### Instructions -/

def memWord (maj rd rs1 size space off : Nat) : Nat := insWord maj rd rs1 (size * 2 ^ 13 + space * 2 ^ 11 + off)

/-- SPACE of a profile (R176). -/
def spaceOk (a : Agent) (space : Nat) : Bool := if profOf a = .a then space == 0 else decide (space < 2)

/-- A converter command, a weld split, a bank load or a Swage program that the Smith core issued is not done: its reads and writes of the tile store then come first (R111, R144). -/
def Dev.unitsOpen (d : Dev) (a : Agent) : Bool :=
  match a with | .smith t => (d.tile t.key).unitsBefore (d.tile t.key).seq | _ => false

/-- A memory instruction: `va` gives a thread's address, `act` what a thread does; the agent goes on when nothing is outstanding. -/
def Dev.memInsn (d : Dev) (a : Agent) (w : Nat) (ok : Bool) (xs : List Nat) (va : Nat → Word) (space n : Nat) (write whole : Bool)
    (act : Dev → Nat → Hit → Dev × Bool) : Dev :=
  d.insn a 4 fun (d : Dev) =>
    if !ok then d.raise a 0 (.illegal w)
    else if d.reservedReg a xs || d.unitsOpen a then d
    else
      let r := Dev.accesses a va space n write whole (d.activeOf a) d
      match r.2 with
      | .error none => r.1
      | .error (some (th, e)) => r.1.raise a th e
      | .ok l =>
        let q := Dev.each act l (r.1.countInsn a)
        if q.2 && !q.1.agentBusy a then q.1.next a 4 else q.1

/-- Effective address of a MEM-format scalar access. -/
def Dev.ea (d : Dev) (a : Agent) (rs1 : Nat) (off : BitVec 11) (th : Nat) : Word := d.reg a th false rs1 + sxw 11 off.toNat

/-- LD. -/
def Dev.ld (d : Dev) (a : Agent) (rd rs1 size space : Nat) (off : BitVec 11) : Dev :=
  let va := d.ea a rs1 off
  d.memInsn a (memWord 0x0A rd rs1 size space off.toNat) (spaceOk a space && decide (size < 7)) [rd, rs1] va space (sizeBytes size) false true
    fun d th h => d.loadOne a rd false size th (va th) h

/-- FLD. -/
def Dev.fld (d : Dev) (a : Agent) (rd rs1 size space : Nat) (off : BitVec 11) : Dev :=
  let va := d.ea a rs1 off
  d.memInsn a (memWord 0x0C rd rs1 size space off.toNat) (spaceOk a space && (size == 2 || size == 3) && d.fenOk a) [rs1] va space
    (sizeBytes size) false true fun d th h => d.loadOne a rd true size th (va th) h

/-- ST. -/
def Dev.st_ (d : Dev) (a : Agent) (rd rs1 size space : Nat) (off : BitVec 11) : Dev :=
  let va := d.ea a rs1 off
  let v (th : Nat) : List Byte := bytesOf (sizeBytes size) (d.reg a th false rd).toNat
  d.memInsn a (memWord 0x0B rd rs1 size space off.toNat) (spaceOk a space && decide (size < 4)) [rd, rs1] va space (sizeBytes size) true true
    fun d th h => d.storeOne a th (va th) (v th) h

/-- FST. -/
def Dev.fst_ (d : Dev) (a : Agent) (rd rs1 size space : Nat) (off : BitVec 11) : Dev :=
  let va := d.ea a rs1 off
  let v (th : Nat) : List Byte := bytesOf (sizeBytes size) (d.reg a th true rd).toNat
  d.memInsn a (memWord 0x0D rd rs1 size space off.toNat) (spaceOk a space && (size == 2 || size == 3) && d.fenOk a) [rs1] va space
    (sizeBytes size) true true fun d th h => d.storeOne a th (va th) (v th) h

/-- AMO (Table 5.7). -/
def Dev.amo (d : Dev) (a : Agent) (rd rs1 rs2 fn : Nat) : Dev :=
  let va (th : Nat) : Word := d.reg a th false rs1
  let src (th : Nat) : Word := d.reg a th false rs2
  let cmp (th : Nat) : Word := d.reg a th false rd
  let size := if fn.testBit 6 then 3 else 2
  d.memInsn a (insWord 0x0E rd rs1 (regLow rs2 fn)) (amoOk (profOf a) fn) [rd, rs1, rs2] va (b2n (fn.testBit 1)) (sizeBytes size) true false
    fun d th h => d.amoOne a rd (Machine.fld fn 10 7) size (Machine.fld fn 3 2) th (va th) (src th) (cmp th) h

/-! ### Responses (R368, R369) -/

/-- Bytes of v[vd] that a mask selects take the bytes of a response. -/
def Core.lanes (c : Core) (vd : Nat) (mask : BitVec 64) (off : Nat) (bs : List Byte) : Core :=
  let old := bytesOf 64 (c.rv vd).toNat
  let new := (List.range 64).map fun i => if mask.toNat.testBit i then nthD 0 bs (i - off) else nthD 0 old i
  c.wv vd (BitVec.ofNat 512 (leNat new))

/-- The response to an agent's access: its data go to their register, and the instruction ends with its last response; a bad status stops it. -/
def Dev.agentResp (d : Dev) (a : Agent) (dst : Dest) (len : Nat) (va pa : Word) (status : Nat) (bs : List Byte) : Dev :=
  if status ≠ stOk then
    if status = stPermission ∨ status = stDetected then
      let th := match dst with | .reg th .. => th | _ => 0
      (d.forget fun w => w.by_ = some a).raise a th (if status = stPermission then .perm va else .poison pa)
    else d.lose (.agent a dst len va pa)
  else
    let d := match dst with
      | .none_ => d
      | .reg th r flt size => d.setReg a th flt r (loadVal flt size (bs.take (sizeBytes size)))
      | .lanes vd mask off => match a with | .anvil c => d.setCore c.val fun x => x.lanes vd mask off bs | _ => d
    if d.agentBusy a then d else d.next a len

/-! ### The meanings -/

def execLd (a : Agent) (rd rs1 : BitVec 5) (size : BitVec 3) (space : BitVec 2) (off : BitVec 11) (s : State) : Host.Outcome State Fault Refusal :=
  s.act fun d => d.ld a rd.toNat rs1.toNat size.toNat space.toNat off
def execSt (a : Agent) (rd rs1 : BitVec 5) (size : BitVec 3) (space : BitVec 2) (off : BitVec 11) (s : State) : Host.Outcome State Fault Refusal :=
  s.act fun d => d.st_ a rd.toNat rs1.toNat size.toNat space.toNat off
def execFld (a : Agent) (rd rs1 : BitVec 5) (size : BitVec 3) (space : BitVec 2) (off : BitVec 11) (s : State) : Host.Outcome State Fault Refusal :=
  s.act fun d => d.fld a rd.toNat rs1.toNat size.toNat space.toNat off
def execFst (a : Agent) (rd rs1 : BitVec 5) (size : BitVec 3) (space : BitVec 2) (off : BitVec 11) (s : State) : Host.Outcome State Fault Refusal :=
  s.act fun d => d.fst_ a rd.toNat rs1.toNat size.toNat space.toNat off
def execAmo (a : Agent) (rd rs1 rs2 : BitVec 5) (fn : BitVec 11) (s : State) : Host.Outcome State Fault Refusal :=
  s.act fun d => d.amo a rd.toNat rs1.toNat rs2.toNat fn.toNat

end Sys2Proof.Machine
end

