-- ==== Sys2Proof/Machine/System.lean ====
section
/-! DEFINITION. Machine/System.lean: system registers, monitor calls, trap returns, waits and cache maintenance of the Anvil cores (R178 to R180, R184, R333, Tables 5.12 to 5.15). -/

namespace Sys2Proof.Machine

open Sys2Proof

/-! ### System registers -/

/-- ASR_STATUS (Table 5.15). -/
def Core.status (c : Core) : Word :=
  pack [(c.cpl, 10), (c.ppl, 8), (b2n c.pie, 7), (b2n c.ie, 6), (b2n c.sum, 5), (b2n c.ven, 4), (b2n c.fen, 3)]

/-- Registers that PL0 may use (Table 5.12). -/
def pl0Reg (n : Nat) : Bool := n == 0x00A || n == 0x010 || n == 0x011 || n == 0x012

/-- The PL1 registers of Table 5.14. -/
def pl1Reg (n : Nat) : Bool := decide (n ≤ 0x00B) || (decide (0x010 ≤ n) && decide (n ≤ 0x013))

/-- A PL1 system register of a core. ASR_SOFTIRQ, which is write-only, reads 0. -/
def Dev.asr (d : Dev) (core n : Nat) : Word :=
  let c := d.core core
  match n with
  | 0x000 => c.status
  | 0x001 => c.tvec
  | 0x002 => c.epc
  | 0x003 => c.cause
  | 0x004 => c.tval
  | 0x005 => c.scratch
  | 0x006 => BitVec.ofNat 64 c.ien
  | 0x007 => BitVec.ofNat 64 (d.ipend core)
  | 0x008 => c.ptroot
  | 0x009 => c.tcmp
  | 0x00A => BitVec.ofNat 64 c.fsr
  | 0x010 => d.timeW
  | 0x011 => BitVec.ofNat 64 c.strokes
  | 0x012 => BitVec.ofNat 64 c.retired
  | 0x013 => pack [(d.coreOwner core, 8), (core, 0)]
  | _ => 0

/-- ASR_STATUS takes its RW fields; a PPL above 1 is not taken (R178). -/
def Core.setStatus (c : Core) (v : Word) : Core :=
  { c with ppl := if Machine.wf v 9 8 < 2 then Machine.wf v 9 8 else c.ppl, pie := wb v 7, ie := wb v 6, sum := wb v 5, ven := wb v 4, fen := wb v 3 }

/-- ASR_FSR: the flags, and a rounding code of 0 or 1 (Table 5.14). -/
def Core.setFsr (c : Core) (v : Word) : Core :=
  { c with fsr := (if Machine.wf v 6 5 < 2 then Machine.wf v 6 5 else fld c.fsr 6 5) * 2 ^ 5 + Machine.wf v 4 0 }

/-- A write of a PL1 system register; read-only ones keep their value. -/
def Dev.setAsr (d : Dev) (core n : Nat) (v : Word) : Dev :=
  let put (f : Core → Core) : Dev := d.setCore core f
  match n with
  | 0x000 => put fun c => c.setStatus v
  | 0x001 => put fun c => { c with tvec := BitVec.ofNat 64 (v.toNat / 256 * 256) }
  | 0x002 => put fun c => { c with epc := v }
  | 0x003 => put fun c => { c with cause := v }
  | 0x004 => put fun c => { c with tval := v }
  | 0x005 => put fun c => { c with scratch := v }
  | 0x006 => put fun c => { c with ien := Machine.wf v 3 0 }
  | 0x008 => put fun c => { c with ptroot := v }
  | 0x009 => put fun c => { c with tcmp := v }
  | 0x00A => put fun c => c.setFsr v
  | 0x00B =>
    let t := v.toNat
    if t < 128 ∧ d.coreIn t ∧ d.coreOwner t = d.coreOwner core then d.setCore t fun c => { c with ipend := setBit c.ipend 0 } else d
  | _ => d

/-- ASR_IPEND: the bits given are cleared (W1C), TIMER's apart. -/
def Dev.clearIpend (d : Dev) (core : Nat) (v : Word) : Dev :=
  d.setCore core fun c => { c with ipend := c.ipend - (c.ipend &&& (wf v 3 0 &&& 0xD)) }

/-- What SRR, SRW, SRS and SRC (0 to 3) write, from the old value and x[rs1]; none is a read alone. -/
def sysNew (op : Nat) (old v : Word) : Option Word :=
  match op with
  | 0 => none
  | 1 => some v
  | 2 => some (old ||| v)
  | _ => some (old &&& ~~~v)

/-- A SYS instruction's word. -/
def sysWord (op rd rs1 reg : Nat) : Nat := insWord 0x1D rd rs1 (op * 2 ^ 12 + reg)

/-- SRR, SRW, SRS and SRC: levels first, then the access; the old value goes to x[rd]. -/
def Dev.sysReg (d : Dev) (a : Agent) (op rd rs1 reg : Nat) : Dev :=
  d.insn a 4 fun (d : Dev) =>
    let w := sysWord op rd rs1 reg
    match a with
    | .anvil c =>
      let core := c.val
      let lvl := (d.core core).cpl
      if op = 0 ∧ rs1 ≠ 0 then d.raise a 0 (.illegal w)
      else if 0x100 ≤ reg ∧ reg ≤ 0x1FF ∧ lvl < 2 then d.raise a 0 (.priv w)
      else if !pl1Reg reg then d.raise a 0 (.illegal w)
      else if lvl = 0 ∧ !pl0Reg reg then d.raise a 0 (.priv w)
      else
        let d := if reg = 0x011 then d.passStrokes a else d
        let old := d.asr core reg
        let v := (d.core core).rx rs1
        let d := match sysNew op old v with
          | none => d
          | some x => if reg = 0x007 then d.clearIpend core v else d.setAsr core reg x
        (d.setReg a 0 false rd old).next a 4
    | _ => d.raise a 0 (.illegal w)

/-! ### Calls, returns, waits -/

/-- Masks of a partition's cores in service: cores 64k to 64k + 63 (Table 10.6). -/
def Dev.coreMask (d : Dev) (n k : Nat) : Word :=
  BitVec.ofNat 64 ((List.range 64).foldl (fun m i => if d.coreIn (64 * k + i) ∧ d.coreOwner (64 * k + i) = n then setBit m i else m) 0)

/-- The monitor's answer to a TCALL at PL1 (Table 10.6). -/
def Dev.monitor (d : Dev) (core : Nat) : Dev :=
  let c := d.core core
  let n := d.coreOwner core
  let a (v : Word) (d : Dev) : Dev := d.setCore core fun c => c.wx 10 v
  match (c.rx 10).toNat with
  | 0 => a (BitVec.ofNat 64 n) (d.setCore core fun c => (c.wx 11 (d.coreMask n 0)).wx 12 (d.coreMask n 1))
  | 1 =>
    let t := (c.rx 11).toNat
    if d.canAstart n t then a 0 (d.startCore t c.ptroot (c.rx 12) (some (c.rx 13))) else a (BitVec.allOnes 64) d
  | 2 => d.stopCore core
  | _ => a (BitVec.allOnes 64) d

/-- The instruction uses none of rd, rs1 and its immediate (R161). -/
def bare (rd rs1 reg : Nat) : Bool := rd == 0 && rs1 == 0 && reg == 0

/-- A SYS instruction without operands, on an Anvil core; illegal elsewhere, and with an operand. -/
def Dev.sysBare (d : Dev) (a : Agent) (op rd rs1 reg : Nat) (k : Nat → Dev → Dev) : Dev :=
  d.insn a 4 fun (d : Dev) =>
    match a with
    | .anvil c => if bare rd rs1 reg then k c.val d else d.raise a 0 (.illegal (sysWord op rd rs1 reg))
    | _ => d.raise a 0 (.illegal (sysWord op rd rs1 reg))

/-- TCALL: a trap from PL0, a monitor call above it. -/
def Dev.tcall (d : Dev) (a : Agent) (rd rs1 reg : Nat) : Dev :=
  d.sysBare a 4 rd rs1 reg fun core d =>
    if (d.core core).cpl = 0 then d.trap core (d.core core).pc cTcall 0
    else (d.next a 4).monitor core

/-- TRET. -/
def Dev.tret (d : Dev) (a : Agent) (rd rs1 reg : Nat) : Dev :=
  d.sysBare a 5 rd rs1 reg fun core d =>
    if (d.core core).cpl = 0 then d.raise a 0 (.priv (sysWord 5 rd rs1 reg))
    else
      let tgt := (d.core core).epc
      ((d.setCore core fun c => { c with cpl := c.ppl, ie := c.pie }).goto a tgt).traceEv (coreKey core) 5 0 tgt.toNat tgt

/-- WFI. -/
def Dev.wfiInsn (d : Dev) (a : Agent) (rd rs1 reg : Nat) : Dev :=
  d.sysBare a 6 rd rs1 reg fun core d =>
    if (d.core core).cpl = 0 then d.raise a 0 (.priv (sysWord 6 rd rs1 reg))
    else (d.next a 4).setCore core fun c => { c with wfi := true }

/-- BREAK. -/
def Dev.breakInsn (d : Dev) (a : Agent) (rd rs1 reg : Nat) : Dev :=
  d.sysBare a 7 rd rs1 reg fun core d => d.trap core (d.core core).pc cBreak (d.core core).pc

/-! ### Cache maintenance (R184 to R186, Table 5.18) -/

/-- One operation on a line: 0 CLEAN, 1 CLEANINV, 2 INV. -/
def Dev.cmoLine (d : Dev) (op l : Nat) : Dev :=
  let m := (d.mem.holders l).foldl
    (fun (m : Mem) c =>
      let m := if op = 2 then m else m.cWriteBack d.gen c l
      if op = 0 then m else m.cDrop c l) d.mem
  { d with mem := m }

/-- The operation on the line that holds a virtual address, translated like a store; the flag says that it went through. -/
def Dev.cmoAt (d : Dev) (a : Agent) (core op : Nat) (va : Word) : Dev × Bool :=
  let r := d.accA core va.toNat 1 1
  match r.2.1 with
  | .bad k => (r.1.raise a 0 (excOf k 1 va), false)
  | .wait => (r.1, false)
  | .loc p => (if r.2.2 then r.1.cmoLine op (p / 128) else r.1, true)
  | _ => (r.1, true)

/-- At PL0 INV acts as CLEANINV. -/
def Dev.cmoOp (d : Dev) (core op : Nat) : Nat := if op = 2 ∧ (d.core core).cpl = 0 then 1 else op

/-- CLEAN, CLEANINV and INV. -/
def Dev.cmo (d : Dev) (a : Agent) (op rd rs1 rs2 : Nat) : Dev :=
  d.insn a 4 fun (d : Dev) =>
    let w := insWord 0x1E rd rs1 (regLow rs2 op)
    match a with
    | .anvil c =>
      if rd ≠ 0 ∨ rs2 ≠ 0 then d.raise a 0 (.illegal w)
      else
        let r := d.cmoAt a c.val (d.cmoOp c.val op) ((d.core c.val).rx rs1)
        if r.2 then r.1.next a 4 else r.1
    | _ => d.raise a 0 (.illegal w)

/-- Lines of a range in order, until one does not go through. -/
def Dev.cmoRange (a : Agent) (core op : Nat) (base : Nat) : Nat → Nat → Dev → Dev × Bool
  | 0, _, d => (d, true)
  | k + 1, i, d =>
    let va := BitVec.ofNat 64 (if i = 0 then base else (base / 128 + i) * 128)
    let r := d.cmoAt a core op va
    if r.2 then Dev.cmoRange a core op base k (i + 1) r.1 else r

/-- CMOR. -/
def Dev.cmor (d : Dev) (a : Agent) (rd rs1 : Nat) (imm : BitVec 42) : Dev :=
  d.insn a 8 fun (d : Dev) =>
    let w := longWord 0x10 rd rs1 imm
    match a with
    | .anvil c =>
      let op := ((d.core c.val).rx rs1).toNat
      let base := ((d.core c.val).rx rd).toNat
      let n := sx 42 imm.toNat
      if 3 ≤ op then d.raise a 0 (.illegal w)
      else if n ≤ 0 then d.next a 8
      else
        let lines := (base + n.toNat - 1) / 128 - base / 128 + 1
        let r := Dev.cmoRange a c.val (d.cmoOp c.val op) base lines 0 d
        if r.2 then r.1.next a 8 else r.1
    | _ => d.raise a 0 (.illegal w)

/-! ### The meanings -/

def execSrr (a : Agent) (rd rs1 : BitVec 5) (reg : BitVec 12) (s : State) : Host.Outcome State Fault Refusal :=
  s.act fun d => d.sysReg a 0 rd.toNat rs1.toNat reg.toNat
def execSrw (a : Agent) (rd rs1 : BitVec 5) (reg : BitVec 12) (s : State) : Host.Outcome State Fault Refusal :=
  s.act fun d => d.sysReg a 1 rd.toNat rs1.toNat reg.toNat
def execSrs (a : Agent) (rd rs1 : BitVec 5) (reg : BitVec 12) (s : State) : Host.Outcome State Fault Refusal :=
  s.act fun d => d.sysReg a 2 rd.toNat rs1.toNat reg.toNat
def execSrc (a : Agent) (rd rs1 : BitVec 5) (reg : BitVec 12) (s : State) : Host.Outcome State Fault Refusal :=
  s.act fun d => d.sysReg a 3 rd.toNat rs1.toNat reg.toNat
def execTcall (a : Agent) (rd rs1 : BitVec 5) (reg : BitVec 12) (s : State) : Host.Outcome State Fault Refusal :=
  s.act fun d => d.tcall a rd.toNat rs1.toNat reg.toNat
def execTret (a : Agent) (rd rs1 : BitVec 5) (reg : BitVec 12) (s : State) : Host.Outcome State Fault Refusal :=
  s.act fun d => d.tret a rd.toNat rs1.toNat reg.toNat
def execWfi (a : Agent) (rd rs1 : BitVec 5) (reg : BitVec 12) (s : State) : Host.Outcome State Fault Refusal :=
  s.act fun d => d.wfiInsn a rd.toNat rs1.toNat reg.toNat
def execBreak (a : Agent) (rd rs1 : BitVec 5) (reg : BitVec 12) (s : State) : Host.Outcome State Fault Refusal :=
  s.act fun d => d.breakInsn a rd.toNat rs1.toNat reg.toNat
def execInterrupt (core : Fin 128) (s : State) : Host.Outcome State Fault Refusal := s.act fun d => d.takeIrq core.val
def execTimer (core : Fin 128) (s : State) : Host.Outcome State Fault Refusal := s.act fun d => d.timerIrq core.val
def execClean (a : Agent) (rd rs1 rs2 : BitVec 5) (s : State) : Host.Outcome State Fault Refusal :=
  s.act fun d => d.cmo a 0 rd.toNat rs1.toNat rs2.toNat
def execCleaninv (a : Agent) (rd rs1 rs2 : BitVec 5) (s : State) : Host.Outcome State Fault Refusal :=
  s.act fun d => d.cmo a 1 rd.toNat rs1.toNat rs2.toNat
def execInv (a : Agent) (rd rs1 rs2 : BitVec 5) (s : State) : Host.Outcome State Fault Refusal :=
  s.act fun d => d.cmo a 2 rd.toNat rs1.toNat rs2.toNat
def execCmor (a : Agent) (rd rs1 : BitVec 5) (imm : BitVec 42) (s : State) : Host.Outcome State Fault Refusal :=
  s.act fun d => d.cmor a rd.toNat rs1.toNat imm

end Sys2Proof.Machine
end

