-- ==== Sys2Proof/Machine/Vector.lean ====
section
/-! DEFINITION. Machine/Vector.lean: the vector unit of the A profile: vector operations, loads and stores (R168, R181, Table 5.16). -/

namespace Sys2Proof.Machine

open Sys2Proof

/-! ### Operations -/

def vecWord (vd vs1 vs2 msk : Nat) (z : Bool) (vf vop : Nat) : Nat :=
  insWord 0x20 vd vs1 (vs2 * 2 ^ 11 + msk * 2 ^ 8 + b2n z * 2 ^ 7 + vf * 2 ^ 5 + vop)

/-- Legality of a vector operation's fields (R161, Table 5.16). -/
def vecOk (vd vs2 vf vop : Nat) : Bool :=
  if vop = 0x0B then decide (vs2 < 4)
  else if vop = 0x0C ∨ vop = 0x0D ∨ vop = 0x0E then decide (vd < 8)
  else if vop = 0x0F then decide (vs2 < 8)
  else if vop = 0x06 ∨ vop = 0x09 ∨ vop = 0x0A ∨ (0x10 ≤ vop ∧ vop ≤ 0x13) then decide (vs2 = 0)
  else if 0x14 ≤ vop then decide (vop ≤ 0x17) && decide (2 ≤ vf)
  else true

/-- Lane i is active under mask register msk. -/
def Core.laneOn (c : Core) (msk i : Nat) : Bool := (c.rm msk).toNat.testBit i

/-- ASR_FSR's rounding mode. -/
def Core.vmode (c : Core) : RMode := if fld c.fsr 6 5 = 0 then .rz else .rne

/-- The operation's result has an open value: an integer square root, or lanes that a narrowing conversion has no source for. -/
def vecOpen (vs2 vf vop : Nat) : Bool := (vop == 0x06 && decide (2 ≤ vf)) || (vop == 0x0B && decide (vLanes vs2 < vLanes vf))

/-- Value and flags of one lane; `open_` supplies the open values. -/
def Core.vecLane (c : Core) (vd vs1 vs2 vf vop : Nat) (open_ : Nat → Nat) (i : Nat) : Nat × Nat :=
  let a := lane vf (c.rv vs1) i
  let dst := lane vf (c.rv vd) i
  match vop with
  | 0x0B => if vLanes vs2 ≤ i then (open_ i, 0) else laneCvt vs2 vf c.vmode (lane vs2 (c.rv vs1) i)
  | 0x0F => (if c.laneOn vs2 i then a else dst, 0)
  | 0x10 => ((if vf < 2 then c.rf vs1 else c.rx vs1).toNat % 2 ^ vBits vf, 0)
  | _ => (laneOp vf vop c.vmode a (lane vf (c.rv vs2) i) dst).getD (open_ i, 0)

/-- Lanes in vd: a lane whose mask bit is 0 keeps its value or becomes 0 (R181). -/
def Core.putLanes (c : Core) (vd msk vf : Nat) (z : Bool) (f : Nat → Nat) : Core :=
  c.wv vd (ofLanes vf ((List.range (vLanes vf)).map fun i =>
    if c.laneOn msk i then f i else if z then 0 else lane vf (c.rv vd) i))

/-- Result of an operation on a core's registers. -/
def Core.vec (c : Core) (vd vs1 vs2 msk : Nat) (z : Bool) (vf vop : Nat) (open_ : Nat → Nat) : Core :=
  let is := (List.range (vLanes vf)).filter fun i => c.laneOn msk i
  if 0x11 ≤ vop ∧ vop ≤ 0x13 then
    let r := vReduce vf (vop - 0x11) c.vmode ((List.range (vLanes vf)).map fun i => if c.laneOn msk i then some (lane vf (c.rv vs1) i) else none)
    let c := { c with fsr := c.fsr ||| r.2 }
    if vf < 2 then c.wf vd (BitVec.ofNat 64 r.1) else c.wx vd (sxw (vBits vf) r.1)
  else
    let f (i : Nat) : Nat × Nat := c.vecLane vd vs1 vs2 vf vop open_ i
    let fl := is.foldl (fun a i => a ||| (f i).2) 0
    let c' := if 0x0C ≤ vop ∧ vop ≤ 0x0E
      then c.wm vd (BitVec.ofNat 16 (is.foldl (fun m i => if (f i).1 = 1 then setBit m i else m) 0))
      else c.putLanes vd msk vf z fun i => (f i).1
    { c' with fsr := c'.fsr ||| fl }

/-- A vector instruction: A only, illegal where VEN is 0 (Table 5.15). -/
def Dev.vecInsn (d : Dev) (a : Agent) (len w : Nat) (ok : Bool) (k : Nat → Dev → Dev) : Dev :=
  d.insn a len fun (d : Dev) =>
    match a with
    | .anvil c => if ok && (d.core c.val).ven then k c.val d else d.raise a 0 (.illegal w)
    | _ => d.raise a 0 (.illegal w)

/-- VECTOR_OP. -/
def Dev.vectorOp (d : Dev) (a : Agent) (vd vs1 vs2 msk : Nat) (z : Bool) (vf vop : Nat) : Dev :=
  d.vecInsn a 4 (vecWord vd vs1 vs2 msk z vf vop) (vecOk vd vs2 vf vop) fun core d =>
    let fi := d.fi
    let d := if vecOpen vs2 vf vop then { d with fi := fi + 16 } else d
    (d.setCore core fun c => c.vec vd vs1 vs2 msk z vf vop fun i => (Config.free (fi + i)).toNat % 2 ^ vBits vf).next a 4

/-! ### Loads and stores -/

/-- Bytes of a vector register that the active lanes of n bytes cover. -/
def Core.byteMask (c : Core) (msk n : Nat) : Nat :=
  (List.range (64 / n)).foldl (fun m i => if c.laneOn msk i then m + (2 ^ n - 1) * 2 ^ (n * i) else m) 0

/-- Runs of selected bytes, each within one unit of u bytes: offset and length. -/
def maskRuns (u mask : Nat) : List (Nat × Nat) :=
  (List.range 64).foldr (fun i l =>
    if !mask.testBit i then l
    else match l with
      | (o, n) :: rest => if o = i + 1 ∧ o % u ≠ 0 then (i, n + 1) :: rest else (i, 1) :: l
      | [] => [(i, 1)]) []

/-- A place that takes accesses of at most 8 bytes: a register view. -/
def Acc.narrow : Acc → Bool
  | .loc p => isView p
  | _ => false

/-- The address i bytes on. -/
def Acc.at_ (x : Acc) (i : Nat) : Acc :=
  match x with
  | .loc p => .loc (p + i)
  | .host b => .host (b + i)
  | .remote k p => .remote k (p + i)
  | y => y

/-- Reads runs for a vector register, one after another: none of it lands where one is bad. -/
def Dev.readRuns (a : Agent) (x : Acc) (cached : Bool) : List (Nat × Nat) → Dev → Dev × Except Exc (List (Nat × List Byte))
  | [], d => (d, .ok [])
  | (o, n) :: rest, d =>
    let r := d.readFor a (x.at_ o) cached n
    match r.2 with
    | .error e => (r.1, .error e)
    | .ok bs =>
      let q := Dev.readRuns a x cached rest r.1
      match q.2 with
      | .ok l => (q.1, .ok ((o, bs) :: l))
      | .error e => (q.1, .error e)

/-- Writes the selected bytes of a vector register, run by run. -/
def Dev.writeRuns (a : Agent) (x : Acc) (cached : Bool) (va : Word) (v : List Byte) : List (Nat × Nat) → Dev → Dev × Option Exc
  | [], d => (d, none)
  | (o, n) :: rest, d =>
    let r := d.writeFor a (x.at_ o) cached (va + BitVec.ofNat 64 o) ((v.drop o).take n)
    match r.2 with
    | some e => (r.1, some e)
    | none => Dev.writeRuns a x cached va v rest r.1

def vldWord (maj vd rs1 msk : Nat) (z rsv : Bool) (off : Nat) : Nat :=
  insWord maj vd rs1 (msk * 2 ^ 13 + b2n z * 2 ^ 12 + b2n rsv * 2 ^ 11 + off)

/-- Address of VLD and VST: the offset counts 64-byte units (R164). -/
def Core.vea (c : Core) (rs1 : Nat) (off : BitVec 11) : Word := c.rx rs1 + sxw 11 off.toNat * 64

/-- Bytes of a mask lane of VLD and VST, and of a lane of VLDS and VSTS (log 12). -/
def vldLane : Nat := if Config.vldDouble then 8 else 4
def vldsLane : Nat := if Config.vldsDouble then 8 else 4

/-- The instruction ends, or goes on when its responses have come. -/
def Dev.nextIdle (d : Dev) (a : Agent) (len : Nat) : Dev := if d.agentBusy a then d else d.next a len

/-- VLD. -/
def Dev.vld (d : Dev) (a : Agent) (vd rs1 msk : Nat) (z rsv : Bool) (off : BitVec 11) : Dev :=
  d.vecInsn a 4 (vldWord 0x21 vd rs1 msk z rsv off.toNat) (!rsv) fun core d =>
    let c := d.core core
    let va := c.vea rs1 off
    let mask := c.byteMask msk vldLane
    let r := d.accCore core va 64 0
    let clr (d : Dev) : Dev := if z then d.setCore core fun c => c.lanes vd (~~~(BitVec.ofNat 64 mask)) 0 [] else d
    match r.2 with
    | .stop e => r.1.raise a 0 e
    | .go (.remote pkg pa) _ =>
      if mask = 0 then (clr r.1).next a 4
      else
        let q := r.1.sendOut a (.lanes vd (BitVec.ofNat 64 mask) 0) 4 va pkg pa kRead 64 []
        if q.2 then clr q.1 else q.1
    | .go x cached =>
      let runs := if x.narrow then maskRuns 8 mask else if mask = 0 then [] else [(0, 64)]
      let q := Dev.readRuns a x cached runs r.1
      match q.2 with
      | .error e => q.1.raise a 0 e
      | .ok l =>
        ((clr q.1).setCore core fun c => l.foldl
          (fun (c : Core) (e : Nat × List Byte) => c.lanes vd (BitVec.ofNat 64 (mask &&& ((2 ^ e.2.length - 1) * 2 ^ e.1))) e.1 e.2) c).next a 4
    | _ => r.1

/-- VST: only active lanes are stored. -/
def Dev.vst (d : Dev) (a : Agent) (vd rs1 msk : Nat) (z rsv : Bool) (off : BitVec 11) : Dev :=
  d.vecInsn a 4 (vldWord 0x22 vd rs1 msk z rsv off.toNat) (!rsv) fun core d =>
    let c := d.core core
    let va := c.vea rs1 off
    let mask := c.byteMask msk vldLane
    let v := bytesOf 64 (c.rv vd).toNat
    let r := d.accCore core va 64 1
    match r.2 with
    | .stop e => r.1.raise a 0 e
    | .go (.remote pkg pa) _ =>
      ((maskRuns 64 mask).foldl
        (fun (p : Dev × Bool) (e : Nat × Nat) =>
          if p.2 then p.1.sendOut a .none_ 4 (va + BitVec.ofNat 64 e.1) pkg (pa + e.1) kWrite 0 ((v.drop e.1).take e.2) else p) (r.1, true)).1.nextIdle a 4
    | .go x cached =>
      let q := Dev.writeRuns a x cached va v (maskRuns (if x.narrow then 8 else 64) mask) r.1
      match q.2 with
      | some e => q.1.raise a 0 e
      | none => q.1.next a 4
    | _ => r.1

/-- Address of lane i of a strided access. -/
def Core.stride (c : Core) (rs1 : Nat) (imm : BitVec 42) (i : Nat) : Word := c.rx rs1 + BitVec.ofNat 64 i * sxw 42 imm.toNat

/-- A strided access: every lane is checked before any acts, then the lanes act in order. -/
def Dev.strided (d : Dev) (a : Agent) (lop rd rs1 : Nat) (imm : BitVec 42) (write : Bool) (act : Nat → (Nat → Word) → Dev → Nat → Hit → Dev × Bool) : Dev :=
  d.vecInsn a 8 (longWord lop rd rs1 imm) true fun core d =>
    let va := (d.core core).stride rs1 imm
    let r := Dev.accesses a va 0 vldsLane write true (List.range (64 / vldsLane)) d
    match r.2 with
    | .error none => r.1
    | .error (some (_, e)) => r.1.raise a 0 e
    | .ok l =>
      let q := Dev.each (act core va) l r.1
      if q.2 then q.1.nextIdle a 8 else q.1

/-- VLDS. -/
def Dev.vlds (d : Dev) (a : Agent) (vd rs1 : Nat) (imm : BitVec 42) : Dev :=
  let n := vldsLane
  d.strided a 0x11 vd rs1 imm false fun core va d i h =>
    let mask := BitVec.ofNat 64 ((2 ^ n - 1) * 2 ^ (n * i))
    match h with
    | .go (.remote pkg pa) _ => d.sendOut a (.lanes vd mask (n * i)) 8 (va i) pkg pa kRead (BitVec.ofNat 64 n) []
    | .go x c =>
      let r := d.readFor a x c n
      match r.2 with
      | .ok bs => (r.1.setCore core fun c => c.lanes vd mask (n * i) bs, true)
      | .error e => r.1.orRaise a 0 (some e)
    | _ => (d, true)

/-- VSTS. -/
def Dev.vsts (d : Dev) (a : Agent) (vd rs1 : Nat) (imm : BitVec 42) : Dev :=
  let n := vldsLane
  d.strided a 0x12 vd rs1 imm true fun core va d i h =>
    let bs := ((bytesOf 64 ((d.core core).rv vd).toNat).drop (n * i)).take n
    match h with
    | .go (.remote pkg pa) _ => d.sendOut a .none_ 8 (va i) pkg pa kWrite 0 bs
    | .go x c => let r := d.writeFor a x c (va i) bs; r.1.orRaise a 0 r.2
    | _ => (d, true)

/-! ### The meanings -/

def execVectorOp (a : Agent) (vd vs1 vs2 : BitVec 5) (msk : BitVec 3) (z : Bool) (vf : BitVec 2) (vop : BitVec 5) (s : State) : Host.Outcome State Fault Refusal :=
  s.act fun d => d.vectorOp a vd.toNat vs1.toNat vs2.toNat msk.toNat z vf.toNat vop.toNat
def execVld (a : Agent) (vd rs1 : BitVec 5) (msk : BitVec 3) (z rsv : Bool) (off : BitVec 11) (s : State) : Host.Outcome State Fault Refusal :=
  s.act fun d => d.vld a vd.toNat rs1.toNat msk.toNat z rsv off
def execVst (a : Agent) (vd rs1 : BitVec 5) (msk : BitVec 3) (z rsv : Bool) (off : BitVec 11) (s : State) : Host.Outcome State Fault Refusal :=
  s.act fun d => d.vst a vd.toNat rs1.toNat msk.toNat z rsv off
def execVlds (a : Agent) (rd rs1 : BitVec 5) (imm : BitVec 42) (s : State) : Host.Outcome State Fault Refusal :=
  s.act fun d => d.vlds a rd.toNat rs1.toNat imm
def execVsts (a : Agent) (rd rs1 : BitVec 5) (imm : BitVec 42) (s : State) : Host.Outcome State Fault Refusal :=
  s.act fun d => d.vsts a rd.toNat rs1.toNat imm

end Sys2Proof.Machine
end

