-- ==== Sys2Proof/Machine/Smith.lean ====
section
/-! DEFINITION. Machine/Smith.lean: the TILE instructions of the S profile (R169 to R173, Table 5.8). -/

namespace Sys2Proof.Machine

open Sys2Proof

def tileWord (fn rd rs1 rs2 : Nat) : Nat := insWord 0x24 rd rs1 (regLow rs2 fn)

/-- A TILE instruction: S only. `xs` are the x registers it touches; k answers none where the Smith core waits by handshake (R169, R170). -/
def Dev.tileInsn (d : Dev) (a : Agent) (fn rd rs1 rs2 : Nat) (ok : Bool) (xs : List Nat) (k : Tile → Option Tile) : Dev :=
  d.insn a 4 fun (d : Dev) =>
    match a with
    | .smith t =>
      if !ok then d.raise a 0 (.illegal (tileWord fn rd rs1 rs2))
      else if d.reservedReg a xs then d
      else match k (d.tile t.key) with
        | none => d
        | some x => (d.setTile t.key fun _ => x).next a 4
    | _ => d.raise a 0 (.illegal (tileWord fn rd rs1 rs2))

/-- CISSUE. -/
def Dev.cissue (d : Dev) (a : Agent) (rd rs1 rs2 : Nat) : Dev :=
  d.tileInsn a 0x000 rd rs1 rs2 (rd == 0 && rs2 == 0) [rs1] fun t => t.cissue (t.rx rs1)

/-- CVT. -/
def Dev.cvtInsn (d : Dev) (a : Agent) (rd rs1 rs2 : Nat) : Dev :=
  d.tileInsn a 0x001 rd rs1 rs2 (decide (rd < 4)) [rs1, rs2] fun t => t.cvt rd (t.rx rs1) (t.rx rs2)

/-- WSPLIT. -/
def Dev.wsplitInsn (d : Dev) (a : Agent) (rd rs1 rs2 : Nat) : Dev :=
  d.tileInsn a 0x002 rd rs1 rs2 (rd == 0 && rs2 == 0) [rs1] fun t => t.wsplit (t.rx rs1)

/-- BLD. -/
def Dev.bldInsn (d : Dev) (a : Agent) (rd rs1 rs2 : Nat) : Dev :=
  d.tileInsn a 0x003 rd rs1 rs2 (rd == 0) [rs1, rs2] fun t => t.bld (t.rx rs1) (t.rx rs2)

/-- SWG. -/
def Dev.swgInsn (d : Dev) (a : Agent) (rd rs1 rs2 : Nat) : Dev :=
  d.tileInsn a 0x004 rd rs1 rs2 (rs2 == 0) [rd, rs1] fun t => t.swg (t.rx rs1) rd

/-- SSEED. -/
def Dev.sseedInsn (d : Dev) (a : Agent) (rd rs1 rs2 : Nat) : Dev :=
  d.tileInsn a 0x005 rd rs1 rs2 (rd == 0 && rs2 == 0) [rs1] fun t => some (t.sseed (t.rx rs1))

/-- TLAUNCH. -/
def Dev.tlaunchInsn (d : Dev) (a : Agent) (rd rs1 rs2 : Nat) : Dev :=
  d.tileInsn a 0x006 rd rs1 rs2 (rd == 0 && rs2 == 0) [rs1] fun t => t.tlaunch (t.rx rs1)

/-- WAIT: the rs2 field is the mask of units. -/
def Dev.waitInsn (d : Dev) (a : Agent) (rd rs1 rs2 : Nat) : Dev :=
  d.tileInsn a 0x007 rd rs1 rs2 (rd == 0 && rs1 == 0) [] fun t => if t.unitsDone rs2 then some t else none

/-- No Swage program of the Smith core is queued or running: a register then holds what the programs issued before left (R144). -/
def Tile.swageIdle (t : Tile) : Bool := t.sq.isEmpty && t.srun.isNone

/-- VRD. -/
def Dev.vrdInsn (d : Dev) (a : Agent) (rd rs1 rs2 : Nat) : Dev :=
  d.tileInsn a 0x008 rd rs1 rs2 true [rd, rs2] fun t => 
    if !t.swageIdle then none
    else
      let w := 64 * rs1 + (t.rx rs2).toNat % 64
      some (if t.bad.contains (arrV.base + w) then t.fail (.parity (BitVec.ofNat 64 (4 * w))) 0 0 t.pc
        else t.wx rd ((t.vslot rs1 (t.rx rs2).toNat).setWidth 64))

/-- VWR. -/
def Dev.vwrInsn (d : Dev) (a : Agent) (rd rs1 rs2 : Nat) : Dev :=
  d.tileInsn a 0x009 rd rs1 rs2 true [rs1, rs2] fun t => 
    if !t.swageIdle then none
    else
      let t := { t with bad := t.bad.filter fun x => x != arrV.base + (64 * rd + (t.rx rs2).toNat % 64) }
      some (t.setVslot rd (t.rx rs2).toNat ((t.rx rs1).setWidth 32))

/-- KEND: no further instruction executes; the task ends at TASK_END (R173). -/
def Dev.kendInsn (d : Dev) (a : Agent) (rd rs1 rs2 : Nat) : Dev :=
  d.tileInsn a 0x00A rd rs1 rs2 (rd == 0 && rs1 == 0 && rs2 == 0) [] fun t => some { t with kend := true }

/-! ### The meanings -/

def execCissue (a : Agent) (rd rs1 rs2 : BitVec 5) (s : State) : Host.Outcome State Fault Refusal :=
  s.act fun d => d.cissue a rd.toNat rs1.toNat rs2.toNat
def execCvt (a : Agent) (rd rs1 rs2 : BitVec 5) (s : State) : Host.Outcome State Fault Refusal :=
  s.act fun d => d.cvtInsn a rd.toNat rs1.toNat rs2.toNat
def execWsplit (a : Agent) (rd rs1 rs2 : BitVec 5) (s : State) : Host.Outcome State Fault Refusal :=
  s.act fun d => d.wsplitInsn a rd.toNat rs1.toNat rs2.toNat
def execBld (a : Agent) (rd rs1 rs2 : BitVec 5) (s : State) : Host.Outcome State Fault Refusal :=
  s.act fun d => d.bldInsn a rd.toNat rs1.toNat rs2.toNat
def execSwg (a : Agent) (rd rs1 rs2 : BitVec 5) (s : State) : Host.Outcome State Fault Refusal :=
  s.act fun d => d.swgInsn a rd.toNat rs1.toNat rs2.toNat
def execSseed (a : Agent) (rd rs1 rs2 : BitVec 5) (s : State) : Host.Outcome State Fault Refusal :=
  s.act fun d => d.sseedInsn a rd.toNat rs1.toNat rs2.toNat
def execTlaunch (a : Agent) (rd rs1 rs2 : BitVec 5) (s : State) : Host.Outcome State Fault Refusal :=
  s.act fun d => d.tlaunchInsn a rd.toNat rs1.toNat rs2.toNat
def execWaitInstr (a : Agent) (rd rs1 rs2 : BitVec 5) (s : State) : Host.Outcome State Fault Refusal :=
  s.act fun d => d.waitInsn a rd.toNat rs1.toNat rs2.toNat
def execVrd (a : Agent) (rd rs1 rs2 : BitVec 5) (s : State) : Host.Outcome State Fault Refusal :=
  s.act fun d => d.vrdInsn a rd.toNat rs1.toNat rs2.toNat
def execVwr (a : Agent) (rd rs1 rs2 : BitVec 5) (s : State) : Host.Outcome State Fault Refusal :=
  s.act fun d => d.vwrInsn a rd.toNat rs1.toNat rs2.toNat
def execKend (a : Agent) (rd rs1 rs2 : BitVec 5) (s : State) : Host.Outcome State Fault Refusal :=
  s.act fun d => d.kendInsn a rd.toNat rs1.toNat rs2.toNat

end Sys2Proof.Machine
end

