-- ==== Sys2Proof/Machine/Threads.lean ====
section
/-! DEFINITION. Machine/Threads.lean: the mask, barrier and group instructions of the L profile (R152, R153, R156, R174, R175, R177, Table 5.10). -/

namespace Sys2Proof.Machine

open Sys2Proof

/-- An L instruction on its group: the word, legality, and what it makes of the group, or the exception that stops it; `pushes` counts as event 27. -/
def Dev.groupInsn (d : Dev) (a : Agent) (w : Nat) (ok : Bool) (k : Group → Except Exc Group) (pushes : Nat := 0) : Dev :=
  d.insn a 4 fun (d : Dev) =>
    match a with
    | .group t g =>
      if !ok then d.raise a 0 (.illegal w)
      else match k (d.grp t g) with
        | .error e => d.raise a 0 e
        | .ok y => (((d.countInsn a).count (d.acctOf a) 27 pushes).setGrp t g fun _ => y).next a 4
    | _ => d.raise a 0 (.illegal w)

def maskWord (fn rd rs1 rs2 : Nat) : Nat := insWord 0x29 rd rs1 (regLow rs2 fn)

/-- MPUSH: rpc = pc + 4 · IMM16; an MPUSH on a full stack fails (R152, R153). -/
def Group.push (g : Group) (imm : BitVec 16) : Except Exc Group :=
  if 16 ≤ g.stack.length then .error .maskStack
  else .ok { g with stack := (g.m0, g.pc + sxw 16 imm.toNat * 4) :: g.stack }

/-- MAND. -/
def Group.mand (g : Group) (mc : Nat) : Group := g.setMask 0 (g.m0 &&& g.mask mc)
/-- MELSE: the top entry's mask, or the full thread mask, without m[mc]. -/
def Group.melse (g : Group) (mc : Nat) : Group := g.setMask 0 ((match g.stack with | (m, _) :: _ => m | [] => g.full) &&& ~~~(g.mask mc))
/-- MPOP. -/
def Group.mpop (g : Group) : Group :=
  match g.stack with
  | (m, _) :: rest => { g with stack := rest }.setMask 0 m
  | [] => g.setMask 0 g.full

/-- R174: a compare per active thread, 0 elsewhere. -/
def Group.compare (g : Group) (md : Nat) (f : Nat → Bool) : Group :=
  g.setMask md (BitVec.ofNat 64 (g.active.foldl (fun m t => if f t then setBit m t else m) 0))

/-- MRD: each active thread's x[rd]. -/
def Group.mrd (g : Group) (rd ms : Nat) : Group := g.active.foldl (fun h t => h.wx t rd (g.mask ms)) g
/-- MWR: x[rs1] of the highest-numbered active thread. -/
def Group.mwr (g : Group) (md rs1 : Nat) : Group :=
  match g.active.getLast? with
  | some t => g.setMask md (g.rx t rs1)
  | none => g

/-- R175. -/
def Group.branches (g : Group) (cond mc : Nat) : Bool :=
  let v := g.mask mc &&& g.m0
  match cond with
  | 0 => v != 0
  | 1 => v == g.m0
  | _ => v == 0

/-- FN of the mask-logic and compare instructions (Table 5.10). -/
def maskFn : MaskOp → Nat
  | .mland => 0x008 | .mlor => 0x009 | .mlxor => 0x00A | .mlandn => 0x00B
def intCmpFn : IntCmp → Nat
  | .mceq => 0x010 | .mcne => 0x011 | .mclt => 0x012 | .mcge => 0x013 | .mcltu => 0x014 | .mcgeu => 0x015
def floatCmpFn : FloatCmp → Nat
  | .mfeq => 0x018 | .mflt => 0x019 | .mfle => 0x01A | .mfun => 0x01B

/-- MBR (BRA format): COND in 25:24, mc in 23:21. -/
def mbrWord (cond mc zf off : Nat) : Nat := insWord 0x2A (cond * 8 + mc) zf off

/-- MBR: the next instruction, or the branch target. -/
def Dev.mbr (d : Dev) (a : Agent) (cond mc zf : Nat) (off : BitVec 16) : Dev :=
  d.insn a 4 fun (d : Dev) =>
    match a with
    | .group t g =>
      let y := d.grp t g
      if cond = 3 ∨ zf ≠ 0 then d.raise a 0 (.illegal (mbrWord cond mc zf off.toNat))
      else (d.countInsn a).goto a (if y.branches cond mc then y.pc + sxw 16 off.toNat * 4 else y.pc + 4)
    | _ => d.raise a 0 (.illegal (mbrWord cond mc zf off.toNat))

/-- CBAR: the group waits at the barrier; CBAR_COMPLETE takes it on (R156). -/
def Dev.cbar (d : Dev) (a : Agent) (rd rs1 rs2 : Nat) : Dev :=
  d.insn a 4 fun (d : Dev) =>
    let w := insWord 0x2B rd rs1 (regLow rs2 0)
    match a with
    | .group t g =>
      if rd ≠ 0 ∨ rs1 ≠ 0 ∨ rs2 ≠ 0 then d.raise a 0 (.illegal w)
      else (d.countInsn a).setGrp t g fun y => { y with bar := true }
    | _ => d.raise a 0 (.illegal w)

/-- GEND (R177). -/
def Dev.gend (d : Dev) (a : Agent) (rd rs1 rs2 : Nat) : Dev :=
  d.insn a 4 fun (d : Dev) =>
    let w := insWord 0x2B rd rs1 (regLow rs2 1)
    match a with
    | .group t g =>
      if rd ≠ 0 ∨ rs1 ≠ 0 ∨ rs2 ≠ 0 then d.raise a 0 (.illegal w)
      else (d.countInsn a).setTile t.key fun x => x.endGroup g.val
    | _ => d.raise a 0 (.illegal w)

/-! ### The meanings -/

def execMpush (a : Agent) (rd rs1 : BitVec 5) (imm : BitVec 16) (s : State) : Host.Outcome State Fault Refusal :=
  s.act fun d => d.groupInsn a (insWord 0x28 rd.toNat rs1.toNat imm.toNat) (rd == 0 && rs1 == 0) (fun g => g.push imm) 1
def execMand (a : Agent) (rd rs1 rs2 : BitVec 5) (s : State) : Host.Outcome State Fault Refusal :=
  s.act fun d => d.groupInsn a (maskWord 0x000 rd.toNat rs1.toNat rs2.toNat) (rd == 0 && rs2 == 0 && decide (rs1.toNat < 8))
    fun g => .ok (g.mand rs1.toNat)
def execMelse (a : Agent) (rd rs1 rs2 : BitVec 5) (s : State) : Host.Outcome State Fault Refusal :=
  s.act fun d => d.groupInsn a (maskWord 0x001 rd.toNat rs1.toNat rs2.toNat) (rd == 0 && rs2 == 0 && decide (rs1.toNat < 8))
    fun g => .ok (g.melse rs1.toNat)
def execMpop (a : Agent) (rd rs1 rs2 : BitVec 5) (s : State) : Host.Outcome State Fault Refusal :=
  s.act fun d => d.groupInsn a (maskWord 0x002 rd.toNat rs1.toNat rs2.toNat) (rd == 0 && rs2 == 0 && rs1 == 0) fun g => .ok g.mpop
def execMland (a : Agent) (op : MaskOp) (rd rs1 rs2 : BitVec 5) (s : State) : Host.Outcome State Fault Refusal :=
  s.act fun d => d.groupInsn a (maskWord (maskFn op) rd.toNat rs1.toNat rs2.toNat)
    (decide (rd.toNat < 8) && decide (rs1.toNat < 8) && decide (rs2.toNat < 8))
    fun g => .ok (g.setMask rd.toNat (maskOp op (g.mask rs1.toNat) (g.mask rs2.toNat)))
def execMceq (a : Agent) (op : IntCmp) (rd rs1 rs2 : BitVec 5) (s : State) : Host.Outcome State Fault Refusal :=
  s.act fun d => d.groupInsn a (maskWord (intCmpFn op) rd.toNat rs1.toNat rs2.toNat) (decide (rd.toNat < 8))
    fun g => .ok (g.compare rd.toNat fun t => intCmp op (g.rx t rs1.toNat) (g.rx t rs2.toNat))
def execMfeq (a : Agent) (op : FloatCmp) (dbl : Bool) (rd rs1 rs2 : BitVec 5) (s : State) : Host.Outcome State Fault Refusal :=
  s.act fun d => d.groupInsn a (maskWord (floatCmpFn op + 0x20 * b2n dbl) rd.toNat rs1.toNat rs2.toNat) (decide (rd.toNat < 8))
    fun g => .ok (g.compare rd.toNat fun t => floatCmp op dbl (g.rf t rs1.toNat) (g.rf t rs2.toNat))
def execMrd (a : Agent) (rd rs1 rs2 : BitVec 5) (s : State) : Host.Outcome State Fault Refusal :=
  s.act fun d => d.groupInsn a (maskWord 0x020 rd.toNat rs1.toNat rs2.toNat) (rs2 == 0 && decide (rs1.toNat < 8))
    fun g => .ok (g.mrd rd.toNat rs1.toNat)
def execMwr (a : Agent) (rd rs1 rs2 : BitVec 5) (s : State) : Host.Outcome State Fault Refusal :=
  s.act fun d => d.groupInsn a (maskWord 0x021 rd.toNat rs1.toNat rs2.toNat) (rs2 == 0 && decide (rd.toNat < 8))
    fun g => .ok (g.mwr rd.toNat rs1.toNat)
def execMbr (a : Agent) (cond : BitVec 2) (mc : BitVec 3) (zf : BitVec 5) (off : BitVec 16) (s : State) : Host.Outcome State Fault Refusal :=
  s.act fun d => d.mbr a cond.toNat mc.toNat zf.toNat off
def execCbar (a : Agent) (rd rs1 rs2 : BitVec 5) (s : State) : Host.Outcome State Fault Refusal :=
  s.act fun d => d.cbar a rd.toNat rs1.toNat rs2.toNat
def execGend (a : Agent) (rd rs1 rs2 : BitVec 5) (s : State) : Host.Outcome State Fault Refusal :=
  s.act fun d => d.gend a rd.toNat rs1.toNat rs2.toNat

end Sys2Proof.Machine
end

