-- ==== Sys2Proof/Machine/Serving.lean ====
section
/-! DEFINITION. Machine/Serving.lean: the sequence table, ADMIT, RETIRE, STEP, batch assembly, billets, step graphs, attention in place and re-resolution (R268 to R283, R289). -/

namespace Sys2Proof.Machine

open Sys2Proof

/-! ### Accesses of the Tongs at a partition's virtual addresses -/

/-- A run of Tongs accesses over the package. It stops with a status, or with none where it must wait for a wake. -/
abbrev Tm (α : Type) : Type := ExceptT (Option Nat) (StateM Dev) α

def Tm.fail {α : Type} (st : Nat) : Tm α := throw (some st)
def Tm.lift {α : Type} (f : Dev → Dev × Except (Option Nat) α) : Tm α := ExceptT.mk fun d => let r := f d; (r.2, r.1)
def Tm.run {α : Type} (m : Tm α) (d : Dev) : Except (Option Nat) α × Dev := (ExceptT.run m) d

/-- The Tongs' own port; its reads and writes carry the partition's key ID. -/
def tgReq (n : Nat) (a : Acct) : Req := ⟨portXfer, n, a⟩

/-- A virtual range of partition n, checked: local, allowed and without error. -/
def tgAcc (n : Nat) (a : Acct) (va len : Nat) (write : Bool) : Tm (List (Acc × Nat)) :=
  Tm.lift fun d =>
    let r := Dev.accRange n write a (pieces va len) d
    match r.2 with
    | .error (_, 0) => (r.1, .error none)
    | .error (_, k) => (r.1, .error (some (kindStatus k)))
    | .ok l =>
      let far := l.any fun p => match p.1 with | .remote .. => true | _ => false
      if far || (write && (touchesCredit l || (r.1.refusedBy l).isSome)) then (r.1, .error (some stPermission))
      else if !write && (r.1.badIn l).isSome then (r.1, .error (some stDetected))
      else (r.1, .ok l)

def tgRead (n : Nat) (a : Acct) (va len : Nat) : Tm (List Byte) := do
  let l ← tgAcc n a va len false
  Tm.lift fun d => let r := Dev.readAll (tgReq n a) l d; (r.1, .ok r.2)

def tgWrite (n : Nat) (a : Acct) (va : Nat) (bs : List Byte) : Tm Unit := do
  let l ← tgAcc n a va bs.length true
  modify fun d => Dev.writeAll (tgReq n a) l bs d

/-- One 64-bit word. -/
def tgWord (n : Nat) (a : Acct) (va : Nat) (v : Nat) : Tm Unit := tgWrite n a va (bytesOf 8 v)

/-- A command that acts in one action: its effects, or a wait that leaves only the wish for a wake, or an end without effect. -/
def Dev.tongsRun (d : Dev) (m : Tm Unit) (fail : Nat → Dev → Dev) : Dev :=
  match m.run d with
  | (.ok _, e) => e
  | (.error none, e) => { d with tongs := { d.tongs with want := e.tongs.want } }
  | (.error (some st), e) => fail st { d with cntQ := e.cntQ, cntP := e.cntP }

/-- An error in the data of work that is not restrike-safe is a partition fault (R215). -/
def Dev.tongsErr (d : Dev) (c : Cmd) (rsafe : Bool) (st : Nat) : Dev :=
  if st ≠ stDetected then d else let d := d.count c.acct 57 1; if rsafe then d else d.partFault c.part
/-- A serving command ends with a fault. -/
def Dev.tongsFail (d : Dev) (c : Cmd) (st : Nat) : Dev := (d.tongsErr c c.rsafe st).complete c.ref st

/-! ### The sequence table (Table 8.4) -/

/-- A sequence entry as the Tongs reads it. -/
structure SeqE where
  slot : Nat
  state : Nat
  gen : Nat
  steps : Nat
  ctx : Nat
  hold : Bool
  inlen : Nat
  maxctx : Nat
  plen : Nat
  btab : Nat
deriving DecidableEq, Repr

def seqOf (slot : Nat) (b : List Byte) : SeqE :=
  { slot := slot, state := bfld b 0 63 62, gen := bfld b 0 31 0, steps := bfld b 8 63 32, ctx := bfld b 8 31 0, hold := bfld b 0x10 63 63 == 1
    inlen := bfld b 0x10 31 0, maxctx := bfld b 0x18 63 32, plen := bfld b 0x18 31 0, btab := bfld b 0x20 63 0 }

def seqAddr (t : Tng) (slot : Nat) : Nat := t.seqbase.toNat + 64 * slot

def readSeq (n : Nat) (a : Acct) (t : Tng) (slot : Nat) : Tm SeqE := do
  let b ← tgRead n a (seqAddr t slot) 64
  pure (seqOf slot b)

/-- R276. -/
def SeqE.eligible (e : SeqE) : Bool := e.state == 1 && !e.hold && decide (e.ctx < e.inlen) && decide (e.ctx < e.maxctx)

/-- Serving fields as a command found them at acceptance (R272). -/
def Dev.cfgOf (d : Dev) (c : Cmd) : Tng := c.cfg.getD (d.serving c.part)

/-- The command completes with a status, inside a Tongs run. -/
def tmDone (r : CmdRef) (st : Nat) : Tm Unit := modify fun d => d.complete r st

/-! ### ADMIT and RETIRE (R273, R274) -/

def admitTm (c : Cmd) (t : Tng) : Tm Unit := do
  let slot := c.f 0x20 15 0
  let plen := c.f 0x28 31 0
  let maxctx := c.f 0x28 63 32
  if t.seqcap < slot ∨ plen = 0 ∨ maxctx < plen ∨ maxctx < 16 ∨ 4194304 < maxctx ∨ maxctx % 16 ≠ 0 then tmDone c.ref stUnitAbsent
  else
    let e ← readSeq c.part c.acct t slot
    if e.state ≠ 0 then tmDone c.ref stUnitAbsent
    else
      let a := seqAddr t slot
      let w (o v : Nat) : Tm Unit := tgWord c.part c.acct (a + o) v
      w 0x18 (maxctx * 2 ^ 32 + plen)
      w 0x20 (c.f 0x30 63 0)
      w 0x28 (c.f 0x38 63 0)
      w 0x30 (c.f 0x40 63 0)
      w 0x08 0
      w 0x10 plen
      w 0x00 (2 ^ 62 + (e.gen + 1) % 2 ^ 32)
      modify fun d => d.setServing c.part fun s => { s with active := s.active + 1 }
      tmDone c.ref stOk

def Dev.admitGo (d : Dev) (r : CmdRef) : Dev :=
  match d.running_ r 0x11 with
  | some c => d.tongsRun (admitTm c (d.cfgOf c)) fun st d => d.tongsFail c st
  | none => d

/-- ADMIT. -/
def Dev.admitCmd (d : Dev) (r : CmdRef) : Dev :=
  match d.cmd r with
  | some c => if c.phase = .waiting then d.start_ r 0x11 fun _ d => d.admitGo r else d.admitGo r
  | none => d

/-- The running STEP of a partition holds a sequence in its batch. -/
def Tng.inBatch (t : Tng) (slot : Nat) : Bool := match t.run with | some x => x.items.any fun i => i.slot == slot | none => false

/-- RETIRE: `placed` records that step 1 is over; the rest waits for a STEP that holds the sequence. -/
def retireTm (c : Cmd) : Tm Unit := do
  let slot := c.f 0x20 15 0
  let t := (← get).serving c.part
  if t.seqcap < slot then tmDone c.ref stUnitAbsent
  else
    let e ← readSeq c.part c.acct t slot
    if !c.placed && (e.state == 0 || e.state == 2) then tmDone c.ref stUnitAbsent
    else
      tgWord c.part c.acct (seqAddr t slot) (2 ^ 63 + e.gen)
      modify fun d => d.setCmd c.ref fun x => { x with placed := true }
      if t.inBatch slot then pure ()
      else
        modify fun d => d.setServing c.part fun s => { s with billets := s.billets.filter fun b => b.slot ≠ slot, active := s.active - 1 }
        tgWord c.part c.acct (seqAddr t slot) e.gen
        tmDone c.ref stOk

def Dev.retireGo (d : Dev) (r : CmdRef) : Dev :=
  match d.running_ r 0x12 with
  | some c => if c.marked && !c.placed then d.complete r stCancelBefore else d.tongsRun (retireTm c) fun st d => d.tongsFail c st
  | none => d

/-- RETIRE. -/
def Dev.retire (d : Dev) (r : CmdRef) : Dev :=
  match d.cmd r with
  | some c => if c.phase = .waiting then d.start_ r 0x12 fun _ d => d.retireGo r else d.retireGo r
  | none => d

/-! ### Batch assembly (R276) -/

/-- A batch in the making: items, tokens so far, and the first slot that a limit left out or shortened. -/
structure Batch where
  items : List BItem
  used : Nat
  cut : Option Nat
deriving DecidableEq, Repr

/-- One sequence under the two limits: MAXTOK (0 none) and MAXBATCH. -/
def Batch.add (maxtok maxb : Nat) (decode : Bool) (want : Nat) (e : SeqE) (a : Batch) : Batch :=
  if want = 0 then a
  else
    let left := if maxtok = 0 then want else maxtok - a.used
    let cut := match a.cut with | some s => some s | none => some e.slot
    if maxb ≤ a.items.length ∨ left = 0 then { a with cut := cut }
    else
      let n := min want left
      { items := a.items ++ [⟨e.slot, e.gen, decode, n, e.ctx, a.used, BitVec.ofNat 64 e.btab⟩], used := a.used + n
        cut := if n < want then cut else a.cut }

/-- Slots from the cursor on, wrapping after SEQCAP. -/
def scanOrder (cursor cap : Nat) : List Nat :=
  let s := if cap < cursor then 0 else cursor
  (List.range (cap + 1 - s)).map (· + s) ++ List.range s

/-- The two passes of R276 over the entries in scan order. -/
def assemble (maxtok maxb chunk : Nat) (es : List SeqE) : Batch :=
  let es := es.filter SeqE.eligible
  let one := es.foldl (fun a e => if e.plen ≤ e.ctx then a.add maxtok maxb true (min (min (e.inlen - e.ctx) 16) (e.maxctx - e.ctx)) e else a)
    (Batch.mk [] 0 none)
  es.foldl (fun a e => if e.ctx < e.plen then a.add maxtok maxb false (min (e.plen - e.ctx) chunk) e else a) one

/-! ### Billets (R269 to R271, R277, R285) -/

def Tng.dh (t : Tng) : Nat := 32 * (t.dhc + 1)
def Tng.fmt (t : Tng) : Fmt := (Fmt.ofCode t.bfmt).getD .f16
/-- Elements and bytes of a plane, and bytes of its scale array (R269). -/
def Tng.planeElems (t : Tng) : Nat := 16 * (t.hkv + 1) * t.dh
def Tng.planeBytes (t : Tng) : Nat := t.planeElems * t.fmt.width / 8
def Tng.scaleBytes (t : Tng) : Nat := if t.fmt.isT then t.planeElems / 32 else 0
/-- Bytes of a billet. -/
def Tng.bilBytes (t : Tng) : Nat := cdiv (64 + 2 * t.planeBytes + 2 * t.scaleBytes) 256 * 256

/-- Billet header (Table 8.5). -/
def bilHead (t : Tng) (x : Billet) (gen ntok : Nat) : List Byte :=
  bytesOf 8 (x.layer * 2 ^ 48 + x.slot * 2 ^ 32 + 16 * x.b) ++ bytesOf 8 (t.bfmt * 2 ^ 60 + ntok * 2 ^ 52) ++ bytesOf 8 gen ++ bytesOf 40 0

/-- Billet handle (Table 8.6). -/
def handle (level loc : Nat) : Nat := 2 ^ 63 + level * 2 ^ 56 + loc % 2 ^ 48 / 256 * 256

/-- LIT CACHE bricks of a partition. -/
def Dev.cacheBricks (d : Dev) (n : Nat) : List Nat := (d.withRole n 3).filter fun b => d.bpstate b = 0

/-- A brick that a request takes away from CACHE, and a region that one takes out of LIT, receive no billet (R286). -/
def Dev.brickLeaving (d : Dev) (b : Nat) : Bool :=
  d.tongs.req.go && d.tongs.req.kind == 0 && decide (d.tongs.req.role ≠ 3) && d.phys b == some d.tongs.req.target
def Dev.regionLeaving (d : Dev) (r : Nat) : Bool :=
  d.tongs.req.go && d.tongs.req.kind == 2 && decide (d.tongs.req.pstate ≠ 0) && d.tongs.req.target == r

/-- Areas of a level, as (base local address, bytes), in the order in which the model fills them (R285). -/
def Dev.areas (d : Dev) (n : Nat) (t : Tng) (level : Nat) : List (Nat × Nat) :=
  match level with
  | 0 =>
    let lo := cdiv (bilTop - 1024 * t.biltile) 256 * 256
    ((d.cacheBricks n).filter fun b => !d.brickLeaving b).flatMap fun b => (d.clusters n b 0).map fun k => (storeAddr (tKey b k) lo, bilTop - lo)
  | 1 => ((((List.range 256).filter fun u => d.st.yown u = n).reverse.take t.bilyard)).map fun u => (0x80000000000 + u * 2 ^ 24, 0xFFFF00)
  | _ =>
    ((List.range 2048).filter fun u =>
      decide (u < 768) == decide (level = 2) && decide (d.town u = 0x20 + n) && d.siteIn (unitSite u) && d.lit (unitBase u) &&
        !d.regionLeaving (unitRegion u)).map fun u => (unitBase u, 2 ^ 30)

/-- Frames of the partition's pool that leaves map. -/
def Dev.poolFrames (d : Dev) (n : Nat) : List Nat := (d.poolPages n).map fun l => wf l.2.2 47 12 * 4096

/-- A run of bytes overlaps no billet of the partition and no mapped frame. -/
def Dev.spaceFree (t : Tng) (frames : List Nat) (a size : Nat) : Bool :=
  (t.billets.all fun b => decide (a + size ≤ b.loc) || decide (b.loc + size ≤ a)) &&
    frames.all fun f => decide (a + size ≤ f) || decide (f + 2 ^ 21 ≤ a)

/-- The first free place of a level, in a given brick for level 0 where the span rule binds (R282). -/
def Dev.findPlace (d : Dev) (n : Nat) (t : Tng) (level : Nat) (brick : Option Nat) : Option Nat :=
  let size := t.bilBytes
  let frames := if 2 ≤ level then d.poolFrames n else []
  (d.areas n t level).findSome? fun a =>
    let ok := match brick, place a.1 with | some b, .store c _ _ => b == c | _, _ => true
    if !ok then none
    else ((List.range (a.2 / size)).map fun i => a.1 + i * size).find? fun p => Dev.spaceFree t frames p size

/-- Brick that holds a level-0 billet. -/
def Billet.brick (x : Billet) : Option Nat := match place x.loc with | .store b _ _ => some b | _ => none

/-- The brick that R282 prescribes for another level-0 billet of a span. -/
def Tng.spanHome (t : Tng) (slot layer sp : Nat) : Option Nat :=
  (t.billets.find? fun x => x.level == 0 && x.slot == slot && x.layer == layer && x.b / t.span == sp).bind Billet.brick

/-- Level and place of a new billet: the highest level with room (R285). -/
def Dev.allocBillet (d : Dev) (n : Nat) (t : Tng) (slot b layer : Nat) : Option (Nat × Nat) :=
  [0, 1, 2, 3].findSome? fun lv => (d.findPlace n t lv (if lv = 0 then t.spanHome slot layer (b / t.span) else none)).map fun p => (lv, p)

/-- Serving fields of a command over the partition's present billets. -/
def Dev.withBillets (d : Dev) (n : Nat) (t : Tng) : Tng := { t with billets := (d.serving n).billets }

/-- Allocates the missing billets among (b, layer) pairs of an item; false where space runs out. -/
def allocAll (c : Cmd) (t : Tng) (it : BItem) : List (Nat × Nat) → Tm Bool
  | [] => pure true
  | (b, l) :: rest => do
    let d ← get
    let t := d.withBillets c.part t
    if t.billets.any fun x => x.slot == it.slot && x.b == b && x.layer == l then allocAll c t it rest
    else match d.allocBillet c.part t it.slot b l with
      | none => pure false
      | some (lv, loc) => do
        let x : Billet := ⟨it.slot, b, l, lv, loc, 128⟩
        modify fun d => ((d.setServing c.part fun s => { s with billets := s.billets ++ [x] }).count c.acct 53 1).write (tgReq c.part c.acct) loc (bilHead t x it.gen 0)
        tgWord c.part c.acct (it.btab.toNat + 8 * (b * t.nlayer + l)) (handle lv loc)
        allocAll c t it rest

/-- Billets that an item's new positions touch. -/
def BItem.billets (it : BItem) (nlayer : Nat) : List (Nat × Nat) :=
  ((List.range ((it.pos + it.ntok - 1) / 16 + 1 - it.pos / 16)).map (· + it.pos / 16)).flatMap fun b => (List.range nlayer).map fun l => (b, l)

/-- R277: items in batch order, until space runs out. -/
def allocItems (c : Cmd) (t : Tng) : List BItem → Tm (List BItem × Bool)
  | [] => pure ([], false)
  | it :: rest => do
    if ← allocAll c t it (it.billets t.nlayer) then
      let r ← allocItems c t rest
      pure (it :: r.1, r.2)
    else pure ([], true)

/-! ### STEP (R275, R278, R279) -/

/-- Table 8.8. -/
def batchBytes (items : List BItem) (stepno : Nat) (nospace : Bool) : List Byte :=
  bytesOf 8 ((items.map BItem.ntok).sum * 2 ^ 32 + items.length) ++ bytesOf 8 (stepno * 2 ^ 32 + b2n nospace) ++ bytesOf 48 0 ++
    items.flatMap fun i => bytesOf 8 (i.gen * 2 ^ 32 + b2n i.decode * 2 ^ 16 + i.slot) ++ bytesOf 8 (i.ntok * 2 ^ 32 + i.pos) ++
      bytesOf 8 i.tokoff ++ bytesOf 8 i.btab.toNat

/-- The STEP of a partition completes; STEPNO and the window of R287 count it. -/
def Dev.stepDone (d : Dev) (r : CmdRef) (st : Nat) : Dev :=
  match d.cmd r with
  | none => d
  | some c =>
    let d := d.setServing c.part fun t =>
      { t with run := none, stepno := (t.stepno + 1) % 2 ^ 32, winSteps := t.winSteps + 1, rolefail := if st = stRole then sat 16 (t.rolefail + 1) else t.rolefail }
    d.complete r st

/-- One node of the graph, with its successors. -/
def readNode (c : Cmd) (graph succ i : Nat) : Tm NodeRun := do
  let b ← tgRead c.part c.acct (graph + 64 + 64 * i) 64
  let k := bfld b 0x18 47 32
  let s ← tgRead c.part c.acct (succ + 2 * bfld b 0x20 31 0) (2 * k)
  pure { phase := 0, status := 0, spans := [], nspan := 0, desc := b, succ := (List.range k).map fun j => bfld s (2 * j) 15 0, met := 0, att := [] }

/-- Assembly, billets, batch list and the start of the graph. -/
def stepTm (c : Cmd) (t : Tng) : Tm Unit := do
  let n := c.part
  let d ← get
  let s := d.serving n
  let es ← (scanOrder s.cursor t.seqcap).mapM fun i => readSeq n c.acct t i
  let maxtok := if c.f 0x28 63 32 = 0 then t.maxtok else c.f 0x28 63 32
  let maxb := min 4096 (if c.f 0x28 12 0 = 0 then t.maxbatch else c.f 0x28 12 0)
  let a := assemble maxtok maxb t.chunk es
  let r ← allocItems c t a.items
  let items := r.1
  tgWrite n c.acct (c.f 0x20 63 0) (batchBytes items s.stepno r.2)
  modify fun d => ((((d.setServing n fun s => { s with cursor := a.cut.getD s.cursor }).setCmd c.ref fun x => { x with nospace := r.2 }).count
    c.acct 54 items.length).count c.acct 55 (items.map BItem.ntok).sum)
  if items.isEmpty then modify fun d => d.stepDone c.ref stOk
  else
    let h ← tgRead n c.acct t.graph.toNat 64
    let nn := bfld h 0 13 0
    if nn = 0 then Tm.fail stUnitAbsent
    else
      let nodes ← (List.range nn).mapM fun i => readNode c t.graph.toNat (bfld h 8 63 0) i
      modify fun d => d.setServing n fun s => { s with run := some { cmd := c.ref, batch := c.w 0x20, items := items, nodes := nodes } }

/-- A started STEP whose batch is not assembled yet. -/
def Dev.stepGo (d : Dev) (r : CmdRef) : Dev :=
  match d.running_ r 0x10 with
  | none => d
  | some c =>
    let t := d.cfgOf c
    if (d.serving c.part).run.isSome then d
    else if c.marked then d.complete r stCancelBefore
    else if t.seqbase = 0 ∨ t.graph = 0 ∨ t.nlayer = 0 then d.stepDone r stUnitAbsent
    else d.tongsRun (stepTm c t) fun st d => (d.tongsErr c c.rsafe st).stepDone r st

/-- An earlier STEP of the partition has not completed (R275). -/
def Dev.stepBehind (d : Dev) (c : Cmd) : Bool :=
  (d.cmds.takeWhile fun x => x.ref ≠ c.ref).any fun x => x.op == 0x10 && x.part == c.part && x.open_

/-- STEP. -/
def Dev.step (d : Dev) (r : CmdRef) : Dev :=
  match d.cmd r with
  | some c =>
    if c.phase = .waiting then (if d.stepBehind c then d else d.start_ r 0x10 fun _ d => d.stepGo r)
    else d.stepGo r
  | none => d

/-! ### Nodes -/

def NodeRun.kind (x : NodeRun) : Nat := bfld x.desc 0x18 7 0
def NodeRun.rsafe (x : NodeRun) : Bool := bfld x.desc 0x18 8 8 == 1
def NodeRun.ndep (x : NodeRun) : Nat := bfld x.desc 0x18 31 16

def Dev.setNode (d : Dev) (n i : Nat) (f : NodeRun → NodeRun) : Dev :=
  d.setServing n fun t => { t with run := t.run.map fun s => { s with nodes := updNth s.nodes i f } }

/-- A DUMP that a node of the STEP has fired and that has not completed; `i` asks for one that holds node i, none for one that holds the STEP (R466). -/
def Dev.nodeHeld (d : Dev) (s : StepRun) (i : Option Nat) : Bool :=
  d.cmds.any fun x => decide (x.phase = .fired) && decide (x.polled ≠ 0) && decide (x.hold.head? = some s.cmd) &&
    (match i with
      | some i => (match s.nodes[x.polled - 1]? with | some p => p.succ.contains i | none => false)
      | none => true)

/-- R280 for one item: CTXLEN, STEPS, the headers of its billets, then INLEN. -/
def finishItem (c : Cmd) (t : Tng) (batch i : Nat) (it : BItem) : Tm Unit := do
  let e ← readSeq c.part c.acct t it.slot
  let a := seqAddr t it.slot
  let ctx := e.ctx + it.ntok
  tgWord c.part c.acct (a + 8) ((e.steps + 1) % 2 ^ 32 * 2 ^ 32 + ctx)
  let bs := ((← get).serving c.part).billets.filter fun x => x.slot == it.slot && decide (it.pos / 16 ≤ x.b) && decide (16 * x.b < it.pos + it.ntok)
  bs.forM fun x => modify fun d => d.write (tgReq c.part c.acct) x.loc (bilHead t x it.gen (min 16 (ctx - 16 * x.b)))
  let em ← tgRead c.part c.acct (batch + 0x40 + 32 * i + 0x10) 8
  let l ← tgAcc c.part c.acct (a + 0x10) 8 true
  match l with
  | (x, _) :: _ =>
    modify fun d => (d.farAmo (tgReq c.part c.acct) x 8 (fun old => some ((old + min (bfld em 0 63 32) (e.maxctx - old % 2 ^ 32)) % 2 ^ 64)) none).1
  | [] => pure ()

/-- Every item in batch order, then the STEP's own record. -/
def finishTm (c : Cmd) (t : Tng) (s : StepRun) (st : Nat) : Tm Unit := do
  (List.range s.items.length).forM fun i =>
    match s.items[i]? with
    | some it => finishItem c t s.batch.toNat i it
    | none => pure ()
  modify fun d => d.stepDone c.ref st

/-- A node can start when its graph has gone far enough (R279). -/
def NodeRun.startable (x : NodeRun) : Bool := x.phase == 0 && decide (x.ndep ≤ x.met)

/-- Status of a STEP one of whose nodes has failed: the failing node of lowest index (R280). -/
def StepRun.failure (s : StepRun) (other : Nat) : Nat :=
  match s.nodes.find? fun x => x.phase == 2 && decide (3 < x.status) with
  | some x => x.status
  | none => other

/-- R280: the STEP of partition n completes once nothing of it runs and nothing more can start. -/
def Dev.settleStep (d : Dev) (n : Nat) : Dev :=
  match (d.serving n).run with
  | none => d
  | some s =>
    match d.cmd s.cmd with
    | none => d
    | some c =>
      if s.nodes.any (fun x => x.phase == 1) || d.nodeHeld s none || !d.live then d
      else if c.status ≠ 0 then d.stepDone s.cmd (s.failure c.status)
      else if c.marked then
        d.stepDone s.cmd (if c.tasks.any (fun t => t.status ≠ stCancelBefore) || s.nodes.any (fun x => !x.spans.isEmpty) then stCancelFlight else stCancelBefore)
      else if s.nodes.all fun x => x.phase == 2 then
        d.tongsRun (finishTm c (d.cfgOf c) s (if c.restruck ≠ 0 ∨ s.nodes.any (fun x => x.status == stOkRestruck) then stOkRestruck else stOk))
          fun st d => (d.tongsErr c c.rsafe st).stepDone s.cmd st
      else if s.nodes.any NodeRun.startable then d
      else d.stepDone s.cmd stUnitAbsent

/-- Spans of a node that wait or travel are dropped. -/
def Dev.dropSpans (d : Dev) (n i : Nat) : Dev :=
  let keep (m : Msg) : Bool := match m.load with | .span p j _ _ => !(p == n && j == i) | .task _ => true
  { d with tongs := { d.tongs with inflight := d.tongs.inflight.filter keep, slag := d.tongs.slag.filter keep, spans := d.tongs.spans.filter keep } }

/-- Node i completes with a status: its successors advance, DUMPs that match fire, or the STEP fails. -/
def Dev.nodeDone (d : Dev) (n i st : Nat) : Dev :=
  match (d.serving n).run with
  | none => d
  | some s =>
    match s.nodes[i]?, d.cmd s.cmd with
    | some x, some c =>
      let d := (d.dropSpans n i).setNode n i fun x => { x with phase := 2, status := st }
      let d := d.fireDumps n (bfld x.desc 0x30 19 0) (bfld x.desc 0x30 35 20) c.step s.cmd (some i)
      let d := if st = stOk ∨ st = stOkRestruck then x.succ.foldl (fun (d : Dev) j => d.setNode n j fun y => { y with met := y.met + 1 }) d
        else d.failCmd s.cmd st none
      d.settleStep n
    | _, _ => d

/-- A node's placement word breaks no rule of Table 8.3. -/
def Dev.placeOk (d : Dev) (w : Word) : Bool :=
  decide (1 ≤ wf w 63 61 ∧ wf w 63 61 ≤ 4 ∧ wf w 60 58 ≤ 4 ∧ wf w 49 46 = 0 ∧ wf w 31 0 = 0) && (!wb w 57 || d.brickIn (wf w 56 50))

/-- The task of a KERNEL node (Table 8.9). -/
def nodeTask (c : Cmd) (x : NodeRun) (i rank ntiles : Nat) : Task :=
  let w (o : Nat) : Word := BitVec.ofNat 64 (bfld x.desc o 63 0)
  { cmd := c.ref, part := c.part, rank := rank, node := some i, viaPf := c.viaPf, rsafe := x.rsafe, ntiles := ntiles
    place := w 0x10, pc := w 0, arg := w 8, seed := w 0x28, layer := bfld x.desc 0x30 19 0, oper := bfld x.desc 0x30 35 20 }

/-! ### Attention in place (R281, R282) -/

/-- An attend block (Table 8.10). -/
structure Attend where
  qbase : Nat
  pbase : Nat
  layer : Nat
  maxsp : Nat
  scale : Nat
deriving DecidableEq, Repr

def attendOf (b : List Byte) : Attend := ⟨bfld b 0 63 0, bfld b 8 63 0, bfld b 0x10 63 48, bfld b 0x10 47 32, bfld b 0x10 31 0⟩

/-- NSP of an item. -/
def BItem.nsp (it : BItem) (span : Nat) : Nat := cdiv (it.pos + it.ntok) (16 * span)

/-- Bricks that may run a span (R282): the home of its level-0 billets, else CACHE bricks, else GENERATE bricks. Which of several has been free longest is open. -/
def Dev.spanBricks (d : Dev) (n : Nat) (t : Tng) (slot layer sp : Nat) : List Nat :=
  let bs := t.billets.filter fun x => x.slot == slot && x.layer == layer && x.b / t.span == sp
  let home := if bs.isEmpty || bs.any (fun x => x.level ≠ 0) then none else (bs.head?.bind Billet.brick)
  match home with
  | some b => [b]
  | none => if (d.cacheBricks n).isEmpty then (d.withRole n 2).filter fun b => d.bpstate b = 0 else d.cacheBricks n

/-- Sends a span's dispatch message; none where no brick can run it. -/
def Dev.sendSpan (d : Dev) (n i item sp tries : Nat) (bs : List Nat) : Option Dev :=
  match bs with
  | [] => none
  | b :: _ =>
    let f := d.free
    let b := if bs.length = 1 then b else nthD b bs (f.1.toNat % bs.length)
    let d := if bs.length = 1 then d else f.2
    let ep := match d.phys b with | some p => (d.brick p).epoch | none => 0
    some { d with tongs := { d.tongs with inflight := d.tongs.inflight ++ [Msg.mk (.span n i item sp) b 0 ep tries] } }

/-- Spans of a node as (item, span) pairs. -/
def StepRun.spansOf (s : StepRun) (span : Nat) : List (Nat × Nat) :=
  (List.range s.items.length).flatMap fun j => match s.items[j]? with
    | some it => (List.range (it.nsp span)).map fun k => (j, k)
    | none => []

/-- An ATTEND node starts: its spans go out, or it completes with a status. -/
def attendTm (c : Cmd) (t : Tng) (s : StepRun) (x : NodeRun) (i : Nat) : Tm Unit := do
  let n := c.part
  let b ← tgRead n c.acct (bfld x.desc 8 63 0) 64
  let a := attendOf b
  let d ← get
  let t := d.withBillets n t
  let ss := s.spansOf t.span
  if bfld x.desc 8 5 0 ≠ 0 ∨ t.nlayer ≤ a.layer ∨ s.items.any (fun it => decide (a.maxsp < it.nsp t.span)) then modify fun d => d.nodeDone n i stUnitAbsent
  else
    let send (o : Option Dev) (e : Nat × Nat) : Option Dev :=
      o.bind fun (d : Dev) => match s.items[e.1]? with
        | some it => d.sendSpan n i e.1 e.2 0 (d.spanBricks n t it.slot a.layer e.2)
        | none => some d
    match ss.foldl send (some d) with
    | some d => set (d.setNode n i fun y => { y with phase := 1, nspan := ss.length, att := b })
    | none => modify fun d => d.nodeDone n i stRole

/-- NODE_START. -/
def Dev.nodeStart (d : Dev) (n i : Nat) : Dev :=
  match (d.serving n).run with
  | none => d
  | some s =>
    match s.nodes[i]?, d.cmd s.cmd with
    | some x, some c =>
      if !d.live || !x.startable || c.marked || d.snapHeld c || d.nodeHeld s (some i) then d
      else if x.kind = 0 then
        let w := BitVec.ofNat 64 (bfld x.desc 0x10 63 0)
        if !d.placeOk w then d.nodeDone n i stUnitAbsent
        else match d.resolve n w with
          | .absent => d.nodeDone n i stUnitAbsent
          | .unavailable => d.nodeDone n i stRole
          | .wait => d
          | .on ks => (d.setNode n i fun x => { x with phase := 1 }).placeTasks s.cmd ks fun j => nodeTask c x i j ks.length
      else if x.kind = 1 then d.tongsRun (attendTm c (d.cfgOf c) s x i) fun st d => (d.tongsErr c x.rsafe st).nodeDone n i st
      else d.nodeDone n i stUnitAbsent
    | _, _ => d

/-- Bytes of a billet, for a span; an error in them stops it. -/
def bilRead (n : Nat) (a : Acct) (t : Tng) (x : Option Billet) : Tm (List Byte) :=
  match x with
  | none => pure []
  | some x => do
    if ((← get).bad x.loc t.bilBytes).isSome then Tm.fail stDetected
    else Tm.lift fun d => let r := d.read (tgReq n a) x.loc t.bilBytes; (r.1, .ok r.2)

/-- Element idx of a plane at byte `off` of a billet, with the scale array at `soff`: its cell value and its scale byte. -/
def bilElem (t : Tng) (b : List Byte) (off soff idx : Nat) : FV × Nat :=
  let w := t.fmt.width
  let bit := 8 * off + idx * w
  let code := leNat ((b.drop (bit / 8)).take (cdiv (bit % 8 + w) 8)) / 2 ^ (bit % 8) % 2 ^ w
  let s := if t.fmt.isT then (nthD 0 b (soff + idx / 32)).toNat else 0
  ((operand t.fmt .rne s code 0).1, s)

/-- q · k as apart-mode passes of eight elements in ascending order, committed in add mode, with the scale of R104. -/
def dotQK (t : Tng) (q : List FV) (b : List Byte) (idx : Nat) : FV :=
  (List.range (t.dh / 8)).foldl
    (fun acc j =>
      let ks := (List.range 8).map fun i => bilElem t b 64 (64 + 2 * t.planeBytes) (idx + 8 * j + i)
      let s := (List.range 8).foldl (fun a i => rne32 (FV.add a (laneProd (nthD (.zero, 0) ks i).1 (nthD .zero q (8 * j + i))))) FV.zero
      let v := if t.fmt.isT then rne32 (tscale true (nthD (.zero, 0) ks 0).2 s) else s
      if j = 0 then v else rne32 (FV.add acc v)) FV.zero

/-- One token position of a span: (m, s, o) of R281. -/
def attendTok (t : Tng) (scale : FV) (q : List FV) (kv : Nat) (bs : List (Nat × List Byte)) (a : FV × FV × List FV) (p : Nat) : FV × FV × List FV :=
  let b := match bs.find? fun e => e.1 = p / 16 with | some e => e.2 | none => []
  let idx := (kv * 16 + p % 16) * t.dh
  let x := rne32 (FV.mul scale (dotQK t q b idx))
  let m := a.1
  let m' := FV.max m x
  let f := term m m'
  let g := term x m'
  let val (j : Nat) : FV :=
    let v := bilElem t b (64 + t.planeBytes) (64 + 2 * t.planeBytes + t.scaleBytes) (idx + j)
    tscale t.fmt.isT v.2 v.1
  (m', rne32 (FV.add (rne32 (FV.mul a.2.1 f)) g),
    (List.range t.dh).map fun j => rne32 (FV.add (rne32 (FV.mul (nthD .zero a.2.2 j) f)) (rne32 (FV.mul g (val j)))))

/-- The record of one query over a span's token positions up to p. -/
def attendRec (t : Tng) (scale : FV) (q : List FV) (kv sp p : Nat) (bs : List (Nat × List Byte)) : List Byte :=
  let lo := sp * 16 * t.span
  let ts := ((List.range (16 * t.span)).map (· + lo)).filter fun x => decide (x ≤ p)
  let r := ts.foldl (attendTok t scale q kv bs) (.inf true, FV.zero, List.replicate t.dh FV.zero)
  (r.1 :: r.2.1 :: r.2.2).flatMap fun v => bytesOf 4 (FF.f32.enc v)

/-- One span of an item: every query token and head. -/
def spanTm (c : Cmd) (t : Tng) (a : Attend) (it : BItem) (sp : Nat) : Tm Unit := do
  let n := c.part
  let t := (← get).withBillets n t
  let top := (it.pos + it.ntok - 1) / 16
  let idx := ((List.range t.span).map (· + sp * t.span)).filter fun b => decide (b ≤ top)
  let bs ← idx.mapM fun b => do
    let x ← bilRead n c.acct t (t.billets.find? fun x => x.slot == it.slot && x.layer == a.layer && x.b == b)
    pure (b, x)
  (List.range (it.ntok * (t.hq + 1))).forM fun j => do
    let u := j / (t.hq + 1)
    let h := j % (t.hq + 1)
    let row := (it.tokoff + u) * (t.hq + 1) + h
    let q ← tgRead n c.acct (a.qbase + row * (2 * t.dh)) (2 * t.dh)
    let qs := (List.range t.dh).map fun e => FF.f16.dec (bfld q (2 * e) 15 0)
    let kv := h * (t.hkv + 1) / (t.hq + 1)
    tgWrite n c.acct (a.pbase + (row * a.maxsp + sp) * (4 * (t.dh + 2))) (attendRec t (FF.f32.dec a.scale) qs kv sp (it.pos + u) bs)
  modify fun d => (d.setServing n fun s =>
    { s with billets := s.billets.map fun x =>
        if x.slot = it.slot ∧ x.layer = a.layer ∧ idx.contains x.b then { x with heat := sat 8 (x.heat + 16) } else x }).count c.acct 52 1

/-- SPAN: a span that its brick's hub has taken runs; a span of a cancelled node is dropped. -/
def Dev.span (d : Dev) (n i item sp : Nat) : Dev :=
  match d.tongs.spans.find? fun m => decide (m.load = .span n i item sp) with
  | none => d
  | some m =>
    let off : Dev := { d with tongs := { d.tongs with spans := d.tongs.spans.erase m } }
    match (d.serving n).run with
    | none => off
    | some s =>
      match s.nodes[i]?, s.items[item]?, d.cmd s.cmd with
      | some x, some it, some c =>
        if !d.live then d
        else if x.phase ≠ 1 then off
        else if c.marked then off.count c.acct 63 1
        else
          d.tongsRun (do
              spanTm c (d.cfgOf c) (attendOf x.att) it sp
              modify fun d =>
                ({ d with tongs := { d.tongs with spans := d.tongs.spans.erase m } }).setNode n i fun x => { x with spans := x.spans ++ [(item, sp)] })
            fun st d => (d.tongsErr c x.rsafe st).nodeDone n i st
      | _, _, _ => off

/-- NODE_COMPLETE: a node whose tasks or spans have all ended completes; it settles the STEP again where that waited. -/
def Dev.nodeComplete (d : Dev) (n i : Nat) : Dev :=
  match (d.serving n).run with
  | none => d
  | some s =>
    match s.nodes[i]?, d.cmd s.cmd with
    | some x, some c =>
      if !d.live then d
      else if x.phase = 2 then d.settleStep n
      else if x.phase = 0 then (if c.marked then d.settleStep n else d)
      else if x.kind = 0 then
        let ts := c.tasks.filter fun t => t.task.node = some i
        if ts.any fun t => t.phase ≠ 2 then d
        else d.nodeDone n i (if x.status ≠ 0 then x.status else if c.marked then stCancelFlight
          else if ts.any (fun t => t.status = stOkRestruck) then stOkRestruck else stOk)
      else if c.marked then d.nodeDone n i stCancelFlight
      else if x.spans.length = x.nspan then d.nodeDone n i stOk
      else d
    | _, _ => d

/-- A cancel reaches the Tongs' own part of a STEP (R295): its ATTEND nodes end, and it completes once its tasks have. -/
def Dev.stepCancel (d : Dev) (c : Cmd) : Dev :=
  match (d.serving c.part).run with
  | none => d.complete c.ref stCancelBefore
  | some s =>
    if s.cmd ≠ c.ref then d
    else
      let d := (List.range s.nodes.length).foldl
        (fun (d : Dev) i => match s.nodes[i]? with | some x => if x.phase = 1 ∧ x.kind = 1 then d.nodeDone c.part i stCancelFlight else d | none => d) d
      d.settleStep c.part

/-! ### Re-resolution (R289) -/

/-- Free tile for a returned task: any free one where it needs no cluster; else the place that completes its cluster with its peers, or a wholly free cluster. -/
def Dev.reTile (d : Dev) (t : Task) : Option Nat :=
  let cl := wf t.place 60 58
  let bs := (d.candidates t.part t.place).foldr (insBrick fun b => (d.freeTiles t.part b).length) []
  if cl = 0 then bs.findSome? fun b => (d.freeTiles t.part b).head?
  else
    let lead := t.rank / 2 ^ cl * 2 ^ cl
    let slagged (x : Task) : Bool := d.tongs.slag.any fun m => decide (m.load = .task x)
    let peers := match d.cmd t.cmd with
      | some c => c.tasks.filter fun (x : TRun) => decide (x.task.node = t.node) && decide (lead ≤ x.task.rank ∧ x.task.rank < lead + 2 ^ cl) &&
          decide (x.task ≠ t) && !slagged x.task
      | none => []
    match peers with
    | p :: _ =>
      let k := p.tile / 128 * 128 + p.tile % 128 / 2 ^ cl * 2 ^ cl + (t.rank - lead)
      if bs.contains (k / 128) && d.tileIn k && decide (d.tileOwner k = t.part) && d.tileFree k then some k else none
    | [] =>
      bs.findSome? fun b =>
        ((d.clusters t.part b cl).find? fun u => (List.range (2 ^ cl)).all fun i => d.tileFree (tKey b (u + i))).map fun u => tKey b (u + (t.rank - lead))

/-- The command of a message that cannot be delivered ends with ROLE_UNAVAILABLE. -/
def Dev.msgFails (d : Dev) (m : Msg) : Dev :=
  match m.load with
  | .task t =>
    let d := d.taskFails t stRole none
    let d := if t.node.isNone then d.setServing t.part fun s => { s with rolefail := sat 16 (s.rolefail + 1) } else d
    (d.setTasks t.cmd (fun x => x.task = t && x.phase = 0) fun x => { x with phase := 2, status := stRole }).settleKernel t.cmd
  | .span n i _ _ => d.nodeDone n i stRole

/-- RE_RESOLVE: the oldest message of the slag queue. -/
def Dev.reResolve (d : Dev) : Dev :=
  match d.tongs.slag with
  | [] => d
  | m :: rest =>
    if !d.live then d
    else
      let off : Dev := { d with tongs := { d.tongs with slag := rest } }
      let back (d : Dev) : Dev :=
        if 3 ≤ m.tries + 1 then d.msgFails m
        else { d with tongs := { d.tongs with slag := d.tongs.slag ++ [{ m with tries := m.tries + 1 }] } }
      match m.load with
      | .task t =>
        if d.markedCmd t.cmd then off.endReady t (tKey m.brick m.tile)
        else if 3 ≤ m.tries then off.msgFails m
        else
          let d := off.count ⟨some t.cmd, some t.part⟩ 50 1
          match d.reTile t with
          | none => back d
          | some k => (d.setTasks t.cmd (fun x => x.task = t && x.phase = 0) fun x => { x with tile := k }).dispatch k t (m.tries + 1)
      | .span n i item sp =>
        match (d.serving n).run with
        | none => off
        | some s =>
          match s.nodes[i]?, s.items[item]?, d.cmd s.cmd with
          | some x, some it, some c =>
            if x.phase ≠ 1 ∨ c.marked then off
            else if 3 ≤ m.tries then off.msgFails m
            else
              let d := off.count c.acct 50 1
              let t := d.withBillets n (d.cfgOf c)
              (d.sendSpan n i item sp (m.tries + 1) (d.spanBricks n t it.slot (attendOf x.att).layer sp)).getD (back d)
          | _, _, _ => off

/-! ### The meanings -/

def execStep (c : CmdRef) (s : State) : Host.Outcome State Fault Refusal := s.act fun d => d.step c
def execAdmit (c : CmdRef) (s : State) : Host.Outcome State Fault Refusal := s.act fun d => d.admitCmd c
def execRetire (c : CmdRef) (s : State) : Host.Outcome State Fault Refusal := s.act fun d => d.retire c
def execNodeStart (n : Fin 32) (node : Nat) (s : State) : Host.Outcome State Fault Refusal := s.act fun d => d.nodeStart n.val node
def execSpan (n : Fin 32) (node item sp : Nat) (s : State) : Host.Outcome State Fault Refusal := s.act fun d => d.span n.val node item sp
def execNodeComplete (n : Fin 32) (node : Nat) (s : State) : Host.Outcome State Fault Refusal := s.act fun d => d.nodeComplete n.val node
def execReResolve (s : State) : Host.Outcome State Fault Refusal := s.act fun d => d.reResolve

end Sys2Proof.Machine
end

