-- ==== Sys2Proof/Machine/Migrate.lean ====
section
/-! DEFINITION. Machine/Migrate.lean: heat, and the moves of billets and pool pages between levels (R242, R259, R284 to R286). -/

namespace Sys2Proof.Machine

open Sys2Proof

/-- HEAT_DECAY: every heat is halved (R284). -/
def Dev.heatDecay (d : Dev) : Dev :=
  if !d.live then d
  else { d with tng := d.tng.map fun e =>
      (e.1, { e.2 with billets := e.2.billets.map fun x => { x with heat := x.heat / 2 }
                       heats := (e.2.heats.map fun h => (h.1, h.2 / 2)).filter fun h => h.2 ≠ 0 }) }

/-! ### Billets -/

/-- R282: a billet of a running step's batch is busy while an ATTEND node over its layer runs, and for the whole step where it holds new positions. -/
def Tng.busy (t : Tng) (x : Billet) : Bool :=
  match t.run with
  | none => false
  | some s =>
    match s.items.find? fun i => i.slot == x.slot with
    | none => false
    | some it =>
      decide (it.pos < 16 * (x.b + 1)) || s.nodes.any fun y => y.phase == 1 && y.kind == 1 && (attendOf y.att).layer == x.layer

/-- The coldest billet of a level that is not busy, the oldest first among equals. -/
def Tng.coldest (t : Tng) (level : Nat) : Option Billet :=
  (t.billets.filter fun x => x.level == level && !t.busy x).foldl
    (fun a x => match a with | some y => if x.heat < y.heat then some x else some y | none => some x) none

/-- Bytes of a level, and bytes of it in use. -/
def Dev.levelRoom (d : Dev) (n : Nat) (t : Tng) (level : Nat) : Nat × Nat :=
  let cap := ((d.areas n t level).map (·.2)).sum
  let bil := (t.billets.filter fun x => x.level == level).length * t.bilBytes
  let pages := if level < 2 then 0 else ((d.poolFrames n).filter fun f => decide (f < 0xC000000000) == decide (level = 2)).length * 2 ^ 21
  (cap, bil + pages)

/-- A level's free space has fallen below 1/16 of it (R285 rule 3). -/
def Dev.levelTight (d : Dev) (n : Nat) (t : Tng) (level : Nat) : Bool :=
  let r := d.levelRoom n t level
  decide (16 * (r.1 - r.2) < r.1)

/-- The place of a billet must be emptied (R286). -/
def Dev.mustLeave (d : Dev) (x : Billet) : Bool :=
  match x.brick with
  | some b => d.brickLeaving b
  | none => decide (2 ≤ x.level) && d.regionLeaving (unitRegion (unitOf x.loc))

/-- A billet may stand at a place under R282's span rule. -/
def Tng.spanFits (t : Tng) (x : Billet) (level loc : Nat) : Bool :=
  decide (level ≠ 0) ||
    match ({ t with billets := t.billets.filter fun y => y ≠ x }).spanHome x.slot x.layer (x.b / t.span), place loc with
    | some b, .store c _ _ => b == c
    | _, _ => true

def Dev.bilRaw (d : Dev) (n : Nat) (t : Tng) (x : Billet) : Dev × List Byte := d.read (tgReq n ⟨none, some n⟩) x.loc t.bilBytes

/-- Rewrites handles under the compare-and-swap of R242: (billet, new level, new place); a handle that is not the one expected abandons the move. -/
def swapHandles (n : Nat) (t : Tng) : List (Billet × Nat × Nat) → Tm Unit
  | [] => pure ()
  | (x, lv, loc) :: rest => do
    let a : Acct := ⟨none, some n⟩
    let e ← readSeq n a t x.slot
    let h := e.btab + 8 * (x.b * t.nlayer + x.layer)
    let old ← tgRead n a h 8
    if leNat old ≠ handle x.level x.loc then Tm.fail 0
    else
      tgWord n a h (handle lv loc)
      swapHandles n t rest

/-- Copies billets to their new places and rewrites their handles; any obstacle leaves everything as it was. -/
def Dev.moveBillets (d : Dev) (n : Nat) (ms : List (Billet × Nat × Nat)) : Dev :=
  let t := d.serving n
  let rd := ms.foldl (fun (a : Dev × List (Nat × List Byte)) m => let r := a.1.bilRaw n t m.1; (r.1, a.2 ++ [(m.2.2, r.2)])) (d, [])
  if ms.any fun m => (d.bad m.1.loc t.bilBytes).isSome then d
  else
    let d' := rd.2.foldl (fun (d : Dev) w => d.write (tgReq n ⟨none, some n⟩) w.1 w.2) rd.1
    let d' := d'.setServing n fun s =>
      { s with billets := s.billets.map fun x => match ms.find? fun m => m.1 = x with | some m => { x with level := m.2.1, loc := m.2.2 } | none => x }
    match (swapHandles n t ms).run d' with
    | (.ok _, e) => e
    | _ => d

/-- BILLET_MOVE: billet i of partition n goes to a level, where R285 or R286 has it move. -/
def Dev.billetMove (d : Dev) (n i level : Nat) : Dev :=
  let t := d.serving n
  match t.billets[i]? with
  | none => d
  | some x =>
    if !d.live || (d.part n).snap.isSome || t.busy x then d
    else if level < x.level then
      match t.coldest level with
      | some y => if y.heat + 32 ≤ x.heat ∧ t.spanFits x level y.loc then d.moveBillets n [(x, level, y.loc), (y, x.level, x.loc)] else d
      | none => d
    else
      let leave := d.mustLeave x
      let down := decide (level = x.level + 1) && d.levelTight n t x.level && decide (t.coldest x.level = some x)
      if !((leave && decide (x.level < level ∨ 2 ≤ x.level)) || down) then d
      else match d.findPlace n t level none with
        | some p => d.moveBillets n [(x, level, p)]
        | none => d

/-! ### Pool pages -/

/-- A pool page of partition n: its page, its leaf's address and value, and its frame. -/
structure PoolPage where
  va : Nat
  at_ : Nat
  leaf : Word
  frame : Nat
deriving DecidableEq, Repr

/-- The pool page that holds a virtual address. -/
def Dev.poolPage (d : Dev) (n va : Nat) : Option PoolPage :=
  match d.leaf n va with
  | .ok (a, e, 1) => if wb e 9 then some ⟨va / 2 ^ 21 * 2 ^ 21, a, e, wf e 47 12 * 4096⟩ else none
  | _ => none

/-- The pool page on a frame. -/
def Dev.pageOn (d : Dev) (n frame : Nat) : Option PoolPage :=
  ((d.poolPages n).find? fun l => l.2.1 == 1 && wf l.2.2 47 12 * 4096 == frame).bind fun l => d.poolPage n l.1

def Dev.pageHeat (d : Dev) (n va : Nat) : Nat := SMap.get 0 (d.serving n).heats (va / 2 ^ 21)
/-- Preferred tier of a page: 1 F, 2 D, 0 none (R260). -/
def Dev.pagePref (d : Dev) (n va : Nat) : Nat := SMap.get 0 (d.serving n).prefs (va / 2 ^ 21)

/-- Tier level of a frame: 2 F, 3 D. -/
def frameLevel (a : Nat) : Nat := if a < 0xC000000000 then 2 else 3
/-- The preference keeps a page in the tier of a frame. -/
def prefKeeps (pref frame : Nat) : Bool := decide (pref ≠ 0) && decide (pref + 1 = frameLevel frame)

/-- Two pages change frames (R259 on both). -/
def Dev.swapPages (d : Dev) (n : Nat) (x y : PoolPage) : Dev :=
  let q : Req := ⟨portXfer, n, ⟨none, some n⟩⟩
  let lines := linesOf x.frame (2 ^ 21) ++ linesOf y.frame (2 ^ 21)
  let m := lines.foldl (fun m l => m.recall d.gen l) d.mem
  let m := (m.hClean fun h => lines.contains h.line).hDrop fun h => lines.contains h.line
  let d : Dev := { d with mem := m }
  let rx := d.read q x.frame (2 ^ 21)
  let ry := rx.1.read q y.frame (2 ^ 21)
  let d := (ry.1.write q y.frame rx.2).write q x.frame ry.2
  let put (d : Dev) (p : PoolPage) (f : Nat) : Dev := d.write ⟨portXfer, 32, ⟨none, none⟩⟩ p.at_ (bytesOf 8 (f / 4096 * 4096 + p.leaf.toNat % 4096))
  let d := put (put d x y.frame) y x.frame
  d.setPart n fun p => { p with x := { p.x with tlb := SMap.drop (fun k => k == x.va / 2 ^ 21 || k == y.va / 2 ^ 21) p.x.tlb } }

/-- The coldest pool page of a tier that no preference keeps there. -/
def Dev.coldestPage (d : Dev) (n level : Nat) : Option Nat :=
  ((d.poolPages n).filter fun l => frameLevel (wf l.2.2 47 12 * 4096) == level && !prefKeeps (d.pagePref n l.1) (wf l.2.2 47 12 * 4096)).foldl
    (fun a l => match a with | some v => if d.pageHeat n l.1 < d.pageHeat n v then some l.1 else some v | none => some l.1) none

/-- PAGE_MOVE: a pool page goes to a frame of its partition's pool, free or by exchange, where R285 or R286 has it move. -/
def Dev.pageMove (d : Dev) (n : Nat) (va frame : Nat) : Dev :=
  match d.poolPage n va with
  | none => d
  | some x =>
    let t := d.serving n
    let olds : Acc := .loc x.frame
    let here := prefKeeps (d.pagePref n x.va) x.frame
    let leaving := d.regionLeaving (unitRegion (unitOf x.frame))
    let pool := decide (frame % 2 ^ 21 = 0) && d.inPool (some n) frame && d.grant n frame (2 ^ 21) && decide (frame ≠ x.frame) &&
      !d.regionLeaving (unitRegion (unitOf frame))
    if !d.live || (d.part n).snap.isSome || !pool || d.frameBusy n x.frame || !d.lit x.frame || !d.lit frame || (d.bad x.frame (2 ^ 21)).isSome then d
    else match d.pageOn n frame with
      | some y =>
        if frameLevel frame = 2 ∧ frameLevel x.frame = 3 ∧ !here ∧ !prefKeeps (d.pagePref n y.va) y.frame ∧ d.pageHeat n y.va + 32 ≤ d.pageHeat n x.va ∧
            !d.frameBusy n frame ∧ (d.bad frame (2 ^ 21)).isNone then d.swapPages n x y
        else d
      | none =>
        let wants := decide (d.pagePref n x.va ≠ 0) && decide (d.pagePref n x.va + 1 = frameLevel frame) && !here
        let down := decide (frameLevel x.frame = 2 ∧ frameLevel frame = 3) && !here && d.levelTight n t 2 && decide (d.coldestPage n 2 = some x.va)
        if Dev.spaceFree t [] frame (2 ^ 21) && (leaving || wants || down) then
          d.movePage ⟨portXfer, n, ⟨none, some n⟩⟩ n x.va x.at_ x.leaf olds (.loc frame) frame
        else d

/-! ### The meanings -/

def execHeatDecay (s : State) : Host.Outcome State Fault Refusal := s.act fun d => d.heatDecay
def execBilletMove (n : Fin 32) (billet : Nat) (level : Fin 4) (s : State) : Host.Outcome State Fault Refusal :=
  s.act fun d => d.billetMove n.val billet level.val
def execPageMove (n : Fin 32) (va frame : Word) (s : State) : Host.Outcome State Fault Refusal :=
  s.act fun d => d.pageMove n.val va.toNat frame.toNat

end Sys2Proof.Machine
end

