-- ==== Sys2Proof/Machine/Cancel.lean ====
section
/-! DEFINITION. Machine/Cancel.lean: the arrival of a cancel mark (R294, R295, R85, R111, R145, R159, R253, R274). -/

namespace Sys2Proof.Machine

open Sys2Proof

/-- A mark reaches tile k: the begun task of the command there stops at the next stroke boundary. -/
def Dev.cancelTile (d : Dev) (c : Cmd) (k : Nat) : Dev :=
  match (d.tile k).task with
  | some t =>
    if t.cmd ≠ c.ref then d
    else
      let d := (d.count c.acct 63 1).stopTile k
      let d := d.setTasks c.ref (fun x => x.tile = k && x.phase = 1) fun x => { x with phase := 2, status := stCancelFlight }
      d.settleKernel c.ref
  | none => d

/-- Something of a transfer has begun. -/
def Cmd.begun (c : Cmd) : Bool := decide (c.move.next ≠ 0) || !c.move.bufs.isEmpty || !c.move.wrote.isEmpty || c.move.parked.isSome

/-- A mark reaches the unit that holds a command itself (R295). -/
def Dev.cancelCmd (d : Dev) (c : Cmd) : Dev :=
  let before := d.abort c.ref stCancelBefore 0
  let flight := (d.count c.acct 63 1).abort c.ref stCancelFlight 0
  match c.phase with
  | .done => d
  | .waiting => before
  | .arrived | .draining | .copying => flight
  | .armed => before
  | .fired => flight
  | .running =>
    if c.isMove || c.op == 0x05 then (if c.begun then flight else before)
    else if c.op = 0x08 then (if c.polled ≠ 0 then flight else before)
    else if c.op = 0x01 then (if c.placed then d else before)
    else if c.op = 0x10 then d.stepCancel c
    else if c.op = 0x19 then before
    else if c.op = 0x12 then (if c.placed then d else before)
    else d

/-- CANCEL_MARK_ARRIVAL: at a tile, or at the command's own unit. -/
def Dev.cancelArrives (d : Dev) (r : CmdRef) (u : Option TileRef) : Dev :=
  match d.cmd r with
  | none => d
  | some c =>
    if !d.live || !c.marked || !c.open_ then d
    else match u with
      | some t => d.cancelTile c t.key
      | none => d.cancelCmd c

def execCancelMarkArrival (c : CmdRef) (u : Option TileRef) (s : State) : Host.Outcome State Fault Refusal := s.act fun d => d.cancelArrives c u

end Sys2Proof.Machine
end

