-- ==== Sys2Proof/Machine/Fabric.lean ====
section
/-! DEFINITION. Machine/Fabric.lean: flits and packets that arrive, remote accesses at their destination, and the time base (R361 to R371, R376 to R381). -/

namespace Sys2Proof.Machine

open Sys2Proof

/-- The fabric runs: it has trained, and no quench is in force (R401, R422). -/
def Dev.fabUp (d : Dev) : Bool := (decide (d.start.stage = .ready) || decide (d.start.stage = .keys)) && decide (d.pwr.q = 0)

/-! ### Remote accesses at the destination (R368, R369) -/

/-- Requester port of accesses that come from other packages. -/
def portFabric : Nat := 123

/-- R368: the partition for which an access of a packet is performed. -/
def Dev.remoteOwner (d : Dev) (p : Packet) (a len : Nat) : Option Nat :=
  let reach := match place a with | .ftier _ | .dtier _ | .yard _ | .store .. => true | _ => false
  if p.jobtag = 0 || !reach then none
  else (List.range 32).find? fun n => decide ((d.part n).st ≠ 0) && decide (d.st.jobtag n = p.jobtag.toNat) && d.grant n a len

/-- R377: the partition is copying for a SNAPSHOT, so remote writes and AMOs for it are held at ingress. -/
def Dev.copying (d : Dev) (n : Nat) : Bool :=
  match (d.part n).snap with
  | some r => (match d.cmd r with | some c => decide (c.phase = .copying) | none => false)
  | none => false

/-- The response to a request: its status (Table 0.9) in OPINFO, and its data. -/
def Dev.answer (d : Dev) (p : Packet) (status : Nat) (bs : List Byte) : Dev :=
  d.post p.src.toNat kResp 1 p.jobtag.toNat p.tid 0 (BitVec.ofNat 64 status) bs

/-- READ: OPINFO gives the bytes, at most 256 (log 30). False: it waits for its domain (R292). -/
def Dev.readAt (d : Dev) (p : Packet) : Dev × Bool :=
  let a := p.addr.toNat
  let n := p.opinfo.toNat
  match (if n ≤ 256 then d.remoteOwner p a n else none) with
  | none => (d.answer p stPermission [], true)
  | some o =>
    if !d.lit a then (d.wantWake a, false)
    else if touchesCredit [(.loc a, n)] then (d.answer p stPermission [], true)
    else if (d.bad a n).isSome then ((d.sawBad ⟨none, some o⟩ false ((d.bad a n).getD 0)).answer p stDetected [], true)
    else let r := d.read ⟨portFabric, o, ⟨none, some o⟩⟩ a n; (r.1.answer p stOk r.2, true)

/-- The window that holds a granted row of a package under a tag. -/
def Dev.grantOf (d : Dev) (pkg tid : BitVec 16) : Option Nat :=
  (d.wins.find? fun e => e.2.granted.any fun q => decide (q.who = .remote pkg tid) && decide (q.data.length < q.bytes)).map (·.1)

/-- Partition of a window's receiver (R312). -/
def Dev.winOwner (d : Dev) (k : Nat) : Nat := if k < 2 ^ 20 then d.tileOwner (k / 8) else d.st.yown ((k - 2 ^ 20) / 8)

/-- WRITE. One with OPINFO bit 63 carries bytes of a granted credited row, in order (log 30). -/
def Dev.writeAt (d : Dev) (p : Packet) : Dev × Bool :=
  let a := p.addr.toNat
  let n := p.data.length
  if wb p.opinfo 63 then
    match d.grantOf p.src p.tid with
    | none => (d, true)
    | some k =>
      if d.copying (d.winOwner k) then (d, false)
      else
        let w := d.win k
        let put (q : CReq) : CReq := { q with data := (q.data ++ p.data).take q.bytes }
        (d.putWin k { w with granted := updFirst (fun q => decide (q.who = .remote p.src p.tid) && decide (q.data.length < q.bytes)) put w.granted }, true)
  else
    match d.remoteOwner p a n with
    | none => (d.answer p stPermission [], true)
    | some o =>
      if d.copying o then (d, false)
      else if !d.lit a then (d.wantWake a, false)
      else if touchesCredit [(.loc a, n)] then (d.answer p stPermission [], true)
      else match d.winCovers a n with
        | some k => ((d.badWr k).answer p stPermission [], true)
        | none =>
          let w := d.write ⟨portFabric, o, ⟨none, some o⟩⟩ a p.data
          match d.badEdge a n with
          | some x => ((w.sawBad ⟨none, some o⟩ false x).answer p stDetected [], true)
          | none => (w.answer p stOk [], true)

/-- Any byte of a run lies in a credit block (R192). -/
def inCreditBlock (a n : Nat) : Bool :=
  match place a with
  | .store _ _ o => decide (0x7FF00 < o + n)
  | .yard o => decide (0xFFFF00 < o % 2 ^ 24 + n)
  | _ => false

/-- AMO: far, at the remote home (R227). Its data are the operation, the size code and the comparand; OPINFO is the operand (log 30). -/
def Dev.amoAt (d : Dev) (p : Packet) : Dev × Bool :=
  let a := p.addr.toNat
  let op := (nthD 0 p.data 0).toNat
  let size := (nthD 0 p.data 1).toNat
  let n := 2 ^ (size % 4)
  let cmp := bfld p.data 2 63 0
  let no : Dev × Bool := (d.answer p stPermission [], true)
  match (if (op ≤ 9 ∨ op = amoRead) ∧ 2 ≤ size ∧ size ≤ 3 ∧ a % n = 0 then d.remoteOwner p a n else none) with
  | none => no
  | some o =>
    if d.copying o then (d, false)
    else if !d.lit a then (d.wantWake a, false)
    else if inCreditBlock a n ∧ (op ≠ amoRead ∨ size ≠ 3) then no
    else match (if op = amoRead then none else d.winCovers a n) with
      | some k => ((d.badWr k).answer p stPermission [], true)
      | none =>
        if (d.mem.holders (a / 128)).isEmpty && (d.bad a n).isSome then ((d.sawBad ⟨none, some o⟩ false ((d.bad a n).getD 0)).answer p stDetected [], true)
        else
          let f (old : Nat) : Option Nat := if op = amoRead then none else amoNew op (8 * n) old p.opinfo.toNat cmp
          let r := d.farAmo ⟨portFabric, o, ⟨none, some o⟩⟩ (.loc a) n f none
          (r.1.answer p stOk (bytesOf n r.2), true)

/-- CREDREQ: OPINFO gives the counter of the receiver and the row's bytes (log 30). -/
def Dev.credreqAt (d : Dev) (p : Packet) : Dev × Bool :=
  let a := p.addr.toNat
  let i := wf p.opinfo 2 0
  let n := wf p.opinfo 63 32
  let no : Dev × Bool := (d.answer p stPermission [], true)
  match (if 1 ≤ n ∧ n ≤ 65536 then d.remoteOwner p a 1 else none) with
  | none => no
  | some _ =>
    let ask (k : Nat) : Dev × Bool :=
      let q := (d.win k).request ⟨.remote p.src p.tid, n, [], 0, false⟩
      if q.2 then (d.putWin k q.1, true) else no
    match place a with
    | .store b t _ => ask (tileWin (tKey b t) i)
    | .yard o => ask (yardWin (o / 2 ^ 24) i)
    | _ => no

/-! ### Responses (R369) -/

/-- The awaited request that a response answers; it is awaited no longer. -/
def Dev.take (d : Dev) (p : Packet) : Dev × Option Waiter :=
  match d.fab.waits.find? fun a => a.tid == p.tid.toNat && a.pkg == p.src.toNat with
  | none => (d, none)
  | some a => ({ d with fab := { d.fab with waits := d.fab.waits.erase a } }, some a.who)

/-- A refused AMO of a SIGNAL, a WAIT or a row counter, or a refused write of a FILL. -/
def Dev.syncRefused (d : Dev) (r : CmdRef) (st : Nat) : Dev :=
  match d.cmd r with
  | none => d
  | some c =>
    let d := d.forget fun w => w = .sync r
    if c.op = 0x18 ∨ c.op = 0x19 then (if st = stDetected then d.atomicError r else d.complete r st)
    else if st = stDetected then d.xferError r 0
    else if c.op = 0x05 then d.complete r st
    else d.rowStop r c.move.delivered st

/-- RESP. -/
def Dev.respAt (d : Dev) (p : Packet) : Dev :=
  let x := d.take p
  let st := p.opinfo.toNat
  let ok := decide (st = stOk)
  match x.2 with
  | none => d
  | some w =>
    let d := x.1
    match w with
    | .agent a dst len va pa => d.agentResp a dst len va pa st p.data
    | .rowRead r row off _ => if ok then d.rowBytes r row off p.data else d.rowRefused r row st
    | .rowWrite r row => if ok then d.rowAnswered r row else d.rowRefused r row st
    | .credit r row => if ok then d else d.rowRefused r row st
    | .sync r => if ok then d.syncResp r (leNat p.data) else d.syncRefused r st
    | .bar2 f va len wr =>
      if ok then (if wr then d else d.emit (.read p.data)) else d.bar2Fault (f - 1) va (if st = stDetected then 4 else 3) len wr

/-- CREDGNT: the row that waits for it sends its data. -/
def Dev.credgntAt (d : Dev) (p : Packet) : Dev :=
  let x := d.take p
  match x.2 with
  | some (.credit r row) => x.1.rowGranted r row p.src.toNat p.tid
  | _ => d

/-! ### The time base (R370) -/

/-- Type of a TIME packet in OPINFO bits 1:0 (log 30): 0 announcement, 1 request, 2 response; bit 63 is the sender's TBMASTER. -/
def Dev.timeOp (d : Dev) (typ : Nat) : Word := BitVec.ofNat 64 (b2n d.st.tbmaster * 2 ^ 63 + typ)

/-- A TIME packet over a direct link. -/
def Dev.sendTime (d : Dev) (pkg typ : Nat) (data : List Byte) : Dev :=
  match (d.directs pkg).head? with
  | none => d
  | some r =>
    let p : Packet := { dst := BitVec.ofNat 16 pkg, src := BitVec.ofNat 16 d.fab.pkgid, jobtag := 0, kind := BitVec.ofNat 6 kTime, vc := 2, stream := 0xFFFF
                        sseq := 0, tid := 0, addr := 0, opinfo := d.timeOp typ, data := data }
    (d.setLink r fun l => { l with outq := l.outq ++ [p] }).drainLink r

/-- Every 10 µs: a package with TBMASTER = 1 tells its chassis, and a follower asks the master. -/
def Dev.timeSend (d : Dev) : Dev :=
  if !d.fabUp then d
  else
    let d := if d.st.tbmaster then d.members.eraseDups.foldl (fun (d : Dev) p => d.sendTime p 0 []) d else d
    if d.fab.master || d.fab.tbm == 0xFFFF then d else d.sendTime d.fab.tbm 1 (bytesOf 8 d.time)

/-- R370: an offset from the master; the last 8 within ±10 ns lock. The correction is at most 100 ppm, 1 ns in 10 µs; how fast it is stays open. -/
def Dev.offsetIs (d : Dev) (o : Int) : Dev :=
  let offs := ((o :: d.fab.offs).take 8)
  let ok := decide (offs.length = 8) && offs.all fun x => decide (-10 ≤ x) && decide (x ≤ 10)
  let f := d.free
  let s : Int := if !wb f.1 0 || decide (o = 0) then 0 else if 0 < o then -1 else 1
  { f.2 with fab := { d.fab with offset := o, offs := offs, locked := ok, slew := s } }

/-- TIME. -/
def Dev.timeAt (d : Dev) (p : Packet) : Dev :=
  let src := p.src.toNat
  let tbs := d.fab.tbs.filter (· ≠ src)
  let d := ({ d with fab := { d.fab with tbs := if wb p.opinfo 63 then src :: tbs else tbs } }).settleMaster
  let t (i : Nat) : Int := bfld p.data (8 * i) 63 0
  match wf p.opinfo 1 0 with
  | 1 => if d.fab.master then d.sendTime src 2 (p.data.take 8 ++ bytesOf 8 d.time ++ bytesOf 8 d.time) else d
  | 2 => if !d.fab.master ∧ d.fab.tbm = src then d.offsetIs (((t 0 - t 1) + ((d.time : Int) - t 2)) / 2) else d
  | _ => d

/-- One nanosecond passes while the block idles (log 1): the time base runs, corrected as R370 says, and TIME exchanges begin every 10 µs. -/
def Dev.tick (d : Dev) : Dev :=
  let n := d.now + 1
  let d : Dev := { d with now := n, start := { d.start with t0 := d.start.t0 - d.fab.slew }, fab := { d.fab with slew := 0 } }
  if n % 10000 = 0 then d.timeSend else d

/-! ### Departure, job reset and routes (R366, R378, R380, R381) -/

/-- DEPART: OPINFO names the package. It is passed on once, over every other link. -/
def Dev.departAt (d : Dev) (p : Packet) : Dev :=
  let g := wf p.opinfo 15 0
  if g = d.fab.pkgid ∨ d.fab.gone.contains g then d
  else
    let on := d.fab.links.filter fun l => l.up && l.ref.ppkg != p.src && l.ref.ppkg.toNat != g
    let d := on.foldl (fun (d : Dev) (l : Link) =>
      (d.setLink l.ref fun l => { l with outq := l.outq ++ [{ p with src := BitVec.ofNat 16 d.fab.pkgid, dst := l.ref.ppkg }] }).drainLink l.ref) d
    d.departed g

/-- JOBRESET: OPINFO holds the reason of the origin (log 30). -/
def Dev.jobresetAt (d : Dev) (p : Packet) : Dev :=
  if p.jobtag = 0 then d else d.jobReset p.jobtag.toNat 0 (wf p.opinfo 7 0)

/-- 16-bit package IDs of a ROUTE packet (log 30). -/
def routeIds : List Byte → List Nat
  | a :: b :: rest => (a.toNat + 256 * b.toNat) :: routeIds rest
  | _ => []

/-- ROUTE: the switch that sent it advertises these packages on its uplinks, and no others. -/
def Dev.routeAt (d : Dev) (p : Packet) : Dev :=
  let links := d.fab.links.map fun (l : Link) => if l.ref.ppkg = p.src && d.linkIsSwitch l.ref then { l with routes := routeIds p.data } else l
  let d : Dev := { d with fab := { d.fab with links := links } }
  d.waitedOn.foldl (fun (d : Dev) g => d.routeLost g) d

/-! ### Streams (R367) -/

/-- What a packet does, and whether it could act now. Reserved kinds do nothing. -/
def Dev.actPkt (d : Dev) (p : Packet) : Dev × Bool :=
  match p.kind.toNat with
  | 1 => d.readAt p
  | 2 => d.writeAt p
  | 3 => d.amoAt p
  | 4 => (d.respAt p, true)
  | 5 => d.credreqAt p
  | 6 => (d.credgntAt p, true)
  | 8 => ((d.arrivePkt p).barRetry, true)
  | 9 => (d.releasePkt p, true)
  | 10 => (d.bcastPkt p, true)
  | 18 => (d.jobresetAt p, true)
  | _ => (d, true)

/-- Kinds that act between neighbours, outside every stream (log 30). -/
def unstreamed (k : Nat) : Bool := k == kTime || k == kDepart || k == kRoute

def streamKey (p : Packet) : Nat := p.stream.toNat * 65536 + p.src.toNat

/-- A stream's packets act in SSEQ order, up to the first that is missing or has to wait. -/
def Dev.streamGo (key : Nat) : Nat → Dev → Dev
  | 0, d => d
  | k + 1, d =>
    match d.fab.held.find? fun p => streamKey p == key && p.sseq.toNat == SMap.get 0 d.fab.sin key with
    | none => d
    | some p =>
      let r := d.actPkt p
      if r.2 then
        Dev.streamGo key k { r.1 with fab := { r.1.fab with held := r.1.fab.held.filter fun x => x ≠ p,
                                                            sin := SMap.upd 0 r.1.fab.sin key fun n => (n + 1) % 65536 } }
      else r.1

/-- Packets that waited for a domain, a copy or their order act. -/
def Dev.fabRetry (d : Dev) : Dev :=
  let late := d.fab.ingress
  let d := late.foldl (fun (d : Dev) p =>
    let r := d.actPkt p
    if r.2 then r.1 else { r.1 with fab := { r.1.fab with ingress := r.1.fab.ingress ++ [p] } }) { d with fab := { d.fab with ingress := [] } }
  (d.fab.held.map streamKey).eraseDups.foldl (fun (d : Dev) k => d.streamGo k (d.fab.held.length)) d

/-- A packet reaches its package: out of order it is held, and one already acted on is discarded. -/
def Dev.arrive (d : Dev) (p : Packet) : Dev :=
  if !d.fabUp || p.dst.toNat ≠ d.fab.pkgid || d.fab.gone.contains p.src.toNat then d
  else if p.kind.toNat = kTime then d.timeAt p
  else if p.kind.toNat = kDepart then d.departAt p
  else if p.kind.toNat = kRoute then d.routeAt p
  else
    let key := streamKey p
    let ahead := (p.sseq.toNat + 65536 - SMap.get 0 d.fab.sin key) % 65536
    let dup := d.fab.held.any fun x => streamKey x == key && x.sseq == p.sseq
    if 32768 ≤ ahead then d
    else
      let d := if dup then d else { d with fab := { d.fab with held := d.fab.held ++ [p] } }
      (d.streamGo key d.fab.held.length).fabRetry

/-- The row of one kind of packet. -/
def Dev.arriveKind (d : Dev) (k : Nat) (p : Packet) : Dev := if p.kind.toNat = k then d.arrive p else d

/-! ### Flits (R361 to R363) -/

/-- The flit is whole and its CRC is right. -/
def flitOk (f : List Byte) : Bool := decide (f.length = 256) && decide (bfld f 0xF8 63 0 = crc64 (f.take 0xF8))

/-- ACK, NAK and credit fields of a flit that was received correctly: acknowledged flits leave the replay buffer, and a NAK resends the rest. -/
def Dev.flitFields (d : Dev) (r : LinkRef) (f : List Byte) : Dev :=
  match d.link r with
  | none => d
  | some l =>
    let ack := bfld f 0 49 36
    let cov := l.replay.any fun e => e.1 == ack
    let rest := if cov then (l.replay.dropWhile fun e => e.1 != ack).drop 1 else l.replay
    let vc := bfld f 0 32 31
    let credit := updNth l.credit vc fun n => n + bfld f 0 30 20
    let l := { l with replay := rest, acked := (if cov then ack else l.acked), resent := (if cov then 0 else l.resent), credit := credit }
    let d := d.setLink r fun _ => l
    if bfld f 0 35 35 = 1 ∧ !rest.isEmpty then
      if 8 ≤ l.resent then d.linkDown r
      else
        let d := d.setLink r fun l => { l with resent := l.resent + 1 }
        let d := d.setPort r.port.val fun p => { p with replays := sat 16 (p.replays + rest.length) }
        rest.foldl (fun (d : Dev) e => d.emit (.flit r e.2)) d
    else d.drainLink r

/-- A flit is discarded, and NAK goes back with the current ACK. -/
def Dev.flitNak (d : Dev) (r : LinkRef) (l : Link) : Dev := d.emit (.control r ((l.rx + 2 ^ 14 - 1) % 2 ^ 14) true 0 0)

/-- FLIT_RECEIVE. -/
def Dev.flitIn (d : Dev) (r : LinkRef) (f : List Byte) : Dev :=
  match d.link r with
  | none => d
  | some l =>
    let typ := bfld f 0 34 33
    if !d.fabUp || !l.up then d
    else if !flitOk f then (d.setPort r.port.val fun p => { p with crcerr := sat 16 (p.crcerr + 1) }).flitNak r l
    else if 2 ≤ typ then d
    else if typ = 1 then d.flitFields r f
    else if bfld f 0 63 50 ≠ l.rx then d.flitNak r l
    else
      let part := l.part ++ (f.drop 8).take 240
      let whole := decide (packetLen part ≤ part.length)
      let p := packetOf part
      let d := d.setLink r fun l => { l with rx := (l.rx + 1) % 2 ^ 14, part := if whole then [] else part }
      let d := (d.emit (.control r l.rx false (bfld part 0 9 8) 1)).flitFields r f
      if whole then d.arrive p else d

/-- LINK_RETRAIN: an attempt on the port of a link that is down; the lanes are those that trained, none where it failed. -/
def Dev.linkRetrain (d : Dev) (r : LinkRef) (ls : List LaneInfo) : Dev :=
  let up := match d.link r with | some l => l.up | none => false
  if !d.fabUp || up then d else d.trainLanes (ls.filter fun i => i.port = r.port)

end Sys2Proof.Machine
end

