-- ==== Sys2Proof/Machine/Scrub.lean ====
section
/-! DEFINITION. Machine/Scrub.lean: scrubbing and the error rates of sites, held interrupts, and the size of the VF BAR2 (R234, R337, R350, R398). -/

namespace Sys2Proof.Machine

open Sys2Proof

def siteUnit (deep : Bool) (site : Nat) : HwUnit :=
  if deep then .dsite ⟨site % 40, Nat.mod_lt _ (by decide)⟩ else .fsite ⟨site % 24, Nat.mod_lt _ (by decide)⟩

/-- SITE_WITHDRAWAL (R331): an F-tier site is one of 24. -/
def Dev.siteWithdrawal (d : Dev) (deep : Bool) (site : Nat) : Dev :=
  if deep || decide (site < 24) then d.withdrawal (siteUnit deep site) else d

/-- Distinct addresses that a record of errors holds for a site within a span of time up to now. -/
def errorsIn (l : List (Nat × Nat × Nat)) (key now span : Nat) : Nat :=
  ((l.filter fun e => e.1 = key ∧ now < e.2.2 + span).map (·.2.1)).eraseDups.length

/-- R398: a site past an error-rate limit leaves service: corrections at more than 1,024 addresses in 60 minutes, or 8 uncorrectable lines in 24 hours. -/
def Dev.errorRate (d : Dev) (deep : Bool) (site : Nat) : Dev :=
  let key := b2n deep * 64 + site
  if 1024 < errorsIn d.corr key d.now 3600000000000 ∨ 8 ≤ errorsIn d.uncorr key d.now 86400000000000 then d.siteWithdrawal deep site else d

/-- The partition that owns a tier unit, its pool included. -/
def ownerOf (o : Nat) : Option Nat := if o < 32 then some o else if 32 ≤ o ∧ o < 64 then some (o - 32) else none

/-- SCRUB (R234) of a 64-byte block, on its site: a corrected block is counted, an uncorrectable error poisons the 128-byte line that holds it. -/
def Dev.scrub (d : Dev) (deep : Bool) (site block : Nat) (r : ScrubResult) : Dev :=
  let a := 64 * block
  let line := block / 2
  let here := match place a with | .ftier x => !deep && x == site | .dtier x => deep && x == site | _ => false
  if !d.live || !here || !d.siteIn (deep, site) then d
  else
    let key := b2n deep * 64 + site
    let own := ownerOf (d.town (unitOf a))
    match r with
    | .clean => d
    | .corrected =>
      let d := { d with corr := d.corr ++ [(key, block, d.now)] }
      (d.count ⟨none, own⟩ 58 1).errorRate deep site
    | .uncorrectable =>
      let d : Dev := { d with mem := { d.mem with poison := SMap.put 0 d.mem.poison line 1 }, uncorr := d.uncorr ++ [(key, line, d.now)] }
      let d := match own with | some n => d.raiseEvt n 6 | none => d.event 0x0A (BitVec.ofNat 64 (128 * line))
      d.errorRate deep site

/-- ITR_EXPIRY (R350): a message that waited for the least gap of its queue is sent. -/
def Dev.itrExpiry (d : Dev) (qk : Nat) : Dev := if d.live && (d.queue qk).irqWait then d.queueIrq qk else d

/-- VF_BAR2_SIZE_WRITE (R337): 2 MiB to 64 GiB, for every VF; ignored while VF Memory Space Enable is set. -/
def Dev.bar2Size (d : Dev) (log : Nat) (mse : Bool) : Dev :=
  let d : Dev := { d with start := { d.start with vfMse := mse } }
  if !d.answers || mse || decide (log < 21) || decide (36 < log) then d else { d with start := { d.start with bar2log := log } }

/-- A write of TNG_REQ whose KIND is the row's (Table 8.3). -/
def Dev.tngReqOf (d : Dev) (kind : Nat) (v : Word) : Dev := if d.answers && wf v 39 38 == kind then d.tngReq v else d

end Sys2Proof.Machine
end

