-- ==== Sys2Proof/Machine/CmdExec.lean ====
section
/-! DEFINITION. Machine/CmdExec.lean: the meanings of the commands about commands of the queues and the queue registers (KERNEL to SNAPSHOT, the doorbell, acceptance and completion (chapters 07, 08, 10, 11)). -/

namespace Sys2Proof.Machine

open Sys2Proof

/-- KERNEL (R348). -/
def execKernel (c : CmdRef) (s : State) : Host.Outcome State Fault Refusal :=
  s.act fun (d : Dev) => d.kernel c
/-- MOVE (R249). -/
def execMoveCmd (c : CmdRef) (s : State) : Host.Outcome State Fault Refusal :=
  s.act fun (d : Dev) => d.moveGo c 2
/-- COPY_IN (R345). -/
def execCopyIn (c : CmdRef) (s : State) : Host.Outcome State Fault Refusal :=
  s.act fun (d : Dev) => d.moveGo c 3
/-- COPY_OUT (R345). -/
def execCopyOut (c : CmdRef) (s : State) : Host.Outcome State Fault Refusal :=
  s.act fun (d : Dev) => d.moveGo c 4
/-- FILL (R255). -/
def execFill (c : CmdRef) (s : State) : Host.Outcome State Fault Refusal :=
  s.act fun (d : Dev) => d.fill c
/-- PREFETCH (R256). -/
def execPrefetch (c : CmdRef) (s : State) : Host.Outcome State Fault Refusal :=
  s.act fun (d : Dev) => d.prefetch c
/-- ADVISE (R260). -/
def execAdvise (c : CmdRef) (s : State) : Host.Outcome State Fault Refusal :=
  s.act fun (d : Dev) => d.advise c
/-- RESUME (R254). -/
def execResume (c : CmdRef) (s : State) : Host.Outcome State Fault Refusal :=
  s.act fun (d : Dev) => d.resumeCmd c
/-- SIGNAL (R346). -/
def execSignal (c : CmdRef) (s : State) : Host.Outcome State Fault Refusal :=
  s.act fun (d : Dev) => d.signal c
/-- WAIT (R346). -/
def execWaitCmd (c : CmdRef) (s : State) : Host.Outcome State Fault Refusal :=
  s.act fun (d : Dev) => d.waitStart c
/-- WAIT_POLL (R346). -/
def execWaitPoll (c : CmdRef) (s : State) : Host.Outcome State Fault Refusal :=
  s.act fun (d : Dev) => d.waitRead c
/-- FENCE (R346). -/
def execFenceCmd (c : CmdRef) (s : State) : Host.Outcome State Fault Refusal :=
  s.act fun (d : Dev) => d.fenceCmd c
/-- NOP (R346). -/
def execNop (c : CmdRef) (s : State) : Host.Outcome State Fault Refusal :=
  s.act fun (d : Dev) => d.nopCmd c
/-- CANCEL (R294). -/
def execCancel (c : CmdRef) (s : State) : Host.Outcome State Fault Refusal :=
  s.act fun (d : Dev) => d.cancel c
/-- DUMP (R465). -/
def execDump (c : CmdRef) (s : State) : Host.Outcome State Fault Refusal :=
  s.act fun (d : Dev) => d.dump c
/-- DUMP_FIRE (R466). -/
def execDumpFire (c : CmdRef) (s : State) : Host.Outcome State Fault Refusal :=
  s.act fun (d : Dev) => d.dumpFire c
/-- MARK (R464). -/
def execMark (c : CmdRef) (s : State) : Host.Outcome State Fault Refusal :=
  s.act fun (d : Dev) => d.markCmd c
/-- BARRIER (R373). -/
def execBarrier (c : CmdRef) (s : State) : Host.Outcome State Fault Refusal :=
  s.act fun (d : Dev) => d.barrier c
/-- SNAPSHOT (R377). -/
def execSnapshot (c : CmdRef) (s : State) : Host.Outcome State Fault Refusal :=
  s.act fun (d : Dev) => (d.snapshot c).fabRetry
/-- SNAPSHOT_DRAIN_COMPLETE (R377). -/
def execSnapshotDrainComplete (c : CmdRef) (s : State) : Host.Outcome State Fault Refusal :=
  s.act fun (d : Dev) => d.snapDrained c
/-- DOORBELL (R339). -/
def execDoorbell (q : QRef) (v : Word) (s : State) : Host.Outcome State Fault Refusal :=
  s.act fun (d : Dev) => if d.answers then d.doorbell q.fn.val q.q.val v.toNat else d
/-- ACCEPTANCE (R340). -/
def execAcceptance (q : QRef) (s : State) : Host.Outcome State Fault Refusal :=
  s.act fun (d : Dev) => d.accept q.fn q.q
/-- COMPLETION_RECORD_WRITE (R342). -/
def execCompletionRecordWrite (c : CmdRef) (s : State) : Host.Outcome State Fault Refusal :=
  s.act fun (d : Dev) => if d.live then d.writeRecord c false else d
/-- Q_CFG_WRITE (R338). -/
def execQCfgWrite (q : QRef) (v : Word) (s : State) : Host.Outcome State Fault Refusal :=
  s.act fun (d : Dev) => if d.answers then d.qWrite q.fn.val q.q.val 2 v else d
/-- Q_RESET (R428). -/
def execQReset (q : QRef) (s : State) : Host.Outcome State Fault Refusal :=
  s.act fun (d : Dev) => if d.answers then d.qReset q.key else d
/-- ROW_DELIVERED (R249). -/
def execRowDelivered (c : CmdRef) (s : State) : Host.Outcome State Fault Refusal :=
  s.act fun (d : Dev) => d.rowDelivered c
/-- PARK_TIMEOUT (R253). -/
def execParkTimeout (c : CmdRef) (s : State) : Host.Outcome State Fault Refusal :=
  s.act fun (d : Dev) => d.parkTimeout c
/-- PLACEMENT (R265). -/
def execPlacement (c : CmdRef) (s : State) : Host.Outcome State Fault Refusal :=
  s.act fun (d : Dev) => d.placement c
/-- CREDITED_WRITE_REQUEST (R202). -/
def execCreditedWriteRequest (c : CmdRef) (s : State) : Host.Outcome State Fault Refusal :=
  s.act fun (d : Dev) => d.creditReq c
/-- ITR_EXPIRY (R350). -/
def execItrExpiry (q : QRef) (s : State) : Host.Outcome State Fault Refusal :=
  s.act fun (d : Dev) => d.itrExpiry q.key

end Sys2Proof.Machine
end

