-- ==== Sys2Proof/Machine/PartExec.lean ====
section
/-! DEFINITION. Machine/PartExec.lean: the meanings of the commands about partitions, translation and host access (chapter 10 and R243 to R246). -/

namespace Sys2Proof.Machine

open Sys2Proof

/-- PART_CTL_RESET (R325). -/
def execPartCtlReset (n : Fin 32) (s : State) : Host.Outcome State Fault Refusal :=
  s.act fun (d : Dev) => if d.answers && (d.part n.val).st != 0 then d.partReset n.val 1 else d
/-- PARTITION_RESET_COMPLETE (R326). -/
def execPartitionResetComplete (n : Fin 32) (s : State) : Host.Outcome State Fault Refusal :=
  s.act fun (d : Dev) => (d.resetComplete n.val).settleJob
/-- PART_CTL_RESUME (R327). -/
def execPartCtlResume (n : Fin 32) (s : State) : Host.Outcome State Fault Refusal :=
  s.act fun (d : Dev) => if d.answers then d.partResume n.val else d
/-- PART_ASTART (R332). -/
def execPartAstart (n : Fin 32) (v : Word) (s : State) : Host.Outcome State Fault Refusal :=
  s.act fun (d : Dev) => if d.answers then d.astart n.val v else d
/-- FLR (R356). -/
def execFlr (f : Fin 33) (s : State) : Host.Outcome State Fault Refusal :=
  s.act fun (d : Dev) => d.flr f.val
/-- BAR2_ACCESS (R337). -/
def execBar2Access (f : Fin 33) (off : Word) (wr : Option (List Byte)) (len : Nat) (s : State) : Host.Outcome State Fault Refusal :=
  s.act fun (d : Dev) => d.bar2 f.val off.toNat wr len
/-- XLAT_INVALIDATE (R244). -/
def execXlatInvalidate (n : Fin 32) (v : Word) (s : State) : Host.Outcome State Fault Refusal :=
  s.act fun (d : Dev) => if d.answers then d.invalidate n.val v else d
/-- XLAT_INVALIDATE_DONE (R244). -/
def execXlatInvalidateDone (n : Fin 32) (s : State) : Host.Outcome State Fault Refusal :=
  s.act fun (d : Dev) => d.invalidateDone n.val
/-- SHARE_RECOMPUTE (R329). -/
def execShareRecompute (s : State) : Host.Outcome State Fault Refusal :=
  s.act fun (d : Dev) => d.shareRecompute
/-- VF_BAR2_SIZE_WRITE (R337). -/
def execVfBar2SizeWrite (log : Nat) (mse : Bool) (s : State) : Host.Outcome State Fault Refusal :=
  s.act fun (d : Dev) => d.bar2Size log mse

end Sys2Proof.Machine
end

