-- ==== Sys2Proof/Machine/TileExec.lean ====
section
/-! DEFINITION. Machine/TileExec.lean: the meanings of the commands about the units of a tile (chapters 02 to 04, R148 to R173, R288, R295). -/

namespace Sys2Proof.Machine

open Sys2Proof

/-- COURSE_COMMAND_START (R53). -/
def execCourseCommandStart (t : TileRef) (s : State) : Host.Outcome State Fault Refusal :=
  s.act fun (d : Dev) => d.unit t.key (courseStart d.weld)
/-- STATIONARY_LOAD (R66). -/
def execStationaryLoad (t : TileRef) (s : State) : Host.Outcome State Fault Refusal :=
  s.act fun (d : Dev) => d.unit t.key (parity t.key 3 (fun t _ => loadRuns d.weld t) (Machine.stationaryLoad d.weld))
/-- SHADOW_EXCHANGE (R67). -/
def execShadowExchange (t : TileRef) (k : Fin 4) (s : State) : Host.Outcome State Fault Refusal :=
  s.act fun (d : Dev) => d.unit t.key (Machine.shadowExchange d.weld k.val)
/-- VECTOR_ADMISSION (R55). -/
def execVectorAdmission (t : TileRef) (k : Fin 4) (upset : List (Nat × Word32)) (s : State) : Host.Outcome State Fault Refusal :=
  s.act fun (d : Dev) => d.unit t.key (parity t.key 3 (vectorRuns d.weld k.val) (Machine.vectorAdmission d.weld k.val upset))
/-- COURSE_PROOF_SELF_TEST (R83). -/
def execCourseProofSelfTest (t : TileRef) (pass : Bool) (s : State) : Host.Outcome State Fault Refusal :=
  s.act fun (d : Dev) => d.selfTestTile t pass
/-- COMMIT (R71). -/
def execCommit (t : TileRef) (s : State) : Host.Outcome State Fault Refusal :=
  s.act fun (d : Dev) => d.unit t.key (parity t.key 3 (commitRuns d.weld) (Machine.commit d.weld))
/-- CONVERT (R108). -/
def execConvert (t : TileRef) (k : Fin 4) (s : State) : Host.Outcome State Fault Refusal :=
  s.act fun (d : Dev) => d.unit t.key (parConv t.key k.val 0 (guardConv k.val 0 (Machine.convert k.val)))
/-- WFOLD (R116). -/
def execWfold (t : TileRef) (k : Fin 4) (s : State) : Host.Outcome State Fault Refusal :=
  s.act fun (d : Dev) => d.unit t.key (parConv t.key k.val 1 (guardConv k.val 1 (Machine.wfold d.weld k.val)))
/-- WROUND (R117). -/
def execWround (t : TileRef) (k : Fin 4) (s : State) : Host.Outcome State Fault Refusal :=
  s.act fun (d : Dev) => d.unit t.key (parConv t.key k.val 2 (guardConv k.val 2 (Machine.wround d.weld k.val)))
/-- WCLEAR (R117). -/
def execWclear (t : TileRef) (k : Fin 4) (s : State) : Host.Outcome State Fault Refusal :=
  s.act fun (d : Dev) => d.unit t.key (parConv t.key k.val 3 (guardConv k.val 3 (Machine.wclear d.weld k.val)))
/-- WELD_SPLIT_START (R113). -/
def execWeldSplitStart (t : TileRef) (s : State) : Host.Outcome State Fault Refusal :=
  s.act fun (d : Dev) => d.unit t.key (parity t.key 5 (fun t _ => splitRuns t) (guardSplit (weldSplit d.weld)))
/-- BANK_LOAD_START (R172). -/
def execBankLoadStart (t : TileRef) (s : State) : Host.Outcome State Fault Refusal :=
  s.act fun (d : Dev) => d.unit t.key (parity t.key 5 (bldRuns) (guardBld bankLoad))
/-- SWAGE_PROGRAM_START (R122). -/
def execSwageProgramStart (t : TileRef) (s : State) : Host.Outcome State Fault Refusal :=
  s.act fun (d : Dev) => d.unit t.key (parity t.key 2 (swageRuns (decide (d.var = .lk9220))) (guardSwage (decide (d.var = .lk9220))))
/-- SWAGE_PROGRAM_COMPLETE (R143). -/
def execSwageProgramComplete (t : TileRef) (s : State) : Host.Outcome State Fault Refusal :=
  s.act fun (d : Dev) => d.unit t.key (parity t.key 2 (fun t _ => countRuns t) swageComplete)
/-- THREAD_LAUNCH_START (R148). -/
def execThreadLaunchStart (t : TileRef) (s : State) : Host.Outcome State Fault Refusal :=
  s.act fun (d : Dev) => d.unit t.key (parity t.key 1 (fun t _ => launchRuns t) (launchStart t.tile.val fun i => d.tileIn (tKey t.brick.val i)))
/-- BLOCK_START (R149). -/
def execBlockStart (t : TileRef) (s : State) : Host.Outcome State Fault Refusal :=
  s.act fun (d : Dev) => d.unit t.key (Machine.blockStart t.brick.val t.tile.val)
/-- CBAR_COMPLETE (R156). -/
def execCbarComplete (t : TileRef) (s : State) : Host.Outcome State Fault Refusal :=
  s.act fun (d : Dev) => d.cbarComplete t
/-- TASK_END (R173). -/
def execTaskEnd (t : TileRef) (s : State) : Host.Outcome State Fault Refusal :=
  s.act fun (d : Dev) => d.taskEnd t
/-- DISPATCH_ARRIVAL (R288). -/
def execDispatchArrival (t : TileRef) (s : State) : Host.Outcome State Fault Refusal :=
  s.act fun (d : Dev) => d.dispatchArrival t
/-- ARBITER_GRANT (R295). -/
def execArbiterGrant (t : TileRef) (s : State) : Host.Outcome State Fault Refusal :=
  s.act fun (d : Dev) => d.arbiterGrant t

end Sys2Proof.Machine
end

