-- ==== Sys2Proof/Machine/MemExec.lean ====
section
/-! DEFINITION. Machine/MemExec.lean: the meanings of the commands about memory controllers, credit windows and the Hearth (chapters 06 and 07). -/

namespace Sys2Proof.Machine

open Sys2Proof

/-- SCRUB (R234). -/
def execScrub (deep : Bool) (site : Fin 40) (block : Nat) (r : ScrubResult) (s : State) : Host.Outcome State Fault Refusal :=
  s.act fun (d : Dev) => d.scrub deep site.val block r
/-- CREDIT_GRANT (R202). -/
def execCreditGrant (w : WinRef) (s : State) : Host.Outcome State Fault Refusal :=
  s.act fun (d : Dev) => d.creditGrant w.key
/-- INGRESS_CREDIT_GRANT (R198). -/
def execIngressCreditGrant (rcv : Nat) (snd : Nat) (blocks : Nat) (s : State) : Host.Outcome State Fault Refusal :=
  s.act fun (d : Dev) => d.ingrGrant rcv snd blocks
/-- ROW_LANDS (R203). -/
def execRowLands (w : WinRef) (s : State) : Host.Outcome State Fault Refusal :=
  s.act fun (d : Dev) => d.rowLands w.key
/-- CREDIT_CFG_WRITE (R201). -/
def execCreditCfgWrite (w : WinRef) (v : Word) (s : State) : Host.Outcome State Fault Refusal :=
  s.act fun (d : Dev) => if d.answers then d.winCfg w.key v else d
/-- CREDIT_RELEASE (R203). -/
def execCreditRelease (w : WinRef) (v : Word) (s : State) : Host.Outcome State Fault Refusal :=
  s.act fun (d : Dev) => if d.answers then d.winRelease w.key (wf v 15 0) else d
/-- HEARTH_FLUSH (R212). -/
def execHearthFlush (s : State) : Host.Outcome State Fault Refusal :=
  s.act fun (d : Dev) => if d.answers then d.hearthFlush else d
/-- HEARTH_FLUSH_DONE (R212). -/
def execHearthFlushDone (s : State) : Host.Outcome State Fault Refusal :=
  s.act fun (d : Dev) => d.hearthFlushDone
/-- PRED_CLR (R228). -/
def execPredClr (s : State) : Host.Outcome State Fault Refusal :=
  s.act fun (d : Dev) => if d.answers then d.predClr else d

end Sys2Proof.Machine
end

