-- ==== Sys2Proof/Machine/TongsExec.lean ====
section
/-! DEFINITION. Machine/TongsExec.lean: the meanings of the commands about roles, power states and units that leave service (chapter 08, R35, R331, R478). -/

namespace Sys2Proof.Machine

open Sys2Proof

/-- ROLE_CHANGE (R288). -/
def execRoleChange (p : Fin 72) (role : BitVec 3) (s : State) : Host.Outcome State Fault Refusal :=
  s.act fun (d : Dev) => d.roleChange p.val role.toNat
/-- REBALANCE (R287). -/
def execRebalance (n : Fin 32) (s : State) : Host.Outcome State Fault Refusal :=
  s.act fun (d : Dev) => d.rebalance n.val
/-- TNG_REQ_ROLE (R264). -/
def execTngReqRole (v : Word) (s : State) : Host.Outcome State Fault Refusal :=
  s.act fun (d : Dev) => d.tngReqOf 0 v
/-- TNG_REQ_BRICK_PSTATE (R293). -/
def execTngReqBrickPstate (v : Word) (s : State) : Host.Outcome State Fault Refusal :=
  s.act fun (d : Dev) => d.tngReqOf 1 v
/-- TNG_REQ_REGION_PSTATE (R293). -/
def execTngReqRegionPstate (v : Word) (s : State) : Host.Outcome State Fault Refusal :=
  s.act fun (d : Dev) => d.tngReqOf 2 v
/-- TNG_CONFIG_WRITE (R272). -/
def execTngConfigWrite (n : Fin 32) (word : Fin 7) (v : Word) (s : State) : Host.Outcome State Fault Refusal :=
  s.act fun (d : Dev) => if d.answers then d.tngWrite n.val word.val v else d
/-- BANKING (R291). -/
def execBanking (d : PDom) (s : State) : Host.Outcome State Fault Refusal :=
  s.act fun (dev : Dev) => dev.banking d
/-- BANKED (R291). -/
def execBanked (d : PDom) (s : State) : Host.Outcome State Fault Refusal :=
  s.act fun (dev : Dev) => dev.banked d
/-- COLD (R291). -/
def execColdDom (d : PDom) (s : State) : Host.Outcome State Fault Refusal :=
  s.act fun (dev : Dev) => dev.coldDom d
/-- WAKE (R292). -/
def execWake (d : PDom) (s : State) : Host.Outcome State Fault Refusal :=
  s.act fun (dev : Dev) => (dev.wake d).fabRetry
/-- WITHDRAWAL_EVENT (R478). -/
def execWithdrawalEvent (u : HwUnit) (s : State) : Host.Outcome State Fault Refusal :=
  s.act fun (d : Dev) => d.withdrawal u
/-- SITE_WITHDRAWAL (R331). -/
def execSiteWithdrawal (deep : Bool) (site : Fin 40) (s : State) : Host.Outcome State Fault Refusal :=
  s.act fun (d : Dev) => d.siteWithdrawal deep site.val

end Sys2Proof.Machine
end

