-- ==== Sys2Proof/Machine/BellowsExec.lean ====
section
/-! DEFINITION. Machine/BellowsExec.lean: the meanings of the commands about images and the management port (chapters 09 and 12). -/

namespace Sys2Proof.Machine

open Sys2Proof

/-- IMG_PCTL_GO (R321). -/
def execImgPctlGo (s : State) : Host.Outcome State Fault Refusal :=
  s.act fun (d : Dev) => if d.answers then d.imgGo else d
/-- PARTIAL_APPLY (R321). -/
def execPartialApply (s : State) : Host.Outcome State Fault Refusal :=
  s.act fun (d : Dev) => d.partialApply
/-- PARTIAL_IMAGE_DONE (R321). -/
def execPartialImageDone (s : State) : Host.Outcome State Fault Refusal :=
  s.act fun (d : Dev) => d.partialDone.settleJob
/-- CAP_SET (R386). -/
def execCapSet (h : BmpHdr) (cap : BitVec 8) (slope : BitVec 16) (s : State) : Host.Outcome State Fault Refusal :=
  s.act fun (d : Dev) => d.capSet h cap.toNat slope.toNat
/-- CAP_GET (R412). -/
def execCapGet (h : BmpHdr) (s : State) : Host.Outcome State Fault Refusal :=
  s.act fun (d : Dev) => d.capGet h
/-- QUENCH (R399). -/
def execQuench (h : BmpHdr) (s : State) : Host.Outcome State Fault Refusal :=
  s.act fun (d : Dev) => d.quenchMsg h
/-- RELEASE (R402). -/
def execRelease (h : BmpHdr) (s : State) : Host.Outcome State Fault Refusal :=
  s.act fun (d : Dev) => d.releaseMsg h
/-- TEL_SUB (R413). -/
def execTelSub (h : BmpHdr) (ms : Nat) (dst : BitVec 144) (s : State) : Host.Outcome State Fault Refusal :=
  s.act fun (d : Dev) => d.telSub h ms dst
/-- TELEMETRY (R413). -/
def execTelemetry (sub : Nat) (s : State) : Host.Outcome State Fault Refusal :=
  s.act fun (d : Dev) => d.telemetry sub
/-- SLOT_WRITE (R298). -/
def execSlotWrite (h : BmpHdr) (slot : Slot) (off : Nat) (data : List Byte) (s : State) : Host.Outcome State Fault Refusal :=
  s.act fun (d : Dev) => d.slotWrite h slot off data
/-- SLOT_READ (R296). -/
def execSlotRead (h : BmpHdr) (slot : Slot) (off len : Nat) (s : State) : Host.Outcome State Fault Refusal :=
  s.act fun (d : Dev) => d.slotRead h slot off len
/-- BOOTSEL (R297). -/
def execBootsel (h : BmpHdr) (slot : Slot) (s : State) : Host.Outcome State Fault Refusal :=
  s.act fun (d : Dev) => d.bootsel h slot
/-- PARTIAL (R321). -/
def execPartialMsg (h : BmpHdr) (off : Nat) (data : List Byte) (last : Bool) (s : State) : Host.Outcome State Fault Refusal :=
  s.act fun (d : Dev) => d.partialMsg h off data last
/-- FW_WRITE (R405). -/
def execFwWrite (h : BmpHdr) (off : Nat) (data : List Byte) (s : State) : Host.Outcome State Fault Refusal :=
  s.act fun (d : Dev) => d.fwWrite h off data
/-- KEY_INSTALL (R304). -/
def execKeyInstall (h : BmpHdr) (key : BitVec 256) (sig : List Byte) (s : State) : Host.Outcome State Fault Refusal :=
  s.act fun (d : Dev) => d.keyInstall h key sig
/-- SPDM (R412). -/
def execSpdm (h : BmpHdr) (data : List Byte) (s : State) : Host.Outcome State Fault Refusal :=
  s.act fun (d : Dev) => d.spdm h data
/-- RESET (R414). -/
def execResetMsg (h : BmpHdr) (kind : ResetMsg) (s : State) : Host.Outcome State Fault Refusal :=
  s.act fun (d : Dev) => d.resetMsg h kind
/-- LOOPBACK (R236). -/
def execLoopback (h : BmpHdr) (deep : Bool) (site : Fin 40) (pass : Bool) (s : State) : Host.Outcome State Fault Refusal :=
  s.act fun (d : Dev) => d.loopback h deep site.val pass
/-- LOG_READ (R411). -/
def execLogRead (h : BmpHdr) (idx count : Nat) (s : State) : Host.Outcome State Fault Refusal :=
  s.act fun (d : Dev) => d.logRead h idx count
/-- SHED_LEVEL_UPDATE (R407). -/
def execShedLevelUpdate (load : Nat) (above95 below100 : Bool) (s : State) : Host.Outcome State Fault Refusal :=
  s.act fun (d : Dev) => d.shedUpdate load above95 below100
/-- BELLOWS_LOAD_WRITE (R483). -/
def execBellowsLoadWrite (v : Word) (s : State) : Host.Outcome State Fault Refusal :=
  s.act fun (d : Dev) => if d.answers then d.loadWrite v else d
/-- WATCHDOG_EXPIRY (R408). -/
def execWatchdogExpiry (s : State) : Host.Outcome State Fault Refusal :=
  s.act fun (d : Dev) => d.watchdog
/-- BELLOWS_FAILED_TIMEOUT (R408). -/
def execBellowsFailedTimeout (s : State) : Host.Outcome State Fault Refusal :=
  s.act fun (d : Dev) => d.watchdogEnd

end Sys2Proof.Machine
end

