-- ==== Sys2Proof/Machine/PowerExec.lean ====
section
/-! DEFINITION. Machine/PowerExec.lean: the meanings of the commands about power, heat, pins and start-up (chapters 12 to 14). -/

namespace Sys2Proof.Machine

open Sys2Proof

/-- TEMPERATURE_SAMPLE (R396). -/
def execTemperatureSample (r : List (Sensor × Int)) (s : State) : Host.Outcome State Fault Refusal :=
  s.act fun (d : Dev) => d.tempSample r
/-- GOVERNOR_SAMPLE (R387). -/
def execGovernorSample (watts : Nat) (s : State) : Host.Outcome State Fault Refusal :=
  s.act fun (d : Dev) => d.govSample watts
/-- GOVERNOR_RAISE (R387). -/
def execGovernorRaise (watts : Nat) (s : State) : Host.Outcome State Fault Refusal :=
  s.act fun (d : Dev) => d.govRaise watts
/-- DWELL_PERIOD (R389). -/
def execDwellPeriod (dom : Nat) (s : State) : Host.Outcome State Fault Refusal :=
  s.act fun (d : Dev) => d.dwellPeriod dom
/-- HEADROOM_GRANT (R393). -/
def execHeadroomGrant (unit watts : Nat) (s : State) : Host.Outcome State Fault Refusal :=
  s.act fun (d : Dev) => d.headroom unit watts
/-- COOLANT_OK_DEASSERTED (R399). -/
def execCoolantOkDeasserted (s : State) : Host.Outcome State Fault Refusal :=
  s.act fun (d : Dev) => d.coolantOff
/-- COOLANT_OK_ASSERTED (R416). -/
def execCoolantOkAsserted (s : State) : Host.Outcome State Fault Refusal :=
  s.act fun (d : Dev) => d.coolantOn
/-- QUENCH_HOLD_EXPIRY (R402). -/
def execQuenchHoldExpiry (s : State) : Host.Outcome State Fault Refusal :=
  s.act fun (d : Dev) => d.holdExpiry
/-- CONVERTER_FAILURE (R30). -/
def execConverterFailure (i : Fin 16) (s : State) : Host.Outcome State Fault Refusal :=
  s.act fun (d : Dev) => d.converterFails i.val
/-- REGULATOR_FAILURE (R31). -/
def execRegulatorFailure (d : RegDom) (s : State) : Host.Outcome State Fault Refusal :=
  s.act fun (dev : Dev) => dev.regulatorFails d
/-- REFERENCE_LOSS (R42). -/
def execReferenceLoss (s : State) : Host.Outcome State Fault Refusal :=
  s.act fun (d : Dev) => d.referenceLoss
/-- V_AON_LOSS (R489). -/
def execVAonLoss (s : State) : Host.Outcome State Fault Refusal :=
  s.act fun (d : Dev) => d.aonLoss
/-- PWR_GOOD_IN_ASSERTED (R416). -/
def execPwrGoodInAsserted (s : State) : Host.Outcome State Fault Refusal :=
  s.act fun (d : Dev) => d.pwrGoodOn
/-- PWR_GOOD_IN_DEASSERTED (R416). -/
def execPwrGoodInDeasserted (s : State) : Host.Outcome State Fault Refusal :=
  s.act fun (d : Dev) => d.pwrGoodOff
/-- PKG_RESET_N (R416). -/
def execPkgResetN (us : Nat) (released : Bool) (s : State) : Host.Outcome State Fault Refusal :=
  s.act fun (d : Dev) => d.pkgResetPin us released
/-- PERST_N (R354). -/
def execPerstN (s : State) : Host.Outcome State Fault Refusal :=
  s.act fun (d : Dev) => d.perstAssert
/-- HOT_RESET (R354). -/
def execHotReset (s : State) : Host.Outcome State Fault Refusal :=
  s.act fun (d : Dev) => d.warmReset 5
/-- LINK_SAMPLE (R354). -/
def execLinkSample (up : Bool) (s : State) : Host.Outcome State Fault Refusal :=
  s.act fun (d : Dev) => d.linkSample up
/-- COLD_START (R415). -/
def execColdStart (s : State) : Host.Outcome State Fault Refusal :=
  s.act fun (d : Dev) => d.coldStart
/-- SELF_TEST_COMPLETE (R418). -/
def execSelfTestComplete (f : List TestFail) (s : State) : Host.Outcome State Fault Refusal :=
  s.act fun (d : Dev) => d.selfTest f
/-- MEMORY_TRAINING_COMPLETE (R421). -/
def execMemoryTrainingComplete (f : List (Bool × Nat)) (s : State) : Host.Outcome State Fault Refusal :=
  s.act fun (d : Dev) => d.memTrained f
/-- FABRIC_TRAINING_END (R422). -/
def execFabricTrainingEnd (lanes : List LaneInfo) (peerTime : Option Nat) (s : State) : Host.Outcome State Fault Refusal :=
  s.act fun (d : Dev) => d.fabricTrained lanes peerTime
/-- PKG_RSTCTL_WARM (R424). -/
def execPkgRstctlWarm (s : State) : Host.Outcome State Fault Refusal :=
  s.act fun (d : Dev) => if d.answers then d.warmReset 3 else d
/-- INPUT_ENTERS_RANGE (R489). -/
def execInputEntersRange (s : State) : Host.Outcome State Fault Refusal :=
  s.act fun (d : Dev) => d.inputIn
/-- PERST_N_RELEASED (R423). -/
def execPerstNReleased (s : State) : Host.Outcome State Fault Refusal :=
  s.act fun (d : Dev) => d.perstRelease
/-- TAP_INSTRUCTION (R470). -/
def execTapInstruction (code : Byte) (s : State) : Host.Outcome State Fault Refusal :=
  s.act fun (d : Dev) => d.tapInsn code
/-- INPUT_OUT_OF_RANGE (R433): beyond the absolute maximum (Table 14.2) the spec gives no behaviour. -/
def execInputOutOfRange (mv : Int) (us : Nat) (s : State) : Host.Outcome State Fault Refusal :=
  if beyondMax mv us then .fault .beyondAbsoluteMaximum else s.act fun (d : Dev) => d.inputOut mv us

end Sys2Proof.Machine
end

