-- ==== Sys2Proof/Machine/FabricExec.lean ====
section
/-! DEFINITION. Machine/FabricExec.lean: the meanings of the commands about the fabric (chapter 11). -/

namespace Sys2Proof.Machine

open Sys2Proof

/-- FLIT_RECEIVE (R363). -/
def execFlitReceive (l : LinkRef) (flit : List Byte) (s : State) : Host.Outcome State Fault Refusal :=
  s.act fun (d : Dev) => d.flitIn l flit
/-- LINK_DOWN (R363). -/
def execLinkDown (l : LinkRef) (s : State) : Host.Outcome State Fault Refusal :=
  s.act fun (d : Dev) => d.linkDown l
/-- LINK_RETRAIN (R364). -/
def execLinkRetrain (l : LinkRef) (lanes : List LaneInfo) (s : State) : Host.Outcome State Fault Refusal :=
  s.act fun (d : Dev) => d.linkRetrain l lanes
/-- READ (R368). -/
def execReadPkt (p : Packet) (s : State) : Host.Outcome State Fault Refusal :=
  s.act fun (d : Dev) => d.arriveKind kRead p
/-- WRITE (R368). -/
def execWritePkt (p : Packet) (s : State) : Host.Outcome State Fault Refusal :=
  s.act fun (d : Dev) => d.arriveKind kWrite p
/-- AMO_PACKET (R368). -/
def execAmoPacket (p : Packet) (s : State) : Host.Outcome State Fault Refusal :=
  s.act fun (d : Dev) => d.arriveKind kAmo p
/-- RESP (R369). -/
def execRespPkt (p : Packet) (s : State) : Host.Outcome State Fault Refusal :=
  s.act fun (d : Dev) => d.arriveKind kResp p
/-- CREDREQ (R368). -/
def execCredreq (p : Packet) (s : State) : Host.Outcome State Fault Refusal :=
  s.act fun (d : Dev) => d.arriveKind kCredreq p
/-- CREDGNT (R368). -/
def execCredgnt (p : Packet) (s : State) : Host.Outcome State Fault Refusal :=
  s.act fun (d : Dev) => d.arriveKind kCredgnt p
/-- BAR_ARRIVE (R376). -/
def execBarArrive (p : Packet) (s : State) : Host.Outcome State Fault Refusal :=
  s.act fun (d : Dev) => d.arriveKind kBarArrive p
/-- BAR_RELEASE (R373). -/
def execBarRelease (p : Packet) (s : State) : Host.Outcome State Fault Refusal :=
  s.act fun (d : Dev) => d.arriveKind kBarRelease p
/-- BCAST (R374). -/
def execBcast (p : Packet) (s : State) : Host.Outcome State Fault Refusal :=
  s.act fun (d : Dev) => d.arriveKind kBcast p
/-- TIME (R370). -/
def execTimePkt (p : Packet) (s : State) : Host.Outcome State Fault Refusal :=
  s.act fun (d : Dev) => d.arriveKind kTime p
/-- DEPART (R381). -/
def execDepart (p : Packet) (s : State) : Host.Outcome State Fault Refusal :=
  s.act fun (d : Dev) => d.arriveKind kDepart p
/-- DEPARTURE_TIMEOUT (R380). -/
def execDepartureTimeout (pkg : BitVec 16) (s : State) : Host.Outcome State Fault Refusal :=
  s.act fun (d : Dev) => d.departTimeout pkg.toNat
/-- JOBRESET (R378). -/
def execJobreset (p : Packet) (s : State) : Host.Outcome State Fault Refusal :=
  s.act fun (d : Dev) => d.arriveKind kJobreset p
/-- ROUTE (R366). -/
def execRoute (p : Packet) (s : State) : Host.Outcome State Fault Refusal :=
  s.act fun (d : Dev) => d.arriveKind kRoute p
/-- FAB_JOBRST (R378). -/
def execFabJobrst (v : Word) (s : State) : Host.Outcome State Fault Refusal :=
  s.act fun (d : Dev) => if d.answers then d.fabJobrst v else d
/-- LANE_FAILURE (R359). -/
def execLaneFailure (port : Fin 36) (lane : Fin 8) (s : State) : Host.Outcome State Fault Refusal :=
  s.act fun (d : Dev) => d.laneFailure port.val lane.val

end Sys2Proof.Machine
end

