-- ==== Sys2Proof/Machine/DebugExec.lean ====
section
/-! DEFINITION. Machine/DebugExec.lean: the meanings of the commands about debug and register accesses (chapters 15 and 16). -/

namespace Sys2Proof.Machine

open Sys2Proof

/-- DBG_FRCFG_WRITE (R469). -/
def execDbgFrcfgWrite (n : Fin 32) (v : Word) (s : State) : Host.Outcome State Fault Refusal :=
  s.act fun (d : Dev) => if d.answers then d.frcfg n.val v true else d
/-- DBG_TRCTL_WRITE (R462). -/
def execDbgTrctlWrite (n : Fin 32) (v : Word) (s : State) : Host.Outcome State Fault Refusal :=
  s.act fun (d : Dev) => if d.answers then d.trctl n.val v true else d
/-- DBG_HGCTL_GO (R468). -/
def execDbgHgctlGo (n : Fin 32) (s : State) : Host.Outcome State Fault Refusal :=
  s.act fun (d : Dev) => if d.answers then d.hgctlGo n.val else d
/-- HANG_AUTO_CAPTURE (R468). -/
def execHangAutoCapture (n : Fin 32) (s : State) : Host.Outcome State Fault Refusal :=
  s.act fun (d : Dev) => d.hangAuto n.val
/-- CAPTURE_COMPLETE (R468). -/
def execCaptureComplete (n : Fin 32) (s : State) : Host.Outcome State Fault Refusal :=
  s.act fun (d : Dev) => d.captureEnd n.val
/-- REGISTER_ACCESS_ERROR (R13). -/
def execRegisterAccessError (view : View) (off : BitVec 26) (write : Bool) (len : Nat) (s : State) : Host.Outcome State Fault Refusal :=
  s.act fun (d : Dev) => d.regError view off.toNat write len
/-- REGISTER_WRITE (R14). -/
def execRegisterWrite (view : View) (off : BitVec 26) (half : Option Bool) (v : Word) (s : State) : Host.Outcome State Fault Refusal :=
  s.act fun (d : Dev) => d.regWrite view off.toNat half v

end Sys2Proof.Machine
end

