-- ==== Sys2Proof/Machine/Dispatch.lean ====
section
/-! DEFINITION. Machine/Dispatch.lean: the meaning of every command. -/

namespace Sys2Proof.Machine

open Sys2Proof

def exec (i : Instr) (s : State) : Host.Outcome State Fault Refusal :=
  match i with
  | .kernel c => Sys2Proof.Machine.execKernel c s
  | .moveCmd c => Sys2Proof.Machine.execMoveCmd c s
  | .copyIn c => Sys2Proof.Machine.execCopyIn c s
  | .copyOut c => Sys2Proof.Machine.execCopyOut c s
  | .fill c => Sys2Proof.Machine.execFill c s
  | .prefetch c => Sys2Proof.Machine.execPrefetch c s
  | .advise c => Sys2Proof.Machine.execAdvise c s
  | .resume c => Sys2Proof.Machine.execResume c s
  | .step c => Sys2Proof.Machine.execStep c s
  | .admitItems c => Sys2Proof.Machine.execAdmit c s
  | .retire c => Sys2Proof.Machine.execRetire c s
  | .signal c => Sys2Proof.Machine.execSignal c s
  | .waitCmd c => Sys2Proof.Machine.execWaitCmd c s
  | .waitPoll c => Sys2Proof.Machine.execWaitPoll c s
  | .fenceCmd c => Sys2Proof.Machine.execFenceCmd c s
  | .nop c => Sys2Proof.Machine.execNop c s
  | .cancel c => Sys2Proof.Machine.execCancel c s
  | .cancelMarkArrival c u => Sys2Proof.Machine.execCancelMarkArrival c u s
  | .dump c => Sys2Proof.Machine.execDump c s
  | .dumpFire c => Sys2Proof.Machine.execDumpFire c s
  | .mark c => Sys2Proof.Machine.execMark c s
  | .barrier c => Sys2Proof.Machine.execBarrier c s
  | .snapshot c => Sys2Proof.Machine.execSnapshot c s
  | .snapshotDrainComplete c => Sys2Proof.Machine.execSnapshotDrainComplete c s
  | .doorbell q v => Sys2Proof.Machine.execDoorbell q v s
  | .acceptance q => Sys2Proof.Machine.execAcceptance q s
  | .completionRecordWrite c => Sys2Proof.Machine.execCompletionRecordWrite c s
  | .qCfgWrite q v => Sys2Proof.Machine.execQCfgWrite q v s
  | .qReset q => Sys2Proof.Machine.execQReset q s
  | .partCtlReset n => Sys2Proof.Machine.execPartCtlReset n s
  | .partitionResetComplete n => Sys2Proof.Machine.execPartitionResetComplete n s
  | .partCtlResume n => Sys2Proof.Machine.execPartCtlResume n s
  | .partAstart n v => Sys2Proof.Machine.execPartAstart n v s
  | .flr f => Sys2Proof.Machine.execFlr f s
  | .bar2Access f off wr len => Sys2Proof.Machine.execBar2Access f off wr len s
  | .courseCommandStart t => Sys2Proof.Machine.execCourseCommandStart t s
  | .stationaryLoad t => Sys2Proof.Machine.execStationaryLoad t s
  | .shadowExchange t k => Sys2Proof.Machine.execShadowExchange t k s
  | .vectorAdmission t k upset => Sys2Proof.Machine.execVectorAdmission t k upset s
  | .courseProofSelfTest t pass => Sys2Proof.Machine.execCourseProofSelfTest t pass s
  | .commit t => Sys2Proof.Machine.execCommit t s
  | .convert t k => Sys2Proof.Machine.execConvert t k s
  | .wfold t k => Sys2Proof.Machine.execWfold t k s
  | .wround t k => Sys2Proof.Machine.execWround t k s
  | .wclear t k => Sys2Proof.Machine.execWclear t k s
  | .weldSplitStart t => Sys2Proof.Machine.execWeldSplitStart t s
  | .bankLoadStart t => Sys2Proof.Machine.execBankLoadStart t s
  | .swageProgramStart t => Sys2Proof.Machine.execSwageProgramStart t s
  | .swageProgramComplete t => Sys2Proof.Machine.execSwageProgramComplete t s
  | .threadLaunchStart t => Sys2Proof.Machine.execThreadLaunchStart t s
  | .blockStart t => Sys2Proof.Machine.execBlockStart t s
  | .cbarComplete t => Sys2Proof.Machine.execCbarComplete t s
  | .taskEnd t => Sys2Proof.Machine.execTaskEnd t s
  | .intRegOp a rd rs1 rs2 fn => Sys2Proof.Machine.execIntRegOp a rd rs1 rs2 fn s
  | .addi a op rd rs1 imm => Sys2Proof.Machine.execAddi a op rd rs1 imm s
  | .shi a rd rs1 imm => Sys2Proof.Machine.execShi a rd rs1 imm s
  | .lui a rd rs1 imm => Sys2Proof.Machine.execLui a rd rs1 imm s
  | .ld a rd rs1 size space off => Sys2Proof.Machine.execLd a rd rs1 size space off s
  | .st a rd rs1 size space off => Sys2Proof.Machine.execSt a rd rs1 size space off s
  | .fld a rd rs1 size space off => Sys2Proof.Machine.execFld a rd rs1 size space off s
  | .fst a rd rs1 size space off => Sys2Proof.Machine.execFst a rd rs1 size space off s
  | .amo a rd rs1 rs2 fn => Sys2Proof.Machine.execAmo a rd rs1 rs2 fn s
  | .branch a op rs1 rs2 off => Sys2Proof.Machine.execBranch a op rs1 rs2 off s
  | .jl a rd off => Sys2Proof.Machine.execJl a rd off s
  | .jlr a rd rs1 imm => Sys2Proof.Machine.execJlr a rd rs1 imm s
  | .fop a rd rs1 rs2 fn => Sys2Proof.Machine.execFop a rd rs1 rs2 fn s
  | .fma a rd rs1 rs2 rs3 fn => Sys2Proof.Machine.execFma a rd rs1 rs2 rs3 fn s
  | .fenceInstr a rd rs1 imm => Sys2Proof.Machine.execFenceInstr a rd rs1 imm s
  | .srr a rd rs1 reg => Sys2Proof.Machine.execSrr a rd rs1 reg s
  | .srw a rd rs1 reg => Sys2Proof.Machine.execSrw a rd rs1 reg s
  | .srs a rd rs1 reg => Sys2Proof.Machine.execSrs a rd rs1 reg s
  | .srcOp a rd rs1 reg => Sys2Proof.Machine.execSrc a rd rs1 reg s
  | .tcall a rd rs1 reg => Sys2Proof.Machine.execTcall a rd rs1 reg s
  | .tret a rd rs1 reg => Sys2Proof.Machine.execTret a rd rs1 reg s
  | .wfi a rd rs1 reg => Sys2Proof.Machine.execWfi a rd rs1 reg s
  | .break a rd rs1 reg => Sys2Proof.Machine.execBreak a rd rs1 reg s
  | .interrupt core => Sys2Proof.Machine.execInterrupt core s
  | .timer core => Sys2Proof.Machine.execTimer core s
  | .clean a rd rs1 rs2 => Sys2Proof.Machine.execClean a rd rs1 rs2 s
  | .cleaninv a rd rs1 rs2 => Sys2Proof.Machine.execCleaninv a rd rs1 rs2 s
  | .invLine a rd rs1 rs2 => Sys2Proof.Machine.execInv a rd rs1 rs2 s
  | .cmor a rd rs1 imm => Sys2Proof.Machine.execCmor a rd rs1 imm s
  | .rdtime a rd rs1 rs2 => Sys2Proof.Machine.execRdtime a rd rs1 rs2 s
  | .rdstroke a rd rs1 rs2 => Sys2Proof.Machine.execRdstroke a rd rs1 rs2 s
  | .vectorOp a vd vs1 vs2 msk z vf vop => Sys2Proof.Machine.execVectorOp a vd vs1 vs2 msk z vf vop s
  | .vld a vd rs1 msk z rsv off => Sys2Proof.Machine.execVld a vd rs1 msk z rsv off s
  | .vst a vd rs1 msk z rsv off => Sys2Proof.Machine.execVst a vd rs1 msk z rsv off s
  | .vlds a rd rs1 imm => Sys2Proof.Machine.execVlds a rd rs1 imm s
  | .vsts a rd rs1 imm => Sys2Proof.Machine.execVsts a rd rs1 imm s
  | .li a rd rs1 imm => Sys2Proof.Machine.execLi a rd rs1 imm s
  | .lih a rd rs1 imm => Sys2Proof.Machine.execLih a rd rs1 imm s
  | .addil a op rd rs1 imm => Sys2Proof.Machine.execAddil a op rd rs1 imm s
  | .jll a rd rs1 imm => Sys2Proof.Machine.execJll a rd rs1 imm s
  | .cissue a rd rs1 rs2 => Sys2Proof.Machine.execCissue a rd rs1 rs2 s
  | .cvt a rd rs1 rs2 => Sys2Proof.Machine.execCvt a rd rs1 rs2 s
  | .wsplit a rd rs1 rs2 => Sys2Proof.Machine.execWsplit a rd rs1 rs2 s
  | .bld a rd rs1 rs2 => Sys2Proof.Machine.execBld a rd rs1 rs2 s
  | .swg a rd rs1 rs2 => Sys2Proof.Machine.execSwg a rd rs1 rs2 s
  | .sseed a rd rs1 rs2 => Sys2Proof.Machine.execSseed a rd rs1 rs2 s
  | .tlaunch a rd rs1 rs2 => Sys2Proof.Machine.execTlaunch a rd rs1 rs2 s
  | .waitInstr a rd rs1 rs2 => Sys2Proof.Machine.execWaitInstr a rd rs1 rs2 s
  | .vrd a rd rs1 rs2 => Sys2Proof.Machine.execVrd a rd rs1 rs2 s
  | .vwr a rd rs1 rs2 => Sys2Proof.Machine.execVwr a rd rs1 rs2 s
  | .kend a rd rs1 rs2 => Sys2Proof.Machine.execKend a rd rs1 rs2 s
  | .mpush a rd rs1 imm => Sys2Proof.Machine.execMpush a rd rs1 imm s
  | .mand a rd rs1 rs2 => Sys2Proof.Machine.execMand a rd rs1 rs2 s
  | .melse a rd rs1 rs2 => Sys2Proof.Machine.execMelse a rd rs1 rs2 s
  | .mpop a rd rs1 rs2 => Sys2Proof.Machine.execMpop a rd rs1 rs2 s
  | .mland a op rd rs1 rs2 => Sys2Proof.Machine.execMland a op rd rs1 rs2 s
  | .mceq a op rd rs1 rs2 => Sys2Proof.Machine.execMceq a op rd rs1 rs2 s
  | .mfeq a op dbl rd rs1 rs2 => Sys2Proof.Machine.execMfeq a op dbl rd rs1 rs2 s
  | .mrd a rd rs1 rs2 => Sys2Proof.Machine.execMrd a rd rs1 rs2 s
  | .mwr a rd rs1 rs2 => Sys2Proof.Machine.execMwr a rd rs1 rs2 s
  | .mbr a cond mc zero off => Sys2Proof.Machine.execMbr a cond mc zero off s
  | .cbar a rd rs1 rs2 => Sys2Proof.Machine.execCbar a rd rs1 rs2 s
  | .gend a rd rs1 rs2 => Sys2Proof.Machine.execGend a rd rs1 rs2 s
  | .scrub deep site block r => Sys2Proof.Machine.execScrub deep site block r s
  | .creditedWriteRequest c => Sys2Proof.Machine.execCreditedWriteRequest c s
  | .creditGrant w => Sys2Proof.Machine.execCreditGrant w s
  | .ingressCreditGrant rcv snd blocks => Sys2Proof.Machine.execIngressCreditGrant rcv snd blocks s
  | .rowLands w => Sys2Proof.Machine.execRowLands w s
  | .creditCfgWrite w v => Sys2Proof.Machine.execCreditCfgWrite w v s
  | .creditRelease w v => Sys2Proof.Machine.execCreditRelease w v s
  | .hearthFlush => Sys2Proof.Machine.execHearthFlush s
  | .hearthFlushDone => Sys2Proof.Machine.execHearthFlushDone s
  | .predClr => Sys2Proof.Machine.execPredClr s
  | .xlatInvalidate n v => Sys2Proof.Machine.execXlatInvalidate n v s
  | .xlatInvalidateDone n => Sys2Proof.Machine.execXlatInvalidateDone n s
  | .rowDelivered c => Sys2Proof.Machine.execRowDelivered c s
  | .parkTimeout c => Sys2Proof.Machine.execParkTimeout c s
  | .pageMove n va frame => Sys2Proof.Machine.execPageMove n va frame s
  | .placement c => Sys2Proof.Machine.execPlacement c s
  | .dispatchArrival t => Sys2Proof.Machine.execDispatchArrival t s
  | .arbiterGrant t => Sys2Proof.Machine.execArbiterGrant t s
  | .reResolve => Sys2Proof.Machine.execReResolve s
  | .roleChange p role => Sys2Proof.Machine.execRoleChange p role s
  | .rebalance n => Sys2Proof.Machine.execRebalance n s
  | .heatDecay => Sys2Proof.Machine.execHeatDecay s
  | .billetMove n billet level => Sys2Proof.Machine.execBilletMove n billet level s
  | .nodeStart n node => Sys2Proof.Machine.execNodeStart n node s
  | .span n node item span => Sys2Proof.Machine.execSpan n node item span s
  | .nodeComplete n node => Sys2Proof.Machine.execNodeComplete n node s
  | .tngReqRole v => Sys2Proof.Machine.execTngReqRole v s
  | .tngReqBrickPstate v => Sys2Proof.Machine.execTngReqBrickPstate v s
  | .tngReqRegionPstate v => Sys2Proof.Machine.execTngReqRegionPstate v s
  | .tngConfigWrite n word v => Sys2Proof.Machine.execTngConfigWrite n word v s
  | .banking d => Sys2Proof.Machine.execBanking d s
  | .banked d => Sys2Proof.Machine.execBanked d s
  | .coldDom d => Sys2Proof.Machine.execColdDom d s
  | .wake d => Sys2Proof.Machine.execWake d s
  | .withdrawalEvent u => Sys2Proof.Machine.execWithdrawalEvent u s
  | .siteWithdrawal deep site => Sys2Proof.Machine.execSiteWithdrawal deep site s
  | .imgPctlGo => Sys2Proof.Machine.execImgPctlGo s
  | .partialApply => Sys2Proof.Machine.execPartialApply s
  | .partialImageDone => Sys2Proof.Machine.execPartialImageDone s
  | .capSet h cap slope => Sys2Proof.Machine.execCapSet h cap slope s
  | .capGet h => Sys2Proof.Machine.execCapGet h s
  | .quench h => Sys2Proof.Machine.execQuench h s
  | .release h => Sys2Proof.Machine.execRelease h s
  | .telSub h ms dst => Sys2Proof.Machine.execTelSub h ms dst s
  | .telemetry sub => Sys2Proof.Machine.execTelemetry sub s
  | .slotWrite h slot off data => Sys2Proof.Machine.execSlotWrite h slot off data s
  | .slotRead h slot off len => Sys2Proof.Machine.execSlotRead h slot off len s
  | .bootsel h slot => Sys2Proof.Machine.execBootsel h slot s
  | .partialMsg h off data last => Sys2Proof.Machine.execPartialMsg h off data last s
  | .fwWrite h off data => Sys2Proof.Machine.execFwWrite h off data s
  | .keyInstall h key sig => Sys2Proof.Machine.execKeyInstall h key sig s
  | .spdm h data => Sys2Proof.Machine.execSpdm h data s
  | .resetMsg h kind => Sys2Proof.Machine.execResetMsg h kind s
  | .loopback h deep site pass => Sys2Proof.Machine.execLoopback h deep site pass s
  | .logRead h idx count => Sys2Proof.Machine.execLogRead h idx count s
  | .shedLevelUpdate load above95 below100 => Sys2Proof.Machine.execShedLevelUpdate load above95 below100 s
  | .bellowsLoadWrite v => Sys2Proof.Machine.execBellowsLoadWrite v s
  | .watchdogExpiry => Sys2Proof.Machine.execWatchdogExpiry s
  | .temperatureSample r => Sys2Proof.Machine.execTemperatureSample r s
  | .governorSample watts => Sys2Proof.Machine.execGovernorSample watts s
  | .governorRaise watts => Sys2Proof.Machine.execGovernorRaise watts s
  | .dwellPeriod dom => Sys2Proof.Machine.execDwellPeriod dom s
  | .headroomGrant unit watts => Sys2Proof.Machine.execHeadroomGrant unit watts s
  | .coolantOkDeasserted => Sys2Proof.Machine.execCoolantOkDeasserted s
  | .coolantOkAsserted => Sys2Proof.Machine.execCoolantOkAsserted s
  | .quenchHoldExpiry => Sys2Proof.Machine.execQuenchHoldExpiry s
  | .converterFailure xi => Sys2Proof.Machine.execConverterFailure xi s
  | .regulatorFailure d => Sys2Proof.Machine.execRegulatorFailure d s
  | .referenceLoss => Sys2Proof.Machine.execReferenceLoss s
  | .inputOutOfRange mv us => Sys2Proof.Machine.execInputOutOfRange mv us s
  | .vAonLoss => Sys2Proof.Machine.execVAonLoss s
  | .pwrGoodInAsserted => Sys2Proof.Machine.execPwrGoodInAsserted s
  | .pwrGoodInDeasserted => Sys2Proof.Machine.execPwrGoodInDeasserted s
  | .pkgResetN us released => Sys2Proof.Machine.execPkgResetN us released s
  | .perstN => Sys2Proof.Machine.execPerstN s
  | .hotReset => Sys2Proof.Machine.execHotReset s
  | .linkSample up => Sys2Proof.Machine.execLinkSample up s
  | .coldStart => Sys2Proof.Machine.execColdStart s
  | .selfTestComplete f => Sys2Proof.Machine.execSelfTestComplete f s
  | .memoryTrainingComplete f => Sys2Proof.Machine.execMemoryTrainingComplete f s
  | .fabricTrainingEnd lanes peerTime => Sys2Proof.Machine.execFabricTrainingEnd lanes peerTime s
  | .pkgRstctlWarm => Sys2Proof.Machine.execPkgRstctlWarm s
  | .flitReceive l flit => Sys2Proof.Machine.execFlitReceive l flit s
  | .linkDown l => Sys2Proof.Machine.execLinkDown l s
  | .linkRetrain l lanes => Sys2Proof.Machine.execLinkRetrain l lanes s
  | .readPkt p => Sys2Proof.Machine.execReadPkt p s
  | .writePkt p => Sys2Proof.Machine.execWritePkt p s
  | .respPkt p => Sys2Proof.Machine.execRespPkt p s
  | .credreq p => Sys2Proof.Machine.execCredreq p s
  | .credgnt p => Sys2Proof.Machine.execCredgnt p s
  | .barArrive p => Sys2Proof.Machine.execBarArrive p s
  | .barRelease p => Sys2Proof.Machine.execBarRelease p s
  | .bcast p => Sys2Proof.Machine.execBcast p s
  | .timePkt p => Sys2Proof.Machine.execTimePkt p s
  | .depart p => Sys2Proof.Machine.execDepart p s
  | .departureTimeout pkg => Sys2Proof.Machine.execDepartureTimeout pkg s
  | .jobreset p => Sys2Proof.Machine.execJobreset p s
  | .route p => Sys2Proof.Machine.execRoute p s
  | .fabJobrst v => Sys2Proof.Machine.execFabJobrst v s
  | .dbgFrcfgWrite n v => Sys2Proof.Machine.execDbgFrcfgWrite n v s
  | .dbgTrctlWrite n v => Sys2Proof.Machine.execDbgTrctlWrite n v s
  | .dbgHgctlGo n => Sys2Proof.Machine.execDbgHgctlGo n s
  | .hangAutoCapture n => Sys2Proof.Machine.execHangAutoCapture n s
  | .captureComplete n => Sys2Proof.Machine.execCaptureComplete n s
  | .registerAccessError view off write len => Sys2Proof.Machine.execRegisterAccessError view off write len s
  | .registerWrite view off half v => Sys2Proof.Machine.execRegisterWrite view off half v s
  | .inputEntersRange => Sys2Proof.Machine.execInputEntersRange s
  | .perstNReleased => Sys2Proof.Machine.execPerstNReleased s
  | .tapInstruction code => Sys2Proof.Machine.execTapInstruction code s
  | .amoPacket p => Sys2Proof.Machine.execAmoPacket p s
  | .laneFailure port lane => Sys2Proof.Machine.execLaneFailure port lane s
  | .shareRecompute => Sys2Proof.Machine.execShareRecompute s
  | .bellowsFailedTimeout => Sys2Proof.Machine.execBellowsFailedTimeout s
  | .itrExpiry q => Sys2Proof.Machine.execItrExpiry q s
  | .vfBar2SizeWrite log mse => Sys2Proof.Machine.execVfBar2SizeWrite log mse s

end Sys2Proof.Machine
end

