-- ==== Sys2Proof/WellFormed.lean ====
section
/-! DEFINITION. WellFormed.lean: the limits that the spec sets to what a command carries. The meanings stand for ill-formed commands too; these checks say which commands a sender may build. -/

namespace Sys2Proof

/-- Table 11.2: the data fit LEN, and the packet is of the row's kind on the kind's channel (R362). -/
def Packet.wf (p : Packet) (kind vc : Nat) : Bool := decide (p.data.length ≤ 256) && p.kind.toNat == kind && p.vc.toNat == vc

/-- Table 12.11: a body has at most 1,200 bytes; the data of a slot or image message at most 1,024 (Table 12.12). -/
def bodyOk (bs : List Byte) : Bool := decide (bs.length ≤ 1200)
def chunkOk (bs : List Byte) : Bool := decide (bs.length ≤ 1024)

/-- A memory site of a tier: at most 24 F-tier sites and 40 D-tier sites (Table 0.1). -/
def siteOk (deep : Bool) (site : Nat) : Bool := decide (site < if deep then 40 else 24)

/-- The command keeps the limits of its row. -/
def Instr.wf : Instr → Bool
  | .bar2Access _ _ (some bs) _ => !bs.isEmpty
  | .bar2Access _ _ none len => decide (1 ≤ len)
  | .scrub deep site _ _ => siteOk deep site.val
  | .ingressCreditGrant rcv _ blocks => decide (rcv < 128) && decide (1 ≤ blocks) && decide (blocks ≤ 16)
  | .siteWithdrawal deep site => siteOk deep site.val
  | .loopback _ deep site _ => siteOk deep site.val
  | .memoryTrainingComplete f => f.all fun s => siteOk s.1 s.2
  | .telSub _ ms _ => decide (ms ≤ 1000)
  | .slotWrite _ _ _ bs => chunkOk bs
  | .slotRead _ _ _ len => decide (len ≤ 1024)
  | .partialMsg _ _ bs _ => chunkOk bs
  | .fwWrite _ _ bs => chunkOk bs
  | .spdm _ bs => bodyOk bs
  | .inputOutOfRange mv _ => decide (mv < 40000) || decide (60000 < mv)
  | .flitReceive _ f => f.length == 256
  | .readPkt p => p.wf 0x01 0
  | .writePkt p => p.wf 0x02 0
  | .amoPacket p => p.wf 0x03 0
  | .respPkt p => p.wf 0x04 1
  | .credreq p => p.wf 0x05 0
  | .credgnt p => p.wf 0x06 1
  | .barArrive p => p.wf 0x08 2
  | .barRelease p => p.wf 0x09 2
  | .bcast p => p.wf 0x0A 2
  | .timePkt p => p.wf 0x10 2
  | .depart p => p.wf 0x11 2
  | .jobreset p => p.wf 0x12 2
  | .route p => p.wf 0x13 2
  | .vfBar2SizeWrite log _ => decide (21 ≤ log) && decide (log ≤ 36)
  | _ => true

end Sys2Proof
end

