-- ==== Sys2Proof/Safety.lean ====
section
/-! DEFINITION. Safety.lean: what a good state of the block is, in the terms that claims use. -/

namespace Sys2Proof.Machine

open Sys2Proof

/-- Every command that waits keeps the limits of its row. -/
def State.pendingWf (s : State) : Prop := ∀ c ∈ s.pending, c.wf = true

/-- Canonical form of the byte tables of memory: addresses rise, and no entry equals what an unlisted address reads as. -/
def Mem.wf (m : Mem) : Prop :=
  SMap.wf 0 m.dram ∧ SMap.wf 0 m.dkey ∧ SMap.wf 0 m.poison ∧ SMap.wf 0 m.yard ∧ SMap.wf 0 m.yardBad ∧ SMap.wf 0 m.host

/-- A credit window holds together (R201 to R203): what is granted and has not landed is outstanding, no more is taken than the window holds, and an enabled window, or one that a waiting CFG write enables, lies within its receiver. -/
structure Win.sound (w : Win) (room : Nat) : Prop where
  outst : w.outst = (w.granted.map fun q => granules q.bytes).sum
  taken : w.outst ≤ w.taken
  len : w.taken ≤ w.len
  inside : w.en = true → w.base + w.len ≤ room
  next : ∀ v, w.cfg = some v → v.getLsbD 63 = true → (v.extractLsb' 0 16).toNat + (v.extractLsb' 16 16).toNat ≤ room

/-! ### Instructions -/

/-- An instruction of `len` bytes of agent a executes now: the agent is ready (R160, R173, R332), the fetch goes through (R163, R241), and no register of the list is reserved by a Swage program (R170). -/
def Dev.executes (d : Dev) (a : Agent) (len : Nat) (xs : List Nat) : Prop :=
  d.agentReady a = true ∧ d.fetchStop a len = none ∧ d.reservedReg a xs = false

/-- What a register instruction of agent a never changes: of the package all but cores, tiles and counters; of a core all but its x and f registers, pc, retired count, WFI state and float flags; of a tile all but the Smith core's x and f registers and pc, and the groups; and everything about every other agent. -/
structure Dev.leftAlone (d e : Dev) (a : Agent) : Prop where
  rest : e = { d with cores := e.cores, tiles := e.tiles, cntQ := e.cntQ, cntP := e.cntP }
  core : ∀ c, e.core c = { d.core c with x := (e.core c).x, f := (e.core c).f, pc := (e.core c).pc, retired := (e.core c).retired, wfi := (e.core c).wfi, fsr := (e.core c).fsr }
  tile : ∀ k, e.tile k = { d.tile k with x := (e.tile k).x, f := (e.tile k).f, pc := (e.tile k).pc, groups := (e.tile k).groups }
  others : ∀ b, b ≠ a → e.pcOf b = d.pcOf b ∧ ∀ th flt r, e.reg b th flt r = d.reg b th flt r

/-- Agent a goes on at pc: a core's pc and retired count, a Smith core's pc, or a group's pc with the reconvergence check of R152 on the registers it now has. -/
structure Dev.wentOn (d e : Dev) (a : Agent) (pc : Word) : Prop where
  anvil : ∀ c, a = .anvil c → (e.core c.val).pc = pc ∧ (e.core c.val).retired = (d.core c.val).retired + 1 ∧ (e.core c.val).wfi = false
  smith : ∀ t, a = .smith t → (e.tile t.key).pc = pc
  group : ∀ t g, a = .group t g → e.grp t g = ({ d.grp t g with x := (e.grp t g).x, f := (e.grp t g).f }).goto pc

/-- R457, Table 15.4: the counters of a Smith core's or a group's instruction; an Anvil core's only retires. -/
def Dev.counted (d e : Dev) (a : Agent) : Prop :=
  match a with
  | .anvil _ => e.cntQ = d.cntQ ∧ e.cntP = d.cntP
  | .smith _ => e.cntQ = (d.count (d.acctOf a) 5 1).cntQ ∧ e.cntP = (d.count (d.acctOf a) 5 1).cntP
  | .group t g => e.cntQ = (d.count (d.acctOf a) 4 (d.grp t g).active.length).cntQ ∧ e.cntP = (d.count (d.acctOf a) 4 (d.grp t g).active.length).cntP

/-- Register rd of one file (flt: float) holds v th for every active thread th of agent a; x0 reads 0; every other register keeps its value. -/
structure Dev.setsReg (d e : Dev) (a : Agent) (flt : Bool) (rd : Nat) (v : Nat → Word) : Prop where
  written : ∀ th, th ∈ d.activeOf a → e.reg a th flt rd = if flt = false ∧ rd = 0 then 0 else v th
  kept : ∀ th r, r < 32 → r ≠ rd → e.reg a th flt r = d.reg a th flt r
  other : ∀ th r, r < 32 → e.reg a th (!flt) r = d.reg a th (!flt) r
  idle : ∀ t g, a = .group t g → ∀ th r, r < 32 → th ∉ d.activeOf a → e.reg a th flt r = d.reg a th flt r

/-- An integer instruction of `len` bytes is done: the result, the advance, no float flag, and nothing else. -/
def Dev.intDone (d e : Dev) (a : Agent) (len rd : Nat) (v : Nat → Word) : Prop :=
  d.leftAlone e a ∧ d.setsReg e a false rd v ∧ d.wentOn e a (d.pcOf a + BitVec.ofNat 64 len) ∧ d.counted e a ∧
    ∀ c, (e.core c).fsr = (d.core c).fsr

/-- A float instruction is done: each active thread's result, and on an Anvil core the flags it ORs into ASR_FSR. -/
def Dev.fltDone (d e : Dev) (a : Agent) (rd : Nat) (r : Nat → FRes) (toX : Bool) : Prop :=
  d.leftAlone e a ∧ d.setsReg e a (!toX) rd (fun th => (r th).val) ∧ d.wentOn e a (d.pcOf a + 4) ∧ d.counted e a ∧
    ∀ c, (e.core c).fsr = (d.core c).fsr ||| (match a with | .anvil k => if k.val = c then (r 0).flags else 0 | _ => 0)

/-- The agent's source is not traced (R462), so its control flow writes no trace record. -/
def Dev.untraced (d : Dev) (a : Agent) : Prop := ∀ k, traceKeyOf a = some k → d.traced k = none

/-- What tracing an instruction may change beside the agent: the trace buffer in the Yard, the trace registers of its partition and events; nothing where the agent is untraced. -/
def Dev.jumped (d e : Dev) (a : Agent) (rd : Nat) (link pc : Word) : Prop :=
  d.setsReg e a false rd (fun _ => link) ∧ e.pcOf a = pc ∧ (d.untraced a → d.leftAlone e a ∧ d.wentOn e a pc ∧ d.counted e a)

/-- Every active thread's access of n bytes at va is aligned and stays in a tile store below its credit block (R155, R176, R192): at_ gives the store and the offset. -/
def Dev.inStores (d : Dev) (a : Agent) (va : Nat → Word) (n : Nat) (at_ : Nat → Nat × Nat) : Prop :=
  ∀ th ∈ d.activeOf a, (va th).toNat % n = 0 ∧ d.bankOf a (va th).toNat = some (at_ th) ∧ (at_ th).2 + n ≤ 0x7FF00

/-- A store instruction of agent a changes no register of any agent and, of the package, only what the bytes it stores, the program counters and the counters hold. -/
structure Dev.onlyStores (d e : Dev) (a : Agent) : Prop where
  rest : e = { d with cores := e.cores, tiles := e.tiles, cntQ := e.cntQ, cntP := e.cntP }
  core : ∀ c, e.core c = { d.core c with pc := (e.core c).pc, retired := (e.core c).retired, wfi := (e.core c).wfi }
  tile : ∀ k, e.tile k = { d.tile k with pc := (e.tile k).pc, groups := (e.tile k).groups, store := (e.tile k).store, bad := (e.tile k).bad }
  regs : ∀ b th flt r, e.reg b th flt r = d.reg b th flt r
  others : ∀ b, b ≠ a → e.pcOf b = d.pcOf b

/-- The byte of tile store k at offset o after the active threads of agent a have stored: that of the highest-numbered thread that covers it (R157), or the old one. -/
def Dev.storedByte (d : Dev) (a : Agent) (n : Nat) (at_ : Nat → Nat × Nat) (v : Nat → List Byte) (k o : Nat) : Byte :=
  match ((d.activeOf a).filter fun th => (at_ th).1 == k && decide ((at_ th).2 ≤ o) && decide (o < (at_ th).2 + n)).getLast? with
  | some th => nthD 0 (v th) (o - (at_ th).2)
  | none => SMap.get 0 (d.tile k).store o

/-- An agent whose instruction executes is not in WFI any more (R180). -/
def Dev.woken (d : Dev) : Agent → Dev
  | .anvil c => d.setCore c.val fun x => { x with wfi := false }
  | _ => d

/-- A local address lies in a memory tier. -/
def inTier (p : Nat) : Bool := match place p with | .ftier _ | .dtier _ => true | _ => false

/-- Table 5.14, 5.15: what a write of word w to a PL1 system register makes of a core; read-only registers keep their value. -/
def Core.asrTakes (c : Core) (reg : Nat) (w : Word) : Core :=
  match reg with
  | 0x000 => { c with ppl := if w.getLsbD 9 then c.ppl else (w.extractLsb' 8 1).toNat, pie := w.getLsbD 7, ie := w.getLsbD 6, sum := w.getLsbD 5,
                      ven := w.getLsbD 4, fen := w.getLsbD 3 }
  | 0x001 => { c with tvec := w &&& ~~~0xFF#64 }
  | 0x002 => { c with epc := w }
  | 0x003 => { c with cause := w }
  | 0x004 => { c with tval := w }
  | 0x005 => { c with scratch := w }
  | 0x006 => { c with ien := (w.extractLsb' 0 4).toNat }
  | 0x008 => { c with ptroot := w }
  | 0x009 => { c with tcmp := w }
  | 0x00A => { c with fsr := (if w.getLsbD 6 then fld c.fsr 6 5 else (w.extractLsb' 5 1).toNat) * 32 + (w.extractLsb' 0 5).toNat }
  | _ => c

/-- R179: a trap of a core, in one action. -/
def Core.trapped (c : Core) (epc : Word) (cause : Nat) (tval : Word) : Core :=
  { c with epc := epc, cause := BitVec.ofNat 64 cause, tval := tval, ppl := c.cpl, pie := c.ie, ie := false, cpl := 1, pc := c.tvec, wfi := false }

/-- A core takes a trap; but for the trace records of a traced core nothing else changes. -/
def Dev.traps (d e : Dev) (c : Fin 128) (epc : Word) (cause : Nat) (tval : Word) : Prop :=
  e.core c.val = (d.core c.val).trapped epc cause tval ∧ (∀ k, k ≠ c.val → e.core k = d.core k) ∧ (∀ k, e.tile k = d.tile k) ∧
    ((d.core c.val).cpl < 2 → d.untraced (.anvil c) → e = { d with cores := e.cores })

/-- The level that Table 5.12 asks of an access to a system register is met. -/
def Dev.mayUse (d : Dev) (c : Fin 128) (reg : Nat) : Prop := pl1Reg reg = true ∧ ((d.core c.val).cpl ≠ 0 ∨ pl0Reg reg = true)

/-- A run of Tongs accesses over d succeeds with a result and leaves e. -/
def Tm.gives {α : Type} (m : Tm α) (d : Dev) (x : α) (e : Dev) : Prop := m.run d = (.ok x, e)

/-- A run of Tongs accesses over d stops: with a status, or with none where it must wait for a wake. -/
def Tm.stops {α : Type} (m : Tm α) (d : Dev) (st : Option Nat) (e : Dev) : Prop := m.run d = (.error st, e)

/-- The units of tile k may act: the package works, the tile is present and runs a task, and no word of it has bad parity. -/
structure Dev.unitReady (d : Dev) (k : Nat) : Prop where
  live : d.live = true
  present : d.tileIn k = true
  runs : (d.tile k).runs = true
  clean : (d.tile k).bad = []

/-- A unit of tile k acted: the tile became y, what it counted went to the counters, and no other tile and no other part of the package changed. -/
structure Dev.tileRan (d e : Dev) (k : Nat) (y : Tile) : Prop where
  rest : e = { d with tiles := e.tiles, cntQ := e.cntQ, cntP := e.cntP, rem := e.rem }
  others : ∀ j, j ≠ k → e.tile j = d.tile j
  tile : e.tile k = { y with ev := [] }

/-- The pass that a course command begins (R53, R66). -/
def CCmd.begins (c : CCmd) (x : Tile) (q : QCourse) (tag : Bool) : Pass :=
  { word := q.word, seq := q.seq, tag := tag, loaded := !c.load, exch := 0, tries := 0, stuck := false, edges := c.freshEdges,
    sav := ((List.range 4).map fun i => [(x.course i).sEdge, (x.course i).sLoad]).flatten, ran := [] }

/-- The regions that a course command holds while it runs (R70). -/
def CCmd.holds (c : CCmd) (seq : Nat) : List Hold :=
  (c.strmBanks.map fun b => ⟨b, true, c.abase, c.strmBytes, seq, 0, none⟩) ++
    (if c.load then c.statBanks.map fun b => ⟨b, false, c.sbase, c.statBytes, seq, c.cmask, none⟩ else [])

/-- Command r of opcode op starts now: it waits unmarked, and R341 lets it. -/
structure Dev.starts (d : Dev) (r : CmdRef) (op : Nat) (c : Cmd) : Prop where
  cmd : d.cmd r = some c
  code : c.op = op
  may : d.canStart c = true
  unmarked : c.marked = false

/-- Command r of opcode op is under way. -/
structure Dev.underWay (d : Dev) (r : CmdRef) (op : Nat) (c : Cmd) : Prop where
  cmd : d.cmd r = some c
  code : c.op = op
  runs : c.phase = .running
  live : d.live = true
  unmarked : c.marked = false

/-- The package once command r has begun (R341): the command runs, and the queue's hang ring says so. -/
def Dev.begun (d : Dev) (r : CmdRef) (c : Cmd) : Dev := (d.setCmd r fun c => { c with phase := .running }).ring 0 r.hunit 0x02 (some c) 0

/-- Command r completed with a status (R342): its record joins those of its queue, in order. -/
structure Dev.ends (d e : Dev) (r : CmdRef) (status : Nat) : Prop where
  cmd : ∃ c c', d.cmd r = some c ∧ e.cmd r = some c' ∧ c'.phase = .done ∧ c'.status = status ∧ c'.desc = c.desc ∧ c'.part = c.part
  out : (e.queue r.qk).out = (d.queue r.qk).out ++ [r.slot.toNat]

/-- An access that goes to local or host memory: no fault, no wait, no other package. -/
def Acc.here : Acc → Bool | .loc _ | .host _ => true | _ => false

/-- A run of n bytes of plain local memory: a tier, or a Yard unit or tile store below its credit block; no register space. -/
def plainMem (a n : Nat) : Bool :=
  match place a with
  | .ftier _ | .dtier _ => true
  | .yard o => decide (o % 2 ^ 24 + n ≤ 0xFFFF00)
  | .store _ _ o => decide (o + n ≤ 0x7FF00)
  | _ => false

/-- An access that goes to plain local memory or to host memory. -/
def Acc.plain (x : Acc) (n : Nat) : Bool := match x with | .loc a => plainMem a n | .host _ => true | _ => false

/-- Command r of opcode op goes on in d0: it starts now, or it is under way. -/
def Dev.goesOn (d : Dev) (r : CmdRef) (op : Nat) (c : Cmd) (d0 : Dev) : Prop :=
  (d.starts r op c ∧ d0 = d.begun r c) ∨ (d.underWay r op c ∧ d0 = d)

/-- A management request reaches the Bellows and is taken for the first time: its port answers, VER is 1, and no request of the last second has its source and SEQ (R410, R411); hw marks what the hardware decodes without the Bellows' firmware. -/
structure Dev.heard (d : Dev) (h : BmpHdr) (hw : Bool) : Prop where
  port : d.start.stage ≠ .off ∧ d.pwr.osc = false
  up : hw = true ∨ d.bellowsUp = true
  fresh : ∀ e ∈ d.bell.seen, e.1 = h.src → e.2.1 = h.seq.toNat → e.2.2.1 + 1000000000 ≤ d.now
  ver : h.ver = 1

/-- A request is answered with a code and a body, the package being x otherwise. -/
def Dev.answered (e x : Dev) (typ : Nat) (h : BmpHdr) (code : Nat) (body : List Byte) : Prop :=
  e = { x with bell := { x.bell with seen := e.bell.seen }, out := x.out ++ [.bmp typ h code body] }

/-- Bytes of a slot of flash, an unwritten one reading 0xFF (R296). -/
def Flash.slotByte (f : Flash) (b : Bool) (o : Nat) : Byte := SMap.get 0xFF (f.slot b) o

/-- A list of bytes stands at an offset of a table whose unlisted bytes read v, all else as before. -/
def placed (v : Byte) (old new : SMap Byte) (off : Nat) (bs : List Byte) : Prop :=
  ∀ a, SMap.get v new a = if off ≤ a ∧ a < off + bs.length then nthD 0 bs (a - off) else SMap.get v old a

/-- A power domain goes to a state (Table 8.11) and no other domain changes state. -/
structure Dev.domMoved (d e : Dev) (p : PDom) (s : Nat) : Prop where
  here : e.pstate p = s
  others : ∀ x, x ≠ p → e.pstate x = d.pstate x

/-- No packet is held back in the fabric. -/
def Dev.noneHeld (d : Dev) : Prop := d.fab.ingress = [] ∧ d.fab.held = []

/-- A streamed packet of a kind reaches this package in its turn: the fabric runs, the packet is for this package, from one that has not departed, it is the next of its stream, and no other packet is held back (R367). -/
structure Dev.inTurn (d : Dev) (k : Nat) (p : Packet) : Prop where
  up : d.fabUp = true
  kind : p.kind.toNat = k
  dst : p.dst.toNat = d.fab.pkgid
  src : d.fab.gone.contains p.src.toNat = false
  sseq : p.sseq.toNat = SMap.get 0 d.fab.sin (streamKey p)
  free : d.noneHeld

/-- The package as a packet that is in turn finds it. -/
def Dev.withPacket (d : Dev) (p : Packet) : Dev := { d with fab := { d.fab with held := [p] } }

/-- The package once a packet has acted and left x: it is taken from its stream, the stream goes on, and what waited is tried again. -/
def Dev.acted (x : Dev) (p : Packet) : Dev :=
  Dev.fabRetry { x with fab := { x.fab with held := x.fab.held.filter fun y => y ≠ p, sin := SMap.upd 0 x.fab.sin (streamKey p) fun n => (n + 1) % 65536 } }

/-- A packet between neighbours, outside every stream, reaches this package. -/
structure Dev.reaches (d : Dev) (k : Nat) (p : Packet) : Prop where
  up : d.fabUp = true
  kind : p.kind.toNat = k
  dst : p.dst.toNat = d.fab.pkgid
  src : d.fab.gone.contains p.src.toNat = false

end Sys2Proof.Machine
end

