-- ==== Sys2Proof/Certificates/Slice0/Obligations.lean ====
section
/-! DEFINITION. Certificates/Slice0/Obligations.lean: the statements for the provers. -/

open Sys2Proof Sys2Proof.Machine

/-- The next state of a step is exec of the front command with the rest of the queue. The queue is the model's way of taking commands (log 14). -/
def Obligations.StepRunsFront : Prop :=
  ∀ (c : Instr) (rest : List Instr) (d : Dev), step ⟨d, c :: rest⟩ = exec c ⟨d, rest⟩


/-! ### Instructions of every agent (chapter 05) -/

/-- R164, R165: each integer instruction of Tables 5.4, 5.5 and 5.9 writes its result, for every active thread, to x[rd] (x0 takes no value) and changes no other register, flag, memory or agent. What the integer register operations of Table 5.5 compute, on 64 bits and with W = 1 on the low 32: division by 0, overflow and amounts at or above the width give the values of R165. -/
def Obligations.IntegerInstructionsWriteTheirResult : Prop :=
  (∀ (a : Agent) (d : Dev) (q : List Instr) (rd rs1 rs2 : BitVec 5),
     (∀ fn : BitVec 11, (intReg fn.toNat rs2.toNat 0 0).isSome = true → d.executes a 4 [rd.toNat, rs1.toNat, rs2.toNat] →
       ∃ e, exec (.intRegOp a rd rs1 rs2 fn) ⟨d, q⟩ = .next ⟨e, q⟩ ∧
         d.intDone e a 4 rd.toNat fun th => (intReg fn.toNat rs2.toNat (d.reg a th false rs1.toNat) (d.reg a th false rs2.toNat)).getD 0) ∧
     (∀ (op : ImmOp) (imm : BitVec 16), d.executes a 4 [rd.toNat, rs1.toNat] →
       ∃ e, exec (.addi a op rd rs1 imm) ⟨d, q⟩ = .next ⟨e, q⟩ ∧
         d.intDone e a 4 rd.toNat fun th =>
           let x := d.reg a th false rs1.toNat
           match op with
           | .addi => x + imm.signExtend 64
           | .andi => x &&& imm.signExtend 64
           | .ori => x ||| imm.signExtend 64
           | .xori => x ^^^ imm.signExtend 64
           | .slti => if x.slt (imm.signExtend 64) then 1 else 0) ∧
     (∀ imm : BitVec 16, imm.extractLsb' 14 2 ≠ 3#2 → imm.extractLsb' 6 7 = 0#7 → d.executes a 4 [rd.toNat, rs1.toNat] →
       ∃ e, exec (.shi a rd rs1 imm) ⟨d, q⟩ = .next ⟨e, q⟩ ∧
         d.intDone e a 4 rd.toNat fun th =>
           let x := d.reg a th false rs1.toNat
           let n := (imm.extractLsb' 0 6).toNat
           match imm.getLsbD 13, (imm.extractLsb' 14 2).toNat with
           | false, 0 => x <<< n
           | false, 1 => x >>> n
           | false, _ => x.sshiftRight n
           | true, 0 => ((x.setWidth 32) <<< n).signExtend 64
           | true, 1 => ((x.setWidth 32) >>> n).signExtend 64
           | true, _ => ((x.setWidth 32).sshiftRight n).signExtend 64) ∧
     (∀ imm : BitVec 16, d.executes a 4 [rd.toNat] →
       ∃ e, exec (.lui a rd 0 imm) ⟨d, q⟩ = .next ⟨e, q⟩ ∧ d.intDone e a 4 rd.toNat fun _ => (imm ++ 0#16).signExtend 64) ∧
     (∀ imm : BitVec 42, d.executes a 8 [rd.toNat] →
       ∃ e, exec (.li a rd 0 imm) ⟨d, q⟩ = .next ⟨e, q⟩ ∧ d.intDone e a 8 rd.toNat fun _ => imm.signExtend 64) ∧
     (∀ imm : BitVec 42, imm.extractLsb' 22 20 = 0#20 → d.executes a 8 [rd.toNat, rs1.toNat] →
       ∃ e, exec (.lih a rd rs1 imm) ⟨d, q⟩ = .next ⟨e, q⟩ ∧
         d.intDone e a 8 rd.toNat fun th => imm.extractLsb' 0 22 ++ (d.reg a th false rs1.toNat).extractLsb' 0 42) ∧
     (∀ (op : LongOp) (imm : BitVec 42), d.executes a 8 [rd.toNat, rs1.toNat] →
       ∃ e, exec (.addil a op rd rs1 imm) ⟨d, q⟩ = .next ⟨e, q⟩ ∧
         d.intDone e a 8 rd.toNat fun th =>
           let x := d.reg a th false rs1.toNat
           match op with
           | .addil => x + imm.signExtend 64
           | .andil => x &&& imm.signExtend 64
           | .oril => x ||| imm.signExtend 64
           | .xoril => x ^^^ imm.signExtend 64)) ∧
  (∀ (rs2 : Nat) (a b : Word),
     let x := a.setWidth 32
     let y := b.setWidth 32
     intReg 0x00 rs2 a b = some (a + b) ∧ intReg 0x400 rs2 a b = some ((x + y).signExtend 64) ∧
     intReg 0x01 rs2 a b = some (a - b) ∧ intReg 0x401 rs2 a b = some ((x - y).signExtend 64) ∧
     intReg 0x02 rs2 a b = some (a &&& b) ∧ intReg 0x03 rs2 a b = some (a ||| b) ∧ intReg 0x04 rs2 a b = some (a ^^^ b) ∧
     intReg 0x05 rs2 a b = some (a <<< b.toNat) ∧ intReg 0x405 rs2 a b = some ((x <<< b.toNat).signExtend 64) ∧
     intReg 0x06 rs2 a b = some (a >>> b.toNat) ∧ intReg 0x406 rs2 a b = some ((x >>> b.toNat).signExtend 64) ∧
     intReg 0x07 rs2 a b = some (a.sshiftRight b.toNat) ∧ intReg 0x407 rs2 a b = some ((x.sshiftRight b.toNat).signExtend 64) ∧
     intReg 0x08 rs2 a b = some (if a.slt b then 1 else 0) ∧ intReg 0x09 rs2 a b = some (if a.ult b then 1 else 0) ∧
     intReg 0x0A rs2 a b = some (a * b) ∧ intReg 0x40A rs2 a b = some ((x * y).signExtend 64) ∧
     intReg 0x0B rs2 a b = some ((a.signExtend 128 * b.signExtend 128).extractLsb' 64 64) ∧
     intReg 0x0C rs2 a b = some ((a.setWidth 128 * b.setWidth 128).extractLsb' 64 64) ∧
     intReg 0x0D rs2 a b = some (if b = 0 then 0 else a.sdiv b) ∧ intReg 0x40D rs2 a b = some ((if y = 0 then 0 else x.sdiv y).signExtend 64) ∧
     intReg 0x0E rs2 a b = some (if b = 0 then 0 else a / b) ∧ intReg 0x0F rs2 a b = some (if b = 0 then a else a.srem b) ∧
     intReg 0x40F rs2 a b = some ((if y = 0 then x else x.srem y).signExtend 64) ∧
     intReg 0x10 rs2 a b = some (if b = 0 then a else a % b) ∧ intReg 0x410 rs2 a b = some ((if y = 0 then x else x % y).signExtend 64) ∧
     intReg 0x11 rs2 a b = some (if a.sle b then a else b) ∧ intReg 0x12 rs2 a b = some (if a.sle b then b else a) ∧
     intReg 0x13 rs2 a b = some (if a.ule b then a else b) ∧ intReg 0x14 rs2 a b = some (if a.ule b then b else a) ∧
     intReg 0x15 rs2 a b = some (a &&& ~~~b) ∧
     intReg 0x402 rs2 a b = some ((x &&& y).signExtend 64) ∧ intReg 0x403 rs2 a b = some ((x ||| y).signExtend 64) ∧
     intReg 0x404 rs2 a b = some ((x ^^^ y).signExtend 64) ∧ intReg 0x415 rs2 a b = some ((x &&& ~~~y).signExtend 64) ∧
     intReg 0x408 rs2 a b = some (if x.slt y then 1 else 0) ∧ intReg 0x409 rs2 a b = some (if x.ult y then 1 else 0) ∧
     intReg 0x40B rs2 a b = some (((x.signExtend 64 * y.signExtend 64).extractLsb' 32 32).signExtend 64) ∧
     intReg 0x40C rs2 a b = some (((x.setWidth 64 * y.setWidth 64).extractLsb' 32 32).signExtend 64) ∧
     intReg 0x40E rs2 a b = some ((if y = 0 then 0 else x / y).signExtend 64) ∧
     intReg 0x411 rs2 a b = some ((if x.sle y then x else y).signExtend 64) ∧ intReg 0x412 rs2 a b = some ((if x.sle y then y else x).signExtend 64) ∧
     intReg 0x413 rs2 a b = some ((if x.ule y then x else y).signExtend 64) ∧ intReg 0x414 rs2 a b = some ((if x.ule y then y else x).signExtend 64) ∧
     (∀ w : Bool, let bits := if w then 32 else 64
       let fn (op : Nat) : Nat := if w then 0x400 + op else op
       (∃ n, intReg (fn 0x16) 0 a b = some (BitVec.ofNat 64 n) ∧ n ≤ bits ∧ (∀ i < bits, bits ≤ i + n → a.getLsbD i = false) ∧
         (n < bits → a.getLsbD (bits - 1 - n) = true)) ∧
       (∃ n, intReg (fn 0x17) 0 a b = some (BitVec.ofNat 64 n) ∧ n ≤ bits ∧ (∀ i < n, a.getLsbD i = false) ∧ (n < bits → a.getLsbD n = true)) ∧
       intReg (fn 0x18) 0 a b = some (BitVec.ofNat 64 ((List.range bits).filter a.getLsbD).length)) ∧
     (a = BitVec.intMin 64 → b = BitVec.allOnes 64 → intReg 0x0D rs2 a b = some a ∧ intReg 0x0F rs2 a b = some 0) ∧
     (64 ≤ b.toNat → intReg 0x05 rs2 a b = some 0 ∧ intReg 0x06 rs2 a b = some 0 ∧ intReg 0x07 rs2 a b = some (if a.msb then BitVec.allOnes 64 else 0)))

/-- R166: a legal FOP writes its exact result rounded once to f[rd] or x[rd] for every active thread, and an Anvil core ORs the flags raised into ASR_FSR; FMA likewise. The choices behind a result's flags are logs 10 and 11, and log 35 for the conversions. -/
def Obligations.FloatInstructionsWriteTheirResult : Prop :=
  ∀ (a : Agent) (d : Dev) (q : List Instr) (rd rs1 rs2 rs3 : BitVec 5),
    (∀ (fn : BitVec 11) (z : FRes), fop (profOf a) (d.dynOf a) fn.toNat rs2.toNat 0 0 0 = some z → d.fenOk a = true →
      d.executes a 4 ((if (fopX (fld fn.toNat 10 5)).1 then [rd.toNat] else []) ++ (if (fopX (fld fn.toNat 10 5)).2 then [rs1.toNat] else [])) →
      ∃ e, exec (.fop a rd rs1 rs2 fn) ⟨d, q⟩ = .next ⟨e, q⟩ ∧
        d.fltDone e a rd.toNat (fun th =>
          (fop (profOf a) (d.dynOf a) fn.toNat rs2.toNat (d.reg a th true rs1.toNat) (d.reg a th true rs2.toNat) (d.reg a th false rs1.toNat)).getD z) z.toX) ∧
    (∀ (fn : BitVec 6) (z : FRes), fmaOp (profOf a) (d.dynOf a) fn.toNat 0 0 0 = some z → d.fenOk a = true → d.executes a 4 [] →
      ∃ e, exec (.fma a rd rs1 rs2 rs3 fn) ⟨d, q⟩ = .next ⟨e, q⟩ ∧
        d.fltDone e a rd.toNat (fun th =>
          (fmaOp (profOf a) (d.dynOf a) fn.toNat (d.reg a th true rs1.toNat) (d.reg a th true rs2.toNat) (d.reg a th true rs3.toNat)).getD z) false)

/-- R164, R147: a branch that its active threads agree on goes to pc + 4 · IMM16 when taken and to the next instruction otherwise; JL, JLR and JLL write the address of the next instruction to x[rd] and jump. R180, R182: a legal FENCE only goes on; RDTIME reads the time base in nanoseconds; RDSTROKE reads a stroke count that has risen since any earlier read. That a stroke count rises by an open number at its read is the model's choice (log 50). -/
def Obligations.ControlFlowFencesAndTimeReads : Prop :=
  (∀ (a : Agent) (d : Dev) (q : List Instr) (rd rs1 rs2 : BitVec 5),
     (∀ (op : BrOp) (off : BitVec 16) (o : Bool), d.executes a 4 [rs1.toNat, rs2.toNat] → d.activeOf a ≠ [] →
       (∀ th ∈ d.activeOf a, brTaken op (d.reg a th false rs1.toNat) (d.reg a th false rs2.toNat) = o) →
       ∃ e, exec (.branch a op rs1 rs2 off) ⟨d, q⟩ = .next ⟨e, q⟩ ∧
         let pc := if o then d.pcOf a + off.signExtend 64 * 4 else d.pcOf a + 4
         e.pcOf a = pc ∧ (∀ th flt r, e.reg a th flt r = d.reg a th flt r) ∧ (d.untraced a → d.leftAlone e a ∧ d.wentOn e a pc ∧ d.counted e a)) ∧
     (∀ off : BitVec 21, d.executes a 4 [rd.toNat] →
       ∃ e, exec (.jl a rd off) ⟨d, q⟩ = .next ⟨e, q⟩ ∧
         d.setsReg e a false rd.toNat (fun _ => d.pcOf a + 4) ∧ d.leftAlone e a ∧ d.wentOn e a (d.pcOf a + off.signExtend 64 * 4) ∧ d.counted e a) ∧
     (∀ imm : BitVec 16, profOf a ≠ .l → d.executes a 4 [rd.toNat, rs1.toNat] →
       ∃ e, exec (.jlr a rd rs1 imm) ⟨d, q⟩ = .next ⟨e, q⟩ ∧ d.jumped e a rd.toNat (d.pcOf a + 4) (d.reg a 0 false rs1.toNat + imm.signExtend 64 * 4)) ∧
     (∀ imm : BitVec 42, profOf a ≠ .l → d.executes a 8 [rd.toNat] →
       ∃ e, exec (.jll a rd 0 imm) ⟨d, q⟩ = .next ⟨e, q⟩ ∧
         d.setsReg e a false rd.toNat (fun _ => d.pcOf a + 8) ∧ d.leftAlone e a ∧ d.wentOn e a (d.pcOf a + imm.signExtend 64 * 4) ∧ d.counted e a)) ∧
  (∀ (a : Agent) (d : Dev) (q : List Instr) (rd : BitVec 5),
     (∀ imm : BitVec 16, imm.extractLsb' 7 9 = 0#9 → (profOf a = .a ∨ imm.getLsbD 5 = false) → d.executes a 4 [] →
       ∃ e, exec (.fenceInstr a 0 0 imm) ⟨d, q⟩ = .next ⟨e, q⟩ ∧
         (∀ th flt r, e.reg a th flt r = d.reg a th flt r) ∧ d.leftAlone e a ∧ d.wentOn e a (d.pcOf a + 4) ∧ d.counted e a) ∧
     (d.executes a 4 [rd.toNat] →
       ∃ e, exec (.rdtime a rd 0 0) ⟨d, q⟩ = .next ⟨e, q⟩ ∧ d.intDone e a 4 rd.toNat fun _ => BitVec.ofNat 64 d.time) ∧
     (∀ c, a = .anvil c → d.agentReady a = true → (d.passStrokes a).executes a 4 [rd.toNat] →
       ∃ e n, exec (.rdstroke a rd 0 0) ⟨d, q⟩ = .next ⟨e, q⟩ ∧ 0 < n ∧ (e.core c.val).strokes = (d.core c.val).strokes + n ∧
         (d.passStrokes a).intDone e a 4 rd.toNat fun _ => BitVec.ofNat 64 ((d.core c.val).strokes + n)) ∧
     (∀ t, (a = .smith t ∨ ∃ g, a = .group t g) → d.agentReady a = true → (d.passStrokes a).executes a 4 [rd.toNat] →
       let k := t.brick.val * 4 + t.tile.val / 24
       ∃ e n, exec (.rdstroke a rd 0 0) ⟨d, q⟩ = .next ⟨e, q⟩ ∧ 0 < n ∧ SMap.get 0 e.qstrokes k = SMap.get 0 d.qstrokes k + n ∧
         (d.passStrokes a).intDone e a 4 rd.toNat fun _ => BitVec.ofNat 64 (SMap.get 0 d.qstrokes k + n)))

/-! ### Loads, stores and atomics (R155, R157, R162, R167, R176, R192) -/

/-- R162, R176: LD and FLD from tile stores give each active thread the bytes at its own address, sign- or zero-extended, and change nothing else. A load of one thread elsewhere gives it the bytes that the access reads. R157, R176: ST and FST into tile stores leave each byte as the highest-numbered thread that covers it wrote it, and change no register and no other byte. A store of one thread elsewhere has the effect of its write. -/
def Obligations.LoadsAndStoresMoveTheirBytes : Prop :=
  (∀ (a : Agent) (d : Dev) (q : List Instr) (rd rs1 : BitVec 5) (flt : Bool) (size : BitVec 3) (space : BitVec 2) (off : BitVec 11),
     let n := 2 ^ (size.toNat % 4)
     let va (th : Nat) : Word := d.reg a th false rs1.toNat + off.signExtend 64
     let i : Instr := if flt then .fld a rd rs1 size space off else .ld a rd rs1 size space off
     let value (bs : List Byte) : Word :=
       if flt ∨ 4 ≤ size.toNat then BitVec.ofNat 64 (leNat bs) else (BitVec.ofNat (8 * n) (leNat bs)).signExtend 64
     (if flt then (size = 2#3 ∨ size = 3#3) ∧ d.fenOk a = true else size ≠ 7#3) →
     d.executes a 4 (if flt then [rs1.toNat] else [rd.toNat, rs1.toNat]) → d.unitsOpen a = false →
     (∀ at_, profOf a ≠ .a → space = 1#2 → d.inStores a va n at_ → (∀ th ∈ d.activeOf a, (d.tile (at_ th).1).badWord (at_ th).2 n = none) →
       ∃ e, exec i ⟨d, q⟩ = .next ⟨e, q⟩ ∧ d.leftAlone e a ∧ d.wentOn e a (d.pcOf a + 4) ∧
         d.setsReg e a flt rd.toNat fun th => value (SMap.bytes 0 (d.tile (at_ th).1).store (at_ th).2 n)) ∧
     (∀ th d1 x c d2 bs, space.toNat < (if profOf a = .a then 1 else 2) → d.activeOf a = [th] →
       (d.woken a).access a space.toNat (va th) n false true = (d1, .go x c) → (∀ p r, x ≠ .remote p r) →
       (d1.countInsn a).readFor a x c n = (d2, .ok bs) → d2.agentBusy a = false →
       ∃ e, exec i ⟨d, q⟩ = .next ⟨e, q⟩ ∧ e = (d2.setReg a th flt rd.toNat (loadVal flt size.toNat bs)).next a 4)) ∧
  (∀ (a : Agent) (d : Dev) (q : List Instr) (rd rs1 : BitVec 5) (flt : Bool) (size : BitVec 3) (space : BitVec 2) (off : BitVec 11),
     let n := 2 ^ (size.toNat % 4)
     let va (th : Nat) : Word := d.reg a th false rs1.toNat + off.signExtend 64
     let i : Instr := if flt then .fst a rd rs1 size space off else .st a rd rs1 size space off
     let v (th : Nat) : List Byte := bytesOf n (d.reg a th flt rd.toNat).toNat
     (if flt then (size = 2#3 ∨ size = 3#3) ∧ d.fenOk a = true else size.toNat < 4) →
     d.executes a 4 (if flt then [rs1.toNat] else [rd.toNat, rs1.toNat]) → d.unitsOpen a = false →
     (∀ at_, profOf a ≠ .a → space = 1#2 → d.inStores a va n at_ →
       (n < 4 → ∀ th ∈ d.activeOf a, (d.tile (at_ th).1).badWord (at_ th).2 n = none) →
       ∃ e, exec i ⟨d, q⟩ = .next ⟨e, q⟩ ∧ d.onlyStores e a ∧ e.pcOf a = d.pcOf a + 4 ∧
         ∀ k o, SMap.get 0 (e.tile k).store o = d.storedByte a n at_ v k o) ∧
     (∀ th d1 x c d2, space.toNat < (if profOf a = .a then 1 else 2) → d.activeOf a = [th] →
       (d.woken a).access a space.toNat (va th) n true true = (d1, .go x c) → (∀ p r, x ≠ .remote p r) →
       (d1.countInsn a).writeFor a x c (va th) (v th) = (d2, none) → d2.agentBusy a = false →
       ∃ e, exec i ⟨d, q⟩ = .next ⟨e, q⟩ ∧ e = d2.next a 4))

/-- R167: an AMO of one thread returns the old word, sign-extended, and stores what its operation makes of the old word and x[rs2] (CAS: compared with x[rd] as it was). -/
def Obligations.AtomicsReadModifyWrite : Prop :=
  ∀ (a : Agent) (d : Dev) (q : List Instr) (rd rs1 rs2 : BitVec 5) (fn : BitVec 11) (th : Nat),
    let n := if fn.getLsbD 6 then 8 else 4
    let va := d.reg a th false rs1.toNat
    let src := (d.reg a th false rs2.toNat).toNat
    let cmp := (d.reg a th false rd.toNat).toNat
    let f (old : Nat) : Option Nat := amoNew (fn.extractLsb' 7 4).toNat (8 * n) old src cmp
    amoOk (profOf a) fn.toNat = true → d.executes a 4 [rd.toNat, rs1.toNat, rs2.toNat] → d.unitsOpen a = false → d.activeOf a = [th] →
    (∀ k o, profOf a ≠ .a → fn.getLsbD 1 = true → va.toNat % n = 0 → d.bankOf a va.toNat = some (k, o) → o + n ≤ 0x7FF00 →
      (d.tile k).badWord o n = none →
      ∃ e v, exec (.amo a rd rs1 rs2 fn) ⟨d, q⟩ = .next ⟨e, q⟩ ∧ f (leNat (SMap.bytes 0 (d.tile k).store o n)) = some v ∧
        SMap.bytes 0 (e.tile k).store o n = bytesOf n v ∧
        (∀ j p, (j ≠ k ∨ p < o ∨ o + n ≤ p) → SMap.get 0 (e.tile j).store p = SMap.get 0 (d.tile j).store p) ∧
        e.mem = d.mem ∧ e.pcOf a = d.pcOf a + 4 ∧
        d.setsReg e a false rd.toNat fun _ => (BitVec.ofNat (8 * n) (leNat (SMap.bytes 0 (d.tile k).store o n))).signExtend 64) ∧
    (∀ d1 p t, a = .smith t → fn.getLsbD 1 = false → d.access a 0 va n true false = (d1, .go (.loc p) false) → inTier p = true →
      d1.bad p n = none →
      ∃ e, exec (.amo a rd rs1 rs2 fn) ⟨d, q⟩ = .next ⟨e, q⟩ ∧
        let r := d1.farAmo (d1.reqOf a) (.loc p) n f none
        e = (r.1.setReg a th false rd.toNat (sxw (8 * n) r.2)).next a 4) ∧
    (∀ d1 p c cached, a = .anvil c → (d.woken a).access a 0 va n true false = (d1, .go (.loc p) cached) → inTier p = true →
      d1.bad p n = none →
      ∃ e, exec (.amo a rd rs1 rs2 fn) ⟨d, q⟩ = .next ⟨e, q⟩ ∧
        let r := if cached && d1.amoNear c.val (fn.extractLsb' 2 2).toNat p then d1.nearAmo c.val (d1.coreOwner c.val) p n f
          else d1.farAmo (d1.reqOf a) (.loc p) n f (some c.val)
        e = (r.1.setReg a th false rd.toNat (sxw (8 * n) r.2)).next a 4)


/-! ### The Anvil system (R178 to R180, R184 to R186, R333) -/

/-- R178, Tables 5.12, 5.14, 5.15: SRR, SRW, SRS and SRC return the old value of a system register that the level may use, and the last three write it by the register's own rule: SRW x[rs1], SRS old OR x[rs1], SRC old AND NOT x[rs1]; IPEND clears the bits given, SOFTIRQ raises SOFT on a core of the same partition. That SRW, SRS and SRC of ASR_IPEND all clear the bits given is the model's reading (log 47). -/
def Obligations.SystemRegistersReadAndWrite : Prop :=
  ∀ (c : Fin 128) (d : Dev) (q : List Instr) (rd rs1 : BitVec 5) (reg : BitVec 12),
    let a := Agent.anvil c
    let r := reg.toNat
    let x := (d.core c.val).rx rs1.toNat
    let old := d.asr c.val r
    let done (f : Core → Core) : Core :=
      ({ f (d.core c.val) with pc := (d.core c.val).pc + 4, retired := (d.core c.val).retired + 1, wfi := false } : Core).wx rd.toNat old
    d.executes a 4 [] → d.mayUse c r → r ≠ 0x011 →
    (∃ e, exec (.srr a rd 0 reg) ⟨d, q⟩ = .next ⟨e, q⟩ ∧ e = { d with cores := e.cores } ∧ e.core c.val = done id ∧ ∀ k, k ≠ c.val → e.core k = d.core k) ∧
    (r ≠ 0x007 → r ≠ 0x00B → ∀ (i : Instr) (w : Word),
      (i = .srw a rd rs1 reg ∧ w = x) ∨ (i = .srs a rd rs1 reg ∧ w = old ||| x) ∨ (i = .srcOp a rd rs1 reg ∧ w = old &&& ~~~x) →
      ∃ e, exec i ⟨d, q⟩ = .next ⟨e, q⟩ ∧ e = { d with cores := e.cores } ∧ (∀ k, k ≠ c.val → e.core k = d.core k) ∧
        e.core c.val = done fun y => y.asrTakes r w) ∧
    (r = 0x007 → ∀ i ∈ [Instr.srw a rd rs1 reg, .srs a rd rs1 reg, .srcOp a rd rs1 reg],
      ∃ e, exec i ⟨d, q⟩ = .next ⟨e, q⟩ ∧ e = { d with cores := e.cores } ∧ (∀ k, k ≠ c.val → e.core k = d.core k) ∧
        e.core c.val = done fun y => { y with ipend := y.ipend - (y.ipend &&& ((x.extractLsb' 0 4).toNat &&& 0xD)) }) ∧
    (r = 0x00B → ∀ t : Nat, x = BitVec.ofNat 64 t → t < 128 → t ≠ c.val →
      ∃ e, exec (.srw a rd rs1 reg) ⟨d, q⟩ = .next ⟨e, q⟩ ∧ e = { d with cores := e.cores } ∧ e.core c.val = done id ∧
        e.core t = if d.coreIn t = true ∧ d.coreOwner t = d.coreOwner c.val then { d.core t with ipend := setBit (d.core t).ipend 0 } else d.core t)

/-- R179, R180, R333: TCALL traps from PL0 and calls the monitor at PL1; TRET returns to EPC at the saved level with the saved IE; WFI waits; BREAK traps; an interrupt that can be taken, and TIMER when the time base has reached TCMP, trap with the cause of highest priority. When an interrupt is taken is for the sender of the row (log 58). -/
def Obligations.TrapsSaveAndRestore : Prop :=
  ∀ (c : Fin 128) (d : Dev) (q : List Instr),
    let a := Agent.anvil c
    let y := d.core c.val
    let gone : Core := { y with pc := y.pc + 4, retired := y.retired + 1, wfi := false }
    (d.executes a 4 [] →
      (y.cpl = 0 → ∃ e, exec (.tcall a 0 0 0) ⟨d, q⟩ = .next ⟨e, q⟩ ∧ d.traps e c y.pc 0x08 0) ∧
      (y.cpl ≠ 0 → y.rx 10 = 0 → ∃ e, exec (.tcall a 0 0 0) ⟨d, q⟩ = .next ⟨e, q⟩ ∧ e = { d with cores := e.cores } ∧
        e.core c.val = ((gone.wx 11 (d.coreMask (d.coreOwner c.val) 0)).wx 12 (d.coreMask (d.coreOwner c.val) 1)).wx 10 (BitVec.ofNat 64 (d.coreOwner c.val))) ∧
      (y.cpl ≠ 0 → 2 < (y.rx 10).toNat → ∃ e, exec (.tcall a 0 0 0) ⟨d, q⟩ = .next ⟨e, q⟩ ∧ e = { d with cores := e.cores } ∧
        e.core c.val = gone.wx 10 (BitVec.allOnes 64)) ∧
      (y.cpl ≠ 0 → ∃ e, exec (.tret a 0 0 0) ⟨d, q⟩ = .next ⟨e, q⟩ ∧
        e.core c.val = { gone with cpl := y.ppl, ie := y.pie, pc := y.epc } ∧ (y.cpl < 2 → d.untraced a → e = { d with cores := e.cores })) ∧
      (y.cpl ≠ 0 → ∃ e, exec (.wfi a 0 0 0) ⟨d, q⟩ = .next ⟨e, q⟩ ∧ e = { d with cores := e.cores } ∧ e.core c.val = { gone with wfi := true }) ∧
      (∃ e, exec (.break a 0 0 0) ⟨d, q⟩ = .next ⟨e, q⟩ ∧ d.traps e c y.pc 0x0A y.pc)) ∧
    (let p := (y.ipend + 2 * b2n (decide (y.tcmp.toNat ≤ d.time))) &&& y.ien
     d.live = true → d.coreBusy c.val = false → y.run = true → (y.cpl = 0 ∨ y.ie = true) →
      ((∃ b, b < 4 ∧ p.testBit b = true) → ∃ e, exec (.interrupt c) ⟨d, q⟩ = .next ⟨e, q⟩ ∧
        d.traps e c y.pc (if p.testBit 3 then 0x13 else if p.testBit 1 then 0x11 else if p.testBit 2 then 0x12 else 0x10) 0) ∧
      (y.tcmp.toNat ≤ d.time → y.ipend < 16 → y.ipend.testBit 1 = false → y.ien.testBit 1 = true → p.testBit 3 = false →
        ∃ e, exec (.timer c) ⟨d, q⟩ = .next ⟨e, q⟩ ∧ d.traps e c y.pc 0x11 0))

/-- R184, R186: after CLEAN no cached copy of the line is dirty, after CLEANINV and INV no core holds it; a sole dirty copy reaches the home under CLEAN and CLEANINV and is dropped by INV at PL1; a CMOR of at most zero bytes does nothing, and one within a line acts as the operation on it. That the operation reaches every core's copy is the model's reading (log 48). -/
def Obligations.CacheMaintenanceActsOnTheLine : Prop :=
  ∀ (c : Fin 128) (d d1 : Dev) (q : List Instr) (rs1 : BitVec 5) (p : Nat),
    let a := Agent.anvil c
    let va := (d.core c.val).rx rs1.toNat
    let l := p / 128
    let home (e : Dev) : Prop := ∀ k y, d1.mem.holders l = [k] → d1.mem.cLine k l = some y → y.dirty = true → y.data.length = 128 →
      e.mem.tierBytes (d1.gen y.kid) (128 * l) 128 = y.data
    (d.executes a 4 [] → (d.woken a).accA c.val va.toNat 1 1 = (d1, .loc p, true) →
      (∃ e, exec (.clean a 0 rs1 0) ⟨d, q⟩ = .next ⟨e, q⟩ ∧ e.pcOf a = d1.pcOf a + 4 ∧ (∀ k y, e.mem.cLine k l = some y → y.dirty = false) ∧ home e) ∧
      (∃ e, exec (.cleaninv a 0 rs1 0) ⟨d, q⟩ = .next ⟨e, q⟩ ∧ e.pcOf a = d1.pcOf a + 4 ∧ e.mem.holders l = [] ∧ home e) ∧
      ((d.core c.val).cpl ≠ 0 →
        ∃ e, exec (.invLine a 0 rs1 0) ⟨d, q⟩ = .next ⟨e, q⟩ ∧ e.pcOf a = d1.pcOf a + 4 ∧ e.mem.holders l = [] ∧ e.mem.dram = d1.mem.dram)) ∧
    (∀ (rd : BitVec 5) (imm : BitVec 42), d.executes a 8 [] → va.toNat < 3 →
      (imm.toInt ≤ 0 → ∃ e, exec (.cmor a rd rs1 imm) ⟨d, q⟩ = .next ⟨e, q⟩ ∧ e = { d with cores := e.cores } ∧ e.mem = d.mem ∧ e.pcOf a = d.pcOf a + 8) ∧
      (0 < imm.toInt → let base := ((d.core c.val).rx rd.toNat).toNat
        base % 128 + imm.toInt.toNat ≤ 128 → (d.woken a).accA c.val base 1 1 = (d1, .loc p, true) →
        ∃ e, exec (.cmor a rd rs1 imm) ⟨d, q⟩ = .next ⟨e, q⟩ ∧ e.pcOf a = d1.pcOf a + 8 ∧
          (va = 0 → ∀ k y, e.mem.cLine k l = some y → y.dirty = false) ∧ (va ≠ 0 → e.mem.holders l = [])))


/-! ### The vector unit (R168, R181) -/

/-- R181, Table 5.16: a legal vector operation changes the active lanes of v[vd] to their results, keeps or zeroes the inactive ones, sets the bits of m[vd] by a compare, or writes a reduction over the active lanes to f[vd] or x[vd]; lanes with an open value take a free one, and nothing else but ASR_FSR changes. R168, R181: VLD fills the active lanes of v[vd] from 64 bytes and keeps or zeroes the others, VST stores the active lanes; VLDS and VSTS move one lane per strided address, shown on addresses of the Yard. The lane width of vector loads and stores is open (log 12); lanes without a stated value are free (log 38); the upper mask bits of a compare in an 8-lane format are 0 by log 53 and an I32 reduction is sign-extended by log 52. -/
def Obligations.VectorInstructionsActOnActiveLanes : Prop :=
  (∀ (c : Fin 128) (d : Dev) (q : List Instr) (vd vs1 vs2 vop : BitVec 5) (msk : BitVec 3) (z : Bool) (vf : BitVec 2),
     let y := d.core c.val
     let lit (i : Nat) : Bool := y.laneOn msk.toNat i
     let n := vLanes vf.toNat
     let i : Instr := .vectorOp (.anvil c) vd vs1 vs2 msk z vf vop
     let red : Bool := decide (0x11 ≤ vop.toNat) && decide (vop.toNat ≤ 0x13)
     let cmp : Bool := decide (0x0C ≤ vop.toNat) && decide (vop.toNat ≤ 0x0E)
     d.executes (.anvil c) 4 [] → y.ven = true → vecOk vd.toNat vs2.toNat vf.toNat vop.toNat = true →
     ∃ e o, exec i ⟨d, q⟩ = .next ⟨e, q⟩ ∧ e = { d with cores := e.cores, fi := e.fi } ∧ (∀ k, k ≠ c.val → e.core k = d.core k) ∧
       (vecOpen vs2.toNat vf.toNat vop.toNat = false → e.fi = d.fi) ∧
       let w := e.core c.val
       w = { y with x := w.x, f := w.f, v := w.v, m := w.m, fsr := w.fsr, pc := y.pc + 4, retired := y.retired + 1, wfi := false } ∧
       (red = false → cmp = false →
         (∀ j, w.rx j = y.rx j ∧ w.rf j = y.rf j ∧ w.rm j = y.rm j) ∧ (∀ r, r ≠ vd.toNat → w.rv r = y.rv r) ∧
         ∀ j, j < n → lane vf.toNat (w.rv vd.toNat) j =
           if lit j then (y.vecLane vd.toNat vs1.toNat vs2.toNat vf.toNat vop.toNat o j).1 % 2 ^ vBits vf.toNat
           else if z then 0 else lane vf.toNat (y.rv vd.toNat) j) ∧
       (cmp = true → (∀ j, w.rx j = y.rx j ∧ w.rf j = y.rf j ∧ w.rv j = y.rv j) ∧ (∀ r, r ≠ vd.toNat → w.rm r = y.rm r) ∧
         (vd ≠ 0 → ∀ j, j < 16 → (w.rm vd.toNat).getLsbD j =
           (decide (j < n) && lit j && decide ((y.vecLane vd.toNat vs1.toNat vs2.toNat vf.toNat vop.toNat o j).1 = 1)))) ∧
       (red = true → (∀ j, w.rv j = y.rv j ∧ w.rm j = y.rm j) ∧
         let r := vReduce vf.toNat (vop.toNat - 0x11) y.vmode ((List.range n).map fun j => if lit j then some (lane vf.toNat (y.rv vs1.toNat) j) else none)
         if vf.toNat < 2 then w.rf vd.toNat = BitVec.ofNat 64 r.1 ∧ ∀ j, w.rx j = y.rx j
         else w.rx vd.toNat = (if vd = 0 then 0 else sxw (vBits vf.toNat) r.1) ∧ ∀ j, w.rf j = y.rf j)) ∧
  (∀ (c : Fin 128) (d d1 d2 : Dev) (q : List Instr) (vd rs1 : BitVec 5) (msk : BitVec 3) (z : Bool) (off : BitVec 11) (imm : BitVec 42) (x : Acc) (cached : Bool)
     (bs : List Byte) (p o : Nat → Nat),
     let a := Agent.anvil c
     let y := d.core c.val
     let va := y.rx rs1.toNat + off.signExtend 64 * 64
     let mask := y.byteMask msk.toNat vldLane
     let n := vldsLane
     let lanes := (List.range (64 / n)).map fun i => (i, Hit.go (.loc (p i)) false)
     let sva (i : Nat) : Word := y.rx rs1.toNat + BitVec.ofNat 64 i * imm.signExtend 64
     let inYard : Prop := ∀ i, i < 64 / n → place (p i) = .yard (o i) ∧ o i % 2 ^ 24 + n ≤ 0xFFFF00 ∧ d1.bad (p i) n = none ∧ d1.winCovers (p i) n = none
     y.ven = true →
     (d.executes a 4 [] → (d.woken a).accCore c.val va 64 0 = (d1, .go x cached) → (∀ k r, x ≠ .remote k r) → x.narrow = false → mask ≠ 0 →
       (d1.readFor a (x.at_ 0) cached 64) = (d2, .ok bs) → bs.length = 64 →
       ∃ e, exec (.vld a vd rs1 msk z false off) ⟨d, q⟩ = .next ⟨e, q⟩ ∧ e = { d2 with cores := e.cores } ∧ e.pcOf a = d2.pcOf a + 4 ∧
         ∀ j, j < 64 → nthD 0 (bytesOf 64 ((e.core c.val).rv vd.toNat).toNat) j =
           if mask.testBit j then nthD 0 bs j else if z then 0 else nthD 0 (bytesOf 64 ((d2.core c.val).rv vd.toNat).toNat) j) ∧
     (d.executes a 4 [] → (d.woken a).accCore c.val va 64 1 = (d1, .go x cached) → (∀ k r, x ≠ .remote k r) →
       Dev.writeRuns a x cached va (bytesOf 64 (y.rv vd.toNat).toNat) (maskRuns (if x.narrow then 8 else 64) mask) d1 = (d2, none) →
       ∃ e, exec (.vst a vd rs1 msk z false off) ⟨d, q⟩ = .next ⟨e, q⟩ ∧ e = d2.next a 4) ∧
     (d.executes a 8 [] → Dev.accesses a sva 0 n false true (List.range (64 / n)) (d.woken a) = (d1, .ok lanes) → inYard →
       ∃ e, exec (.vlds a vd rs1 imm) ⟨d, q⟩ = .next ⟨e, q⟩ ∧ e.mem = d1.mem ∧ e.pcOf a = d1.pcOf a + 8 ∧
         ∀ i, i < 64 / n → ((bytesOf 64 ((e.core c.val).rv vd.toNat).toNat).drop (n * i)).take n = SMap.bytes 0 d1.mem.yard (o i) n) ∧
     (d.executes a 8 [] → Dev.accesses a sva 0 n true true (List.range (64 / n)) (d.woken a) = (d1, .ok lanes) → inYard →
       ∃ e, exec (.vsts a vd rs1 imm) ⟨d, q⟩ = .next ⟨e, q⟩ ∧ (∀ k, e.core k = { d1.core k with pc := (e.core k).pc, retired := (e.core k).retired }) ∧
         e.pcOf a = d1.pcOf a + 8 ∧
         ∀ b, SMap.get 0 e.mem.yard b =
           match ((List.range (64 / n)).filter fun i => decide (o i ≤ b) && decide (b < o i + n)).getLast? with
           | some i => nthD 0 (bytesOf 64 (y.rv vd.toNat).toNat) (n * i + (b - o i))
           | none => SMap.get 0 d1.mem.yard b))

/-! ### Smith cores and thread groups (R152, R153, R156, R162, R169 to R171, R173 to R175, R177) -/

/-- R92, R162, R169 to R171, R173: a TILE instruction whose queue has room issues its command with the next issue number and the seed of an SSEED before it; SSEED, WAIT, VRD, VWR and KEND act on the tile at once; the Smith core goes on, and no other tile and no memory changes. R169: a TILE instruction whose queue is full waits by handshake, and one that touches a reserved register waits; nothing changes. -/
def Obligations.SmithInstructionsIssueOrWait : Prop :=
  (∀ (t : TileRef) (d : Dev) (q : List Instr) (rd rs1 rs2 : BitVec 5),
     let a := Agent.smith t
     let x := d.tile t.key
     let w1 := x.rx rs1.toNat
     let w2 := x.rx rs2.toNat
     let yields (i : Instr) (y : Tile) : Prop :=
       ∃ e, exec i ⟨d, q⟩ = .next ⟨e, q⟩ ∧ e = { d with tiles := e.tiles, cntQ := e.cntQ, cntP := e.cntP } ∧
         (∀ k, k ≠ t.key → e.tile k = d.tile k) ∧ e.tile t.key = { y with pc := x.pc + 4 }
     (d.executes a 4 [rs1.toNat] → x.cq.length < 4 →
       yields (.cissue a 0 rs1 0) { x with seq := x.seq + 1, cq := x.cq ++ [⟨w1, x.seq, x.seedC⟩], seedC := none }) ∧
     (d.executes a 4 [rs1.toNat, rs2.toNat] → ∀ k : Fin 4, rd.toNat = k.val → (x.vq[k]).length < 4 →
       yields (.cvt a rd rs1 rs2) { x with seq := x.seq + 1, vq := x.vq.set k (x.vq[k] ++ [⟨w1, w2, x.seq, x.seedV[k]⟩]), seedV := x.seedV.set k none }) ∧
     (d.executes a 4 [rs1.toNat] → x.lqWaiting < 2 → yields (.wsplit a 0 rs1 0) { x with seq := x.seq + 1, lq := x.lq ++ [.split w1 x.seq] }) ∧
     (d.executes a 4 [rs1.toNat, rs2.toNat] → x.lqWaiting < 2 → yields (.bld a 0 rs1 rs2) { x with seq := x.seq + 1, lq := x.lq ++ [.bld w1 w2 x.seq 0] }) ∧
     (d.executes a 4 [rd.toNat, rs1.toNat] → x.sq.length < 4 → yields (.swg a rd rs1 0) { x with seq := x.seq + 1, sq := x.sq ++ [⟨w1, rd.toNat, x.seq⟩] }) ∧
     (d.executes a 4 [rs1.toNat] → yields (.sseed a 0 rs1 0) { x with seed := w1, seedC := some w1, seedV := .replicate 4 (some w1) }) ∧
     (d.executes a 4 [rs1.toNat] → x.tq.length < 2 → yields (.tlaunch a 0 rs1 0) { x with seq := x.seq + 1, tq := x.tq ++ [⟨w1, 0, x.seq⟩] }) ∧
     (d.executes a 4 [] → x.unitsDone rs2.toNat = true → yields (.waitInstr a 0 0 rs2) x) ∧
     (d.executes a 4 [rd.toNat, rs2.toNat] → x.sq = [] → x.srun = none → x.bad.contains (arrV.base + (64 * rs1.toNat + w2.toNat % 64)) = false →
       yields (.vrd a rd rs1 rs2) (x.wx rd.toNat ((SMap.get 0 x.v (64 * rs1.toNat + w2.toNat % 64)).setWidth 64))) ∧
     (d.executes a 4 [rs1.toNat, rs2.toNat] → x.sq = [] → x.srun = none → x.bad = [] →
       yields (.vwr a rd rs1 rs2) { x with v := SMap.put 0 x.v (64 * rd.toNat + w2.toNat % 64) (w1.setWidth 32) }) ∧
     (d.executes a 4 [] → yields (.kend a 0 0 0) { x with kend := true })) ∧
  (∀ (t : TileRef) (d : Dev) (q : List Instr) (rd rs1 rs2 : BitVec 5),
     let a := Agent.smith t
     let x := d.tile t.key
     d.agentReady a = true → d.fetchStop a 4 = none →
     (4 ≤ x.cq.length → exec (.cissue a 0 rs1 0) ⟨d, q⟩ = .next ⟨d, q⟩) ∧
     (∀ k : Fin 4, rd.toNat = k.val → 4 ≤ (x.vq[k]).length → exec (.cvt a rd rs1 rs2) ⟨d, q⟩ = .next ⟨d, q⟩) ∧
     (2 ≤ x.lqWaiting → exec (.wsplit a 0 rs1 0) ⟨d, q⟩ = .next ⟨d, q⟩ ∧ exec (.bld a 0 rs1 rs2) ⟨d, q⟩ = .next ⟨d, q⟩) ∧
     (4 ≤ x.sq.length → exec (.swg a rd rs1 0) ⟨d, q⟩ = .next ⟨d, q⟩) ∧
     (2 ≤ x.tq.length → exec (.tlaunch a 0 rs1 0) ⟨d, q⟩ = .next ⟨d, q⟩) ∧
     (x.unitsDone rs2.toNat = false → exec (.waitInstr a 0 0 rs2) ⟨d, q⟩ = .next ⟨d, q⟩) ∧
     (∀ (op : ImmOp) (imm : BitVec 16), x.reserved rd.toNat = true ∨ x.reserved rs1.toNat = true →
       exec (.addi a op rd rs1 imm) ⟨d, q⟩ = .next ⟨d, q⟩ ∧ exec (.swg a rd rs1 0) ⟨d, q⟩ = .next ⟨d, q⟩))

/-- R152, R153, R162, R174, R175: the mask instructions of a group change its mask registers and mask stack as stated, and no thread register but MRD's; the group goes on at the next instruction, or at MBR's target, with the reconvergence check. An MPUSH on a full stack ends the task with DETECTED_ERROR and the reason MASK_STACK, an MBR of the reserved COND 3 with ILLEGAL; no other mask operation fails. -/
def Obligations.MaskInstructionsSteerTheGroup : Prop :=
  ∀ (t : TileRef) (g : Fin 8) (d : Dev) (q : List Instr) (rd rs1 rs2 : BitVec 5),
    let a := Agent.group t g
    let y := d.grp t g
    let full : Word := if y.wide then 0xFFFFFFFF else BitVec.allOnes 64
    let put (i : Nat) (v : Word) (h : i < 8) : Group := { y with m := y.m.set i (v &&& full) }
    let yields (i : Instr) (z : Group) (pc : Word) : Prop :=
      ∃ e, exec i ⟨d, q⟩ = .next ⟨e, q⟩ ∧ e = { d with tiles := e.tiles, cntQ := e.cntQ, cntP := e.cntP } ∧
        (∀ k, e.tile k = { d.tile k with groups := (e.tile k).groups }) ∧ e.grp t g = z.goto pc ∧
        ∀ u j, ¬(u = t ∧ j = g) → e.grp u j = d.grp u j
    let ends (i : Instr) (reason word : Nat) : Prop :=
      ∃ e, exec i ⟨d, q⟩ = .next ⟨e, q⟩ ∧ e.tile t.key = { d.tile t.key with fin := some ⟨0x20, reason, 1, 0, 0, word, y.pc⟩ } ∧
        (∀ k, k ≠ t.key → e.tile k = d.tile k) ∧ (∀ k, e.core k = d.core k) ∧ e.mem = d.mem
    let cmpBits (f : Nat → Bool) : Word := BitVec.ofNat 64 (y.active.foldl (fun m th => if f th then setBit m th else m) 0)
    d.executes a 4 [] →
    (∀ imm : BitVec 16, y.stack.length < 16 →
      yields (.mpush a 0 0 imm) { y with stack := (y.m[0], y.pc + imm.signExtend 64 * 4) :: y.stack } (y.pc + 4)) ∧
    (∀ imm : BitVec 16, 16 ≤ y.stack.length → ends (.mpush a 0 0 imm) 3 0) ∧
    (∀ i : Fin 8, rs1.toNat = i.val → yields (.mand a 0 rs1 0) (put 0 (y.m[0] &&& y.m[i]) (by decide)) (y.pc + 4) ∧
      yields (.melse a 0 rs1 0) (put 0 ((match y.stack with | e :: _ => e.1 | [] => full) &&& ~~~y.m[i]) (by decide)) (y.pc + 4)) ∧
    (∀ e rest, y.stack = e :: rest → yields (.mpop a 0 0 0) { put 0 e.1 (by decide) with stack := rest } (y.pc + 4)) ∧
    (y.stack = [] → yields (.mpop a 0 0 0) (put 0 full (by decide)) (y.pc + 4)) ∧
    (∀ i j k : Fin 8, rd.toNat = i.val → rs1.toNat = j.val → rs2.toNat = k.val → ∀ op : MaskOp,
      yields (.mland a op rd rs1 rs2)
        (put i (match op with | .mland => y.m[j] &&& y.m[k] | .mlor => y.m[j] ||| y.m[k] | .mlxor => y.m[j] ^^^ y.m[k] | .mlandn => y.m[j] &&& ~~~y.m[k]) i.isLt)
        (y.pc + 4)) ∧
    (∀ i : Fin 8, rd.toNat = i.val →
      (∀ op : IntCmp, yields (.mceq a op rd rs1 rs2) (put i (cmpBits fun th => intCmp op (y.rx th rs1.toNat) (y.rx th rs2.toNat)) i.isLt) (y.pc + 4)) ∧
      (∀ (op : FloatCmp) (dbl : Bool),
        yields (.mfeq a op dbl rd rs1 rs2) (put i (cmpBits fun th => floatCmp op dbl (y.rf th rs1.toNat) (y.rf th rs2.toNat)) i.isLt) (y.pc + 4)) ∧
      (∀ th, y.active.getLast? = some th → yields (.mwr a rd rs1 0) (put i (y.rx th rs1.toNat) i.isLt) (y.pc + 4))) ∧
    (∀ j : Fin 8, rs1.toNat = j.val → ∃ e, exec (.mrd a rd rs1 0) ⟨d, q⟩ = .next ⟨e, q⟩ ∧ d.leftAlone e a ∧ d.wentOn e a (y.pc + 4) ∧
      d.setsReg e a false rd.toNat fun _ => y.m[j]) ∧
    (∀ (cond : BitVec 2) (mc : BitVec 3) (off : BitVec 16), cond ≠ 3#2 →
      let v := y.m[mc.toNat] &&& y.m[0]
      yields (.mbr a cond mc 0 off) y
        (if (cond = 0#2 ∧ v ≠ 0) ∨ (cond = 1#2 ∧ v = y.m[0]) ∨ (cond = 2#2 ∧ v = 0) then y.pc + off.signExtend 64 * 4 else y.pc + 4)) ∧
    (∀ (mc : BitVec 3) (off : BitVec 16), ends (.mbr a 3 mc 0 off) 1 (0x2A#6 ++ 3#2 ++ mc ++ 0#5 ++ off).toNat)

/-! ### The units of a tile (chapters 02 to 04, R148 to R156, R172, R173, R288, R295) -/

/-- R53, R58, R66, R67, R69, R70: a course command starts in order when what it needs is free, and ends with UNIT_ABSENT when its word is forbidden; the loader fills the shadow registers; a shadow exchanges with its live register. Loading is one event (log 22). -/
def Obligations.CourseCommandsStartLoadAndExchange : Prop :=
  ∀ (t : TileRef) (d : Dev) (q : List Instr),
    let x := d.tile t.key
    let yields (i : Instr) (y : Tile) : Prop := ∃ e, exec i ⟨d, q⟩ = .next ⟨e, q⟩ ∧ d.tileRan e t.key y
    d.unitReady t.key →
    (∀ c0 rest, x.cq = c0 :: rest → x.loaderBefore c0.seq = false → c0.seed = none →
      (courseDecode d.weld c0.word = none → yields (.courseCommandStart t) { x with cq := rest, fin := some ⟨0x30, 0, 0, 0, 0, 0, 0⟩ }) ∧
      ∀ c, courseDecode d.weld c0.word = some c → c.cmask ≠ 0 →
        (if c.load then (∀ i ∈ c.courses, (x.course i).shadow = .empty) ∧ ∀ p ∈ x.passes, p.loaded = true
          else (∀ i ∈ c.courses, ∀ l, (x.course i).ldr = some l → l.1 = c.fs ∧ l.2.1 = c.cls) ∧
            ∀ p ∈ x.passes, ∀ f, courseDecode d.weld p.word = some f → ∀ i ∈ c.courses, i ∈ f.courses → p.fedAt f i = true) →
          let tag := !(x.course (c.courses.headD 0)).tag
          yields (.courseCommandStart t)
            { x with
              cq := rest
              passes := x.passes ++ [c.begins x c0 tag]
              holds := x.holds ++ c.holds c0.seq
              courses := .ofFn fun (i : Fin 4) => if c.cmask.testBit i.val then { x.course i.val with tag := tag } else x.course i.val }) ∧
    (∀ p c, x.passes.find? (fun p => !p.loaded) = some p → courseDecode d.weld p.word = some c → (∀ i ∈ c.courses, (x.course i).shadow = .empty) →
      ∃ y, yields (.stationaryLoad t) y ∧ y.passes = updFirst (fun r => decide (r.seq = p.seq)) (fun r => { r with loaded := true }) x.passes ∧
        (∀ i < 4, ∃ s b, y.course i = { x.course i with sLoad := s, shadow := b, ldr := (y.course i).ldr }) ∧
        ∀ i ∈ c.courses, (y.course i).ldr = some (c.fs, c.cls, c.sbase) ∧
          (c.bond = 0 → (y.course i).shadow = .ready p.tag (readBlk c (x.course (c.courses.headD 0)).stat (x.course (c.courses.headD 0)).sLoad).1) ∧
          (c.bond ≠ 0 → ∃ s, (y.course i).shadow = .ready p.tag (readBlk c (x.course i).stat s).1)) ∧
    (∀ (k : Fin 4) tag b p,
      (x.course k.val).shadow = .ready tag b →
      x.passes.find? (fun p => p.loaded && !p.exch.testBit k.val &&
        (match courseDecode d.weld p.word with | some c => c.load && c.cmask.testBit k.val | none => false)) = some p →
      (∀ r ∈ x.passes, r.seq < p.seq → ∀ f, courseDecode d.weld r.word = some f → f.cmask.testBit k.val = true → r.fedAt f k.val = true) →
      yields (.shadowExchange t k)
        { x with
          courses := setV x.courses k.val { x.course k.val with live := some b, shadow := .empty }
          passes := updFirst (fun r => decide (r.seq = p.seq)) (fun r => { r with exch := setBit r.exch k.val }) x.passes })

/-- R55, R56, R104, R71, R82, R83: an admission writes each row output to the staging row of its vector; a commit whose checks pass moves the staging rows to the accumulators; one whose column checks fail strikes the pass again and leaves the accumulators; a passed self-test ends the command with PROOF_REPEAT. That one admission is one stroke is the model's choice (log 37). -/
def Obligations.CoursePassesAdmitCheckAndCommit : Prop :=
  ∀ (t : TileRef) (d : Dev) (q : List Instr),
    let x := d.tile t.key
    let yields (i : Instr) (y : Tile) : Prop := ∃ e, exec i ⟨d, q⟩ = .next ⟨e, q⟩ ∧ d.tileRan e t.key y
    d.unitReady t.key →
    (∀ (k : Fin 4) p c i g ec banks groups,
      x.passes.find? (fun p => match courseDecode d.weld p.word with | some c => c.cmask.testBit k.val && !p.fedAt c k.val | none => false) = some p →
      courseDecode d.weld p.word = some c → c.edgeAt k.val = some i → p.edges[i]? = some g → c.edges[i]? = some (ec, banks, groups) →
      (∀ r ∈ x.passes, r.seq = p.seq → r = p) →
      p.stuck = false → p.loaded = true → (c.load = true → ∀ j ∈ (if c.bond = 0 then [k.val] else c.courses), p.exch.testBit j = true) →
      c.ramp = 0 → g.t < c.len → (c.cls = 32 → g.half = true) →
      let v := nextVector c x ec banks g
      (admitVector c x groups { g with j := g.j + 1 } v.1 v.2.1 []).fails = 0 →
      ∃ y, yields (.vectorAdmission t k []) y ∧
        (∀ dest chain, (dest, chain) ∈ groups →
          SMap.get [] (y.course dest).staging ((c.accbase + g.t) % 512) = (List.range 8).map (rowOut c (lives x chain) v.1 v.2.1)) ∧
        (∀ j, (y.course j).acc = (x.course j).acc ∧ (y.course j).live = (x.course j).live ∧ (y.course j).shadow = (x.course j).shadow) ∧
        ∃ r h, y.passes.find? (fun r => decide (r.seq = p.seq)) = some r ∧ r.edges[i]? = some h ∧ h.t = g.t + 1) ∧
    (∀ p rest c, x.passes = p :: rest → courseDecode d.weld p.word = some c → p.stuck = false → p.fed c = true →
      let checks := (List.range c.edges.length).map fun i => columnChecks c (nthD (0, [], []) c.edges i).2.2 (nthD (Edge.init c 0) p.edges i)
      ((checks.map (·.2)).sum = 0 →
        ∃ y, yields (.commit t) y ∧ y.passes = rest ∧ y.fin = none ∧ y.restruck = x.restruck ∧ ∀ i < 4, ∀ r,
          SMap.get .zero (y.course i).acc r =
            if i ∈ (c.edges.map fun e => e.2.2.map (·.1)).flatten ∧ ∃ v < c.len, r = (c.accbase + v) % 512
            then commitRow (!c.isInt) c.acc (SMap.get .zero (x.course i).acc r) (SMap.get [] (x.course i).staging r)
            else SMap.get .zero (x.course i).acc r) ∧
      ((checks.map (·.2)).sum ≠ 0 → p.tries < 2 →
        ∃ y, yields (.commit t) y ∧ y.fin = none ∧ y.restruck = x.restruck + 1 ∧ (∀ i, (y.course i).acc = (x.course i).acc) ∧
          ∃ r tail, y.passes = r :: tail ∧ r.tries = p.tries + 1 ∧ r.edges = c.freshEdges ∧ r.loaded = !c.load ∧ r.exch = 0)) ∧
    ((∃ p ∈ x.passes, p.stuck = true) →
      yields (.courseProofSelfTest t true) { x with fin := some ⟨0x21, 6, 3, 0, 0, 0, 0⟩ } ∧
      exec (.courseProofSelfTest t false) ⟨d, q⟩ = .next ⟨d.withdrawUnit (.tile t), q⟩)

/-- R106 to R111, R116, R117, R120: CONVERT writes each output's code side by side from its destination, and a T block's scale byte; WFOLD adds to, WROUND rounds out and clears, WCLEAR clears the assembler rows. The readings of WFOLD and of WELD_BOUND with NONFIN are logs 31 and 32; a run past the store's end wraps (log 33). -/
def Obligations.ConvertersWriteTheirOutputs : Prop :=
  ∀ (t : TileRef) (k : Fin 4) (d : Dev) (q : List Instr) (c : QConv) (s : Nat → Word),
    let x := d.tile t.key
    let n := wf c.w0 50 42 + 1
    let row (r : Nat) : AccRow := x.accRow k.val (wf c.w0 59 51 + r)
    let key (i : Nat) : Nat := 8 * ((wf c.w0 41 36 + i / 8) % 64) + i % 8
    let yields (i : Instr) (y : Tile) : Prop := ∃ e, exec i ⟨d, q⟩ = .next ⟨e, q⟩ ∧ d.tileRan e t.key y
    let popped (y : Tile) : Prop :=
      y.vq = setV x.vq k.val ((nthV [] x.vq k.val).drop 1) ∧ y.fin = none ∧ (∀ j < 4, (y.course j).acc = (x.course j).acc) ∧
        (∀ j < 4, j ≠ k.val → y.course j = x.course j)
    let asm (y : Tile) (i : Nat) : Asm := SMap.get .clear (y.course k.val).asm i
    d.unitReady t.key → c.seed = none → s 0 = (x.course k.val).sConv →
    (∀ p, convReady x k.val 0 = some c → wf c.w0 3 0 = 0 → wf c.w1 19 0 = 0 → readPar x (64 * wf c.w1 63 51) = some p →
      convParHit 0 c = false → convHits 0 c (some p.ofmt) = false →
      (p.ofmt.isT = false →
        ∀ v : Nat → FV, (∀ i < 8 * n, convValue p (row (i / 8)).isF (nthD 0 (row (i / 8)).v (i % 8)) (8 * p.cbase + i % 8) = some (v i)) →
          (∀ i, s (i + 1) = (drawIf p.rmode (s i)).2) →
          ∃ y, yields (.convert t k) y ∧ popped y ∧ (y.course k.val).sConv = s (8 * n) ∧
            y.store = (List.range (8 * n)).foldl (fun m i =>
              SMap.putBits m storeSize (128 * wf c.w1 50 36 + i * p.ofmt.width) p.ofmt.width (p.ofmt.conv p.rmode (drawIf p.rmode (s i)).1 (v i)).1) x.store) ∧
      (p.ofmt.isT = true →
        ∀ v : Nat → Nat → FV, (∀ b < n, ∀ j < 32,
            let r := if wb c.w0 35 then x.accRow (j / 8) (wf c.w0 59 51 + b) else x.accRow k.val (wf c.w0 59 51 + b + (j / 8) * wf c.w0 34 26)
            convValue p r.isF (nthD 0 r.v (j % 8)) j = some (v b j)) →
          let blk (b : Nat) := tBlock p.ofmt p.rmode ((List.range 32).map (v b)) (s b)
          (∀ b, s (b + 1) = (blk b).2.2.2.2) →
          ∃ y, yields (.convert t k) y ∧ popped y ∧ (y.course k.val).sConv = s n ∧
            y.store = (List.range n).foldl (fun m b => (List.range 32).foldl (fun m j =>
                SMap.putBits m storeSize (128 * wf c.w1 50 36 + (32 * b + j) * p.ofmt.width) p.ofmt.width (nthD 0 (blk b).2.1 j))
              (SMap.put 0 m ((8 * wf c.w1 35 20 + b) % storeSize) (BitVec.ofNat 8 (blk b).1))) x.store)) ∧
    (convReady x k.val 1 = some c → weldOk d.weld c true = true → wf c.w1 29 0 = 0 → wf c.w0 25 23 ≠ 7 → wf c.w0 22 20 ≠ 7 → convHits 1 c none = false →
      ∃ y, yields (.wfold t k) y ∧ popped y ∧ y.store = x.store ∧ (∀ i, (∀ j < 8 * n, i ≠ key j) → asm y i = asm x i) ∧
        ∀ i < 8 * n,
          let a := asm x (key i)
          let ea := x.rd (4 * wf c.w1 63 47 + 4 * (i / 8)) 4
          let eb := x.rd (4 * wf c.w1 46 30 + 4 * (i % 8)) 4
          let v := (nthD 0 (row (i / 8)).v (i % 8)).toInt
          asm y (key i) =
            { tot := if expP ea ≠ 0 ∧ expP eb ≠ 0 then
                FV.add a.tot (.fin (decide (v < 0)) v.natAbs (8 * (12 - (wf c.w0 25 23 : Int) - (wf c.w0 22 20 : Int)) + expE ea + expE eb - 106)) else a.tot
              nonfin := a.nonfin || ea.testBit 30 || eb.testBit 30
              trunc := a.trunc || ea.testBit 31 || eb.testBit 31
              usage := if wf c.w0 19 14 = 0 ∧ wf c.w0 13 8 = 0 then max a.usage (expP ea + expP eb) else a.usage }) ∧
    (∀ p, convReady x k.val 2 = some c → weldOk d.weld c true = true → wf c.w1 19 0 = 0 → readPar x (64 * wf c.w1 63 51) = some p →
      (p.ofmt = .f32 ∨ p.ofmt = .f64) → convParHit 2 c = false → convHits 2 c (some p.ofmt) = false → (∀ i, s (i + 1) = (drawIf p.rmode (s i)).2) →
      let ff := if p.ofmt = .f32 then FF.f32 else FF.f64
      let bound (i : Nat) : Bool := !(asm x (key i)).nonfin && ((asm x (key i)).trunc || (wf c.w0 7 4 == 0xB && decide (8 < (asm x (key i)).usage)))
      ∃ y, yields (.wround t k) y ∧ popped y ∧ (y.course k.val).sConv = s (8 * n) ∧
        y.weldBound = (x.weldBound || (List.range (8 * n)).any bound) ∧
        (∀ i, asm y i = if ∃ j < 8 * n, i = key j then Asm.clear else asm x i) ∧
        y.store = (List.range (8 * n)).foldl (fun m i =>
          SMap.putBits m storeSize (128 * wf c.w1 50 36 + i * p.ofmt.width) p.ofmt.width
            (if (asm x (key i)).nonfin then ff.nanCode else if (asm x (key i)).tot.isZero then 0
             else ff.out p.rmode (drawIf p.rmode (s i)).1 false (asm x (key i)).tot)) x.store) ∧
    (convReady x k.val 3 = some c → weldOk d.weld c false = true →
      ∃ y, yields (.wclear t k) y ∧ popped y ∧ y.store = x.store ∧
        ∀ i, asm y i = if ∃ j < 8 * n, i = key j then Asm.clear else asm x i)

/-- R112, R113, R172: the splitter cuts the operand of a WSPLIT into digits; the loader copies the bytes of a BLD into the bank of every course of its mask, addresses wrapping at the bank's end, and a broken rule ends the command with UNIT_ABSENT. That they wait for earlier unit commands is the model's choice (log 23). -/
def Obligations.LoaderAndSplitterFillBanksAndDigits : Prop :=
  ∀ (t : TileRef) (d : Dev) (q : List Instr),
    let x := d.tile t.key
    let yields (i : Instr) (y : Tile) : Prop := ∃ e, exec i ⟨d, q⟩ = .next ⟨e, q⟩ ∧ d.tileRan e t.key y
    d.unitReady t.key →
    (∀ a s rest b, x.lq = .split a s :: rest → ({ x with lq := rest }).unitsBefore s = false → d.weld = true → a.toNat % 64 = 0 →
      a.toNat + 64 ≤ storeSize → readSplit x a.toNat = some b → creditHit a.toNat 64 = false → creditHit b.src (8 * b.r * b.ktot) = false →
      creditHit b.dig (7 * b.nw * b.r * b.ktot) = false → creditHit b.exp (4 * (b.ktot / b.kc) * b.nw * b.r) = false →
      yields (.weldSplitStart t)
        ((List.range (b.ktot / b.kc)).foldl (fun y c => (List.range b.r).foldl (fun y r => splitOne b c r y) y) { x with lq := rest })) ∧
    (∀ a s rest, x.lq = .split a s :: rest → ({ x with lq := rest }).unitsBefore s = false → creditHit a.toNat 64 = false →
      (d.weld = false ∨ a.toNat % 64 ≠ 0 ∨ storeSize < a.toNat + 64 ∨ readSplit x a.toNat = none) →
      yields (.weldSplitStart t) { x with lq := rest, fin := some ⟨0x30, 0, 0, 0, 0, 0, 0⟩ }) ∧
    (∀ src desc s rest, x.lq = .bld src desc s 0 :: rest → ({ x with lq := rest }).unitsBefore s = false →
      let len := wf desc 42 28 + 1
      let strm := wb desc 59
      let size := bankSize strm
      let at_ (j : Nat) : Nat := if wb desc 58 then ((src.toNat : Int) + j * sx 16 (wf desc 27 12)).toNat else src.toNat + j
      let bank (c : Course) : SMap Byte := if strm then c.strm else c.stat
      (bldOk src desc = true → wf desc 63 60 ≠ 0 → (∀ j < len, at_ j < 0x7FF00) → (∀ u, x.heldAt (wf desc 63 60) strm (wf desc 57 43 + 64 * u) (min 64 (len - 64 * u)) = false) →
        ∃ y, yields (.bankLoadStart t) y ∧ y = { x with lq := rest, courses := y.courses, ev := y.ev } ∧ ∀ i < 4,
          (y.course i = if strm then { x.course i with strm := (y.course i).strm } else { x.course i with stat := (y.course i).stat }) ∧
          ((wf desc 63 60).testBit i = false → y.course i = x.course i) ∧
          ((wf desc 63 60).testBit i = true →
            (∀ j < len, len ≤ j + size → SMap.get 0 (bank (y.course i)) ((wf desc 57 43 + j) % size) = SMap.get 0 x.store (at_ j)) ∧
            (∀ o, (∀ j < len, o ≠ (wf desc 57 43 + j) % size) → SMap.get 0 (bank (y.course i)) o = SMap.get 0 (bank (x.course i)) o))) ∧
      (bldOk src desc = false → yields (.bankLoadStart t) { x with lq := rest, fin := some ⟨0x30, 0, 0, 0, 0, 0, 0⟩ }) ∧
      (bldOk src desc = true → wf desc 63 60 = 0 → yields (.bankLoadStart t) { x with lq := rest }))

/-- R113: the seven balanced digits of a number below 2^54 in magnitude lie between −128 and 127 and give the number back, digit j with weight 256^(6 − j). -/
def Obligations.BalancedDigitsRebuildTheNumber : Prop :=
  ∀ a : Int, -(2 ^ 54) ≤ a → a ≤ 2 ^ 54 →
    (digits 7 a).length = 7 ∧ (∀ z ∈ digits 7 a, -128 ≤ z ∧ z ≤ 127) ∧
      ((List.range 7).map fun j => nthD 0 (digits 7 a) j * 256 ^ (6 - j)).sum = a

/-- R122, R125, R126, R143, R170: a legal Swage program starts, its elements pass its stages, and its sink is written with the last stage's elements converted to the sink's format; its completion writes the count word and the summary register; a forbidden program ends the command with UNIT_ABSENT. That a program waits for earlier unit commands is the model's choice (log 23). -/
def Obligations.SwageProgramsRun : Prop :=
  ∀ (t : TileRef) (d : Dev) (q : List Instr),
    let x := d.tile t.key
    let yields (i : Instr) (y : Tile) : Prop := ∃ e, exec i ⟨d, q⟩ = .next ⟨e, q⟩ ∧ d.tileRan e t.key y
    d.unitReady t.key →
    (∀ p0 rest, x.sq = p0 :: rest → x.srun = none → x.wideBusy = false → ({ x with sq := rest }).unitsBefore p0.seq = false →
      let lk := decide (d.var = .lk9220)
      creditHit p0.a.toNat 192 = false →
      (p0.a.toNat % 64 ≠ 0 ∨ storeSize < p0.a.toNat + 192 ∨ readProg lk x p0.a.toNat = none →
        yields (.swageProgramStart t) { x with sq := rest, fin := some ⟨0x30, 0, 0, 0, 0, 0, 0⟩ }) ∧
      (∀ p src sink, p0.a.toNat % 64 = 0 → p0.a.toNat + 192 ≤ storeSize → readProg lk x p0.a.toNat = some p → progHits p x = false →
        (p.stages.all fun s => decide (s.op < 0x28)) = true → p.lenind = false → p.cflag = false → p.sumsel = 0 → 0 < p.len →
        ((List.range 3).mapM fun i => if p.uses i then (strmOf (nthD 0 p.streams i)).map some else some none) = some src →
        strmOf (nthD 0 p.streams 3) = some sink →
        let env : SEnv := ⟨p.ct, src, p.imm, { x with sq := rest }⟩
        let last := (runStages env p.stages ((List.range p.len).map fun i => (if p.uses 0 then env.strmVal 0 i else FV.zero, true))).getLastD []
        ∃ y, yields (.swageProgramStart t) y ∧ last.length = p.len ∧ y.fin = none ∧
          y.srun = some ⟨p0, none, 0, BitVec.ofNat 64 (nthD 0 p.streams 3), p.len, none⟩ ∧ y.sq = rest ∧
          (let z := (List.range p.len).foldl (fun z i => sink.write i (sink.fmt.conv p.rmode 0 (nthD (FV.zero, true) last i).1).1 z) x
           y.store = z.store ∧ y.v = z.v))) ∧
    (∀ r, x.srun = some r →
      yields (.swageProgramComplete t)
        { (match r.count with | some (a, n) => x.wr a (bytesOf 4 n) | none => x) with
          srun := none, x := if r.prog.rd = 0 then x.x else SMap.put 0 x.x r.prog.rd r.summary })

/-! ### Threads, tasks and dispatch (R148 to R156, R173, R177, R288, R295, R348) -/

/-- R148, R149, R151, R154: a legal launch at the front of its queue begins; a block starts all its groups together with the registers of R149; a launch block that breaks a rule ends the command with UNIT_ABSENT. R156, R177: CBAR stops its group at the barrier; once every group of the block has arrived on every tile of the cluster the barrier lets them go on at the next instruction; GEND ends its group, and the launch with the last group of the last block. That launches of a tile run one at a time is the model's reading (log 43). -/
def Obligations.LaunchesRunTheirGroups : Prop :=
  (∀ (t : TileRef) (d : Dev) (q : List Instr),
     let x := d.tile t.key
     let yields (i : Instr) (y : Tile) : Prop := ∃ e, exec i ⟨d, q⟩ = .next ⟨e, q⟩ ∧ d.tileRan e t.key y
     d.unitReady t.key →
     (∀ p rest, x.tq = p :: rest → x.launch = none → (∀ g < 8, x.group g = none) → x.unitsBefore p.seq = false →
       (creditHit p.a.toNat 64 = false → readLaunch x p = none → yields (.threadLaunchStart t) { x with tq := rest, fin := some ⟨0x30, 0, 0, 0, 0, 0, 0⟩ }) ∧
       ∀ l, readLaunch x p = some l → creditHit p.a.toNat 64 = false →
         (l.wide = true → (∃ k, x.task = some k ∧ k.viaPf = true) ∧ x.srun = none ∧ x.sq = []) →
         (∀ j < 2 ^ l.cl, d.tileIn (tKey t.brick.val (t.tile.val / 2 ^ l.cl * 2 ^ l.cl + j)) = true) →
         yields (.threadLaunchStart t) { x with tq := rest, launch := some l }) ∧
     (∀ l (slot : Fin l.bsz → Nat), x.launch = some l → l.next < l.nblk →
       ((List.range (slots l.wide)).filter fun j => (x.group j).isNone).take l.bsz = List.ofFn slot →
       ∃ y, yields (.blockStart t) y ∧ y = { x with launch := some { l with next := l.next + 1 }, groups := y.groups } ∧
         (∀ j, (∀ n, slot n ≠ j) → y.group j = x.group j) ∧
         ∀ n : Fin l.bsz, ∃ g, y.group (slot n) = some g ∧ g.pc = l.pc ∧ g.blk = l.next ∧ g.idx = n.val ∧ g.wide = l.wide ∧ g.stack = [] ∧ g.bar = false ∧
           g.m0 = (if l.wide then 0xFFFFFFFF else BitVec.allOnes 64) ∧ (∀ j, 0 < j → j < 8 → g.mask j = 0) ∧ (∀ th r, g.rf th r = 0) ∧
           ∀ th < threads l.wide, g.rx th 1 = BitVec.ofNat 64 (n.val * threads l.wide + th) ∧ g.rx th 2 = BitVec.ofNat 64 l.next ∧ g.rx th 3 = l.arg ∧
             g.rx th 4 = BitVec.ofNat 64 (t.tile.val % 2 ^ l.cl) ∧ g.rx th 5 = BitVec.ofNat 64 t.tile.val ∧ g.rx th 6 = BitVec.ofNat 64 t.brick.val ∧
             ∀ r, 7 ≤ r → r < 32 → g.rx th r = 0)) ∧
  (∀ (t : TileRef) (g : Fin 8) (d : Dev) (q : List Instr),
     let a := Agent.group t g
     let x := d.tile t.key
     (d.executes a 4 [] →
       (∃ e, exec (.cbar a 0 0 0) ⟨d, q⟩ = .next ⟨e, q⟩ ∧ e = { d with tiles := e.tiles, cntQ := e.cntQ, cntP := e.cntP } ∧
         (∀ k, e.tile k = { d.tile k with groups := (e.tile k).groups }) ∧ e.grp t g = { d.grp t g with bar := true } ∧
         ∀ u j, ¬(u = t ∧ j = g) → e.grp u j = d.grp u j) ∧
       ∃ e, exec (.gend a 0 0 0) ⟨d, q⟩ = .next ⟨e, q⟩ ∧ e = { d with tiles := e.tiles, cntQ := e.cntQ, cntP := e.cntP } ∧
         (∀ k, k ≠ t.key → e.tile k = d.tile k) ∧ e.tile t.key = { x with groups := (e.tile t.key).groups, launch := (e.tile t.key).launch } ∧
         (e.tile t.key).group g.val = none ∧ (∀ j, j ≠ g.val → (e.tile t.key).group j = x.group j) ∧
         ∀ l, x.launch = some l →
           (l.nblk ≤ l.next → (∀ j < 8, j ≠ g.val → x.group j = none) → (e.tile t.key).launch = none) ∧
           (l.next < l.nblk ∨ (∃ j < 8, j ≠ g.val ∧ x.group j ≠ none) → (e.tile t.key).launch = some l)) ∧
     (∀ l b, d.live = true → x.launch = some l →
       let bs := x.groups.toList.filterMap fun g => match g with | some g => if g.bar then some g.blk else none | none => none
       let arrived (b : Nat) : Bool := (clusterOf t.key l.cl).all (d.blockAtBar (x.task.map (·.cmd)) l b)
       b ∈ bs → arrived b = true → (∀ c ∈ bs, c < b → arrived c = false) →
       ∃ e, exec (.cbarComplete t) ⟨d, q⟩ = .next ⟨e, q⟩ ∧ e = { d with tiles := e.tiles } ∧
         ∀ k, e.tile k = if k ∈ clusterOf t.key l.cl then
             { d.tile k with groups := (d.tile k).groups.map fun o => o.map fun h =>
                 if h.blk = b ∧ h.bar = true then ({ h with bar := false }).goto (h.pc + 4) else h }
           else d.tile k))

/-- R288, R295: a dispatch message that arrives at its brick in the epoch it was sent in makes its task ready, and any other goes to the slag queue; the arbiter starts the ready task of an idle tile with the state of R173, keeping the tile's stores, banks and accumulators. R159, R173, R348: when KEND's task is done the tile is idle and keeps its stores and banks; the KERNEL command completes with its last task, with status OK, or OK_RESTRUCK where a pass of a task was struck again. Where it says that nothing changes because the event cannot happen then, that is the model's choice (log 13). -/
def Obligations.TasksArriveBeginAndEnd : Prop :=
  (∀ (t : TileRef) (d : Dev) (q : List Instr),
     d.live = true →
     (∀ m, d.tongs.inflight.find? (fun m => m.brick == t.brick.val && (match m.load with | .task _ => m.tile == t.tile.val | .span .. => true)) = some m →
       let good := ∃ p, d.phys m.brick = some p ∧ d.brickIn m.brick = true ∧ (d.brick p).epoch = m.epoch ∧ (d.brick p).pstate = 0
       (∀ k, m.load = .task k → good →
         exec (.dispatchArrival t) ⟨d, q⟩ = .next ⟨{ d with tongs := { d.tongs with
           inflight := d.tongs.inflight.erase m
           ready := SMap.upd [] d.tongs.ready (tKey m.brick m.tile) fun l => l ++ [k] } }, q⟩) ∧
       (¬good → d.tongs.slag.length < 512 →
         ∃ e, exec (.dispatchArrival t) ⟨d, q⟩ = .next ⟨e, q⟩ ∧ e.tongs = { d.tongs with inflight := d.tongs.inflight.erase m, slag := d.tongs.slag ++ [m] } ∧
           (e.serving m.part).slagcnt = min ((d.serving m.part).slagcnt + 1) 65535) ∧
       (¬good → 512 ≤ d.tongs.slag.length → exec (.dispatchArrival t) ⟨d, q⟩ = .next ⟨d, q⟩)) ∧
     (∀ x rest, SMap.get [] d.tongs.ready t.key = x :: rest → (d.tile t.key).task = none → d.tileIn t.key = true → d.markedCmd x.cmd = false →
       (∀ c, d.cmd x.cmd = some c → d.snapHeld c = false) → (d.part x.part).d.tren = false →
       ∃ e, exec (.arbiterGrant t) ⟨d, q⟩ = .next ⟨e, q⟩ ∧
         e = { d with tongs := e.tongs, tiles := e.tiles, cmds := e.cmds, parts := e.parts, cntQ := e.cntQ, cntP := e.cntP } ∧
         e.tongs = { d.tongs with ready := SMap.put [] d.tongs.ready t.key rest } ∧ (∀ k, k ≠ t.key → e.tile k = d.tile k) ∧
         (let y := e.tile t.key
          let z := d.tile t.key
          y.task = some x ∧ y.fin = none ∧ y.pc = x.pc ∧ y.seed = x.seed ∧ y.store = z.store ∧ y.f = [] ∧ y.v = [] ∧ y.cq = [] ∧ y.passes = [] ∧
            y.lq = [] ∧ y.sq = [] ∧ y.tq = [] ∧ y.launch = none ∧ (∀ j, y.group j = none) ∧ y.weldBound = false ∧
            y.rx 1 = BitVec.ofNat 64 t.tile.val ∧ y.rx 2 = BitVec.ofNat 64 t.brick.val ∧ y.rx 3 = x.arg ∧ y.rx 4 = BitVec.ofNat 64 x.part ∧
            (∀ r, 5 ≤ r → y.rx r = 0) ∧
            ∀ i < 4, y.course i = { z.course i with
              live := none, shadow := .empty, ldr := none, sEdge := streamInit x.seed (3 * i), sLoad := streamInit x.seed (3 * i + 1),
              sConv := streamInit x.seed (3 * i + 2) }) ∧
         ∀ c, d.cmd x.cmd = some c → ∃ c', e.cmd x.cmd = some c' ∧ c'.tasks = c.tasks.map fun y => if y.task = x ∧ y.tile = t.key ∧ y.phase = 0 then { y with phase := 1 } else y)) ∧
  (∀ (t : TileRef) (d : Dev) (q : List Instr) (x : Task) (c : Cmd),
     let y := d.tile t.key
     d.live = true → y.task = some x → y.fin = none → d.kendDone t.key = true → d.cmd x.cmd = some c → c.op = 1 → c.open_ = true → c.placed = true →
     c.status = 0 → c.marked = false → c.restruck = 0 → (∀ r ∈ c.tasks, r.tile = t.key → r.phase = 1) → (∀ r ∈ c.tasks, r.tile ≠ t.key → r.phase = 2 → r.status = 0) →
       ∃ e c', exec (.taskEnd t) ⟨d, q⟩ = .next ⟨e, q⟩ ∧ e.cmd x.cmd = some c' ∧
         (∀ k, k ≠ t.key → e.tile k = d.tile k) ∧ (e.tile t.key).task = none ∧ (e.tile t.key).store = y.store ∧ (e.tile t.key).groups = .replicate 8 none ∧
         (∀ i < 4, ((e.tile t.key).course i).stat = (y.course i).stat ∧ ((e.tile t.key).course i).strm = (y.course i).strm ∧
           ((e.tile t.key).course i).acc = (y.course i).acc) ∧
         (let st := if y.restruck ≠ 0 then 1 else 0
          c'.tasks = c.tasks.map (fun r => if r.tile = t.key then { r with phase := 2, status := st, wbound := y.weldBound } else r) ∧
          ((∃ r ∈ c.tasks, r.tile ≠ t.key ∧ r.phase ≠ 2) → c'.phase = c.phase) ∧
          ((∀ r ∈ c.tasks, r.tile ≠ t.key → r.phase = 2) → (∃ r ∈ c.tasks, r.tile = t.key) → c'.phase = .done ∧ c'.status = st)))

/-! ### Commands of the queues (chapters 07, 10, 11, 15) -/

/-- R294, R295, R341, R346, R464, R466: KERNEL and FENCE start, NOP and MARK start and complete, a FENCE completes at its next event, a DUMP is armed, a CANCEL marks its targets and completes once they have; a command whose mark was set before it started completes with CANCELLED_BEFORE_DISPATCH. R346: a SIGNAL performs its operation on the 8 bytes at its address, sets the EVENT bit of each core it names, and completes; a WAIT, when it starts and at each later read, completes where the value it reads meets its condition and goes on waiting otherwise. That a SIGNAL's or WAIT's poll is one command event, and that nothing changes while a CANCEL waits, are the model's choices (logs 13 and 15). -/
def Obligations.QueueCommandsStartAndComplete : Prop :=
  (∀ (r : CmdRef) (c : Cmd) (d : Dev) (q : List Instr),
     let ok (i : Instr) (st : Nat) : Prop := ∃ e, exec i ⟨d, q⟩ = .next ⟨e, q⟩ ∧ d.ends e r st ∧ e.tiles = d.tiles ∧ e.cores = d.cores
     (d.starts r 1 c → ∃ e, exec (.kernel r) ⟨d, q⟩ = .next ⟨e, q⟩ ∧ e = { d with cmds := e.cmds, hang := e.hang } ∧ e.cmd r = some { c with phase := .running }) ∧
     (d.starts r 0x1A c → ∃ e, exec (.fenceCmd r) ⟨d, q⟩ = .next ⟨e, q⟩ ∧ e = { d with cmds := e.cmds, hang := e.hang } ∧ e.cmd r = some { c with phase := .running }) ∧
     (d.underWay r 0x1A c → ok (.fenceCmd r) 0) ∧
     (d.starts r 0x3F c → ok (.nop r) 0) ∧
     (d.starts r 0x21 c → ok (.mark r) 0 ∧ (d.st.hang = false → 2 ≤ d.st.ringdepth → ∃ e h, exec (.mark r) ⟨d, q⟩ = .next ⟨e, q⟩ ∧
       h ∈ SMap.get [] e.hang r.hunit ∧ h.code = 0x0C ∧ h.detail = c.w 0x20 ∧ h.time = d.time)) ∧
     (d.starts r 0x20 c →
       let armed := (d.cmds.filter fun x => x.part = c.part ∧ (x.phase = .armed ∨ x.phase = .fired)).length
       (d.st.dumpen c.part = true → d.pkg.level < 3 → armed < 16 →
         ∃ e, exec (.dump r) ⟨d, q⟩ = .next ⟨e, q⟩ ∧ e.cmd r = some { c with phase := .armed } ∧ e = { d with cmds := e.cmds, hang := e.hang }) ∧
       (d.st.dumpen c.part = false → ok (.dump r) 0x11) ∧ (d.st.dumpen c.part = true → (3 ≤ d.pkg.level ∨ 16 ≤ armed) → ok (.dump r) 0x32)) ∧
     (d.starts r 0x1B c →
       (c.f 0x20 6 6 = 1 → c.viaPf = false → ok (.cancel r) 0x11) ∧
       ((c.f 0x20 6 6 = 0 ∨ c.viaPf = true) →
         let ts := (d.begun r c).cancelTargets { c with phase := .running }
         (ts = [] → ok (.cancel r) 0x30) ∧
         (ts ≠ [] → ∃ e, exec (.cancel r) ⟨d, q⟩ = .next ⟨e, q⟩ ∧ e = { d with cmds := e.cmds, hang := e.hang } ∧
           (∃ c', e.cmd r = some c' ∧ c'.phase = .running ∧ c'.hold = ts) ∧
           (∀ u x, u ∈ ts → d.cmd u = some x → x.open_ = true → u ≠ r → e.cmd u = some { x with marked := true }) ∧
           ∀ u, u ∉ ts → u ≠ r → e.cmd u = d.cmd u))) ∧
     (d.underWay r 0x1B c → ((∀ u ∈ c.hold, ∀ x, d.cmd u = some x → x.open_ = false ∨ x.marked = false) → ok (.cancel r) 0) ∧
       ((∃ u ∈ c.hold, ∃ x, d.cmd u = some x ∧ x.open_ = true ∧ x.marked = true) → exec (.cancel r) ⟨d, q⟩ = .next ⟨d, q⟩)) ∧
     (d.cmd r = some c → d.canStart c = true → c.marked = true →
       (c.op = 1 → ok (.kernel r) 2) ∧ (c.op = 2 → ok (.moveCmd r) 2) ∧ (c.op = 3 → ok (.copyIn r) 2) ∧ (c.op = 4 → ok (.copyOut r) 2) ∧
       (c.op = 8 → ok (.prefetch r) 2) ∧ (c.op = 9 → ok (.advise r) 2) ∧ (c.op = 0x0A → ok (.resume r) 2) ∧ (c.op = 0x18 → ok (.signal r) 2) ∧
       (c.op = 0x19 → ok (.waitCmd r) 2) ∧ (c.op = 0x1A → ok (.fenceCmd r) 2) ∧ (c.op = 0x1B → ok (.cancel r) 2) ∧ (c.op = 0x20 → ok (.dump r) 2) ∧
       (c.op = 0x21 → ok (.mark r) 2) ∧ (c.op = 0x30 → ok (.barrier r) 2) ∧ (c.op = 0x3F → ok (.nop r) 2))) ∧
  (∀ (r : CmdRef) (c : Cmd) (d d1 : Dev) (x : Acc) (q : List Instr),
     let p : Req := ⟨portXfer, c.part, c.acct⟩
     (d.awaits fun w => w = .sync r) = false → x.here = true → d1.badIn [(x, 8)] = none →
     (∀ i, ((d.starts r 0x19 c ∧ i = .waitCmd r ∧
           ((d.begun r c).setCmd r fun c => { c with polled := d.now }).accE c.part (c.f 0x20 63 0) 8 false c.acct = (d1, x)) ∨
         (d.underWay r 0x19 c ∧ i = .waitPoll r ∧
           (d.setCmd r fun c => { c with polled := d.now }).accE c.part (c.f 0x20 63 0) 8 false c.acct = (d1, x))) →
       let v := d1.farAmo p x 8 (fun _ => none) none
       let want := c.f 0x28 63 0
       let met := (c.f 0x30 1 0 = 0 ∧ want ≤ v.2) ∨ (c.f 0x30 1 0 = 1 ∧ v.2 = want) ∨ (2 ≤ c.f 0x30 1 0 ∧ v.2 ≠ want)
       (met → exec i ⟨d, q⟩ = .next ⟨v.1.complete r 0, q⟩) ∧ (¬met → exec i ⟨d, q⟩ = .next ⟨v.1, q⟩)) ∧
     (d.starts r 0x18 c → (∀ i ∈ c.signalCores, d.coreOwner i = c.part) →
       (c.f 0x30 1 0 = 2 → (d.begun r c).accE c.part (c.f 0x20 63 0) 8 false c.acct = (d1, x)) →
       (c.f 0x30 1 0 ≠ 2 → (d.begun r c).accAmo c.part (c.f 0x20 63 0) c.acct = (d1, x) ∧ d1.refusedBy [(x, 8)] = none) →
       let val := c.f 0x28 63 0
       let v := d1.farAmo p x 8 (fun old => if c.f 0x30 1 0 = 0 then some val else if c.f 0x30 1 0 = 1 then some ((old + val) % 2 ^ 64) else none) none
       v.1.cmd r = some { c with phase := .running } →
       let z := c.signalCores.foldl (fun (d : Dev) i => d.setCore i fun k => { k with ipend := setBit k.ipend 2 }) v.1
       exec (.signal r) ⟨d, q⟩ = .next ⟨(z.complete r 0).pollAll c.part, q⟩ ∧
         ∀ i < 128, ((c.f 0x38 63 0 + 2 ^ 64 * c.f 0x40 63 0).testBit i = true → (z.core i).ipend.testBit 2 = true) ∧
           ((c.f 0x38 63 0 + 2 ^ 64 * c.f 0x40 63 0).testBit i = false → z.core i = v.1.core i)))

/-- R247 to R250, R345: the next row of a MOVE, COPY_IN or COPY_OUT that translates whole reads its source runs and writes their bytes over its destination runs, and the row waits to be delivered. R249, R253, R254: rows are delivered in order, and the last one completes the transfer; a parked MOVE ends with TRANSLATION_FAULT when its time is over; a RESUME that names it lets it go on or ends it, and one that names none is UNIT_ABSENT. That each command of the row moves one row is the model's choice (log 15); where it says that nothing changes because the event cannot happen then, that is the model's choice (log 13). -/
def Obligations.TransfersMoveAndDeliverRows : Prop :=
  (∀ (r : CmdRef) (c : Cmd) (d d0 d1 d2 : Dev) (src dst : List (Acc × Nat)) (q : List Instr) (i : Instr) (op : Nat),
     let row := c.move.next
     let d0' := if c.phase = .waiting then d0.ring 2 0 0x02 (some { c with phase := .running }) 0 else d0
     ((op = 2 ∧ i = .moveCmd r) ∨ (op = 3 ∧ i = .copyIn r) ∨ (op = 4 ∧ i = .copyOut r)) →
     d.goesOn r op c d0 → d.snapHeld c = false → c.move.stop = none → c.move.parked = none → row < c.rows → c.move.bufs = [] → c.move.marks = [] →
     c.dkind = false → c.rowCount = false →
     Dev.accRange c.part false c.acct ((c.rowRuns row).flatMap fun x => pieces x.1 x.2) d0' = (d1, .ok src) →
     Dev.accRange c.part true c.acct (pieces (c.rowVa true row) c.rowLen) d1 = (d2, .ok dst) →
     copyOk op false src = true → copyOk op true dst = true → c.gatherOk row src = true →
     (∀ x ∈ src, x.1.plain x.2 = true) → (∀ x ∈ dst, x.1.plain x.2 = true) →
     (∀ x ∈ src, ∀ y ∈ dst, ∀ k m, accKey x.1 = some k → accKey y.1 = some m → runCap m y.2 k x.2 = none) →
     d2.badIn src = none → (∀ w ∈ d2.fab.waits, w.who.cmd ≠ some r) →
     let f := Dev.fetch (d2.xferReq c) src d2
     let bs := if c.smode = 2 then transpose c.swBits f.2 else f.2
     f.1.refusedBy dst = none → f.1.badEdges dst = none →
     ∃ e c' d3, exec i ⟨d, q⟩ = .next ⟨e, q⟩ ∧ d3 = { f.1 with cmds := d3.cmds } ∧
       e = { Dev.store (d2.xferReq c) dst bs d3 with cmds := e.cmds, cntQ := e.cntQ, cntP := e.cntP } ∧
       e.cmd r = some c' ∧ c'.phase = .running ∧ c'.move.next = row + 1 ∧ c'.move.delivered = c.move.delivered ∧ c'.move.bufs = [] ∧
       c'.move.wrote = c.move.wrote ++ [(row, none)]) ∧
  (∀ (r : CmdRef) (c : Cmd) (d : Dev) (q : List Instr),
     let m := c.move
     (d.cmd r = some c → c.phase = .running → c.isMove = true → d.live = true → (d.awaits fun w => w = .sync r) = false → m.parked = none →
       (∀ ctr, m.wrote.find? (fun e => e.1 = m.delivered) = some (m.delivered, ctr) →
         (ctr = none ∨ ∃ a, ctr = some (.loc a) ∧ plainMem a 8 = true ∧ d.badIn [(.loc a, 8)] = none ∧ d.refusedBy [(.loc a, 8)] = none) →
         ∃ e c', exec (.rowDelivered r) ⟨d, q⟩ = .next ⟨e, q⟩ ∧ e.cmd r = some c' ∧ c'.move.delivered = m.delivered + 1 ∧
           (m.delivered + 1 = m.next → m.next = c.rows → m.stop = none → d.ends e r (if c.restruck ≠ 0 then 1 else 0)) ∧
           (∀ st, m.delivered + 1 = m.next → m.stop = some st → d.ends e r st) ∧
           (m.delivered + 1 ≠ m.next → c'.phase = .running ∧ c'.move.wrote = m.wrote.filter fun e => e.1 ≠ m.delivered) ∧
           (ctr = none → e.mem = d.mem ∧ e.tiles = d.tiles) ∧
           ∀ a, ctr = some (.loc a) →
             let v := d.farAmo (d.xferReq c) (.loc a) 8 (fun v => some ((v + 1) % 2 ^ 64)) none
             e.mem = v.1.mem ∧ e.tiles = v.1.tiles)) ∧
     (∀ t, d.cmd r = some c → c.phase = .running → c.isMove = true → d.live = true → (d.awaits fun w => w = .sync r) = false → m.parked = some t →
       (t ≤ d.now → m.delivered = m.next → ∃ e, exec (.parkTimeout r) ⟨d, q⟩ = .next ⟨e, q⟩ ∧ d.ends e r 0x10) ∧
       (d.now < t → exec (.parkTimeout r) ⟨d, q⟩ = .next ⟨d, q⟩)) ∧
     (d.starts r 0x0A c →
       let hit (x : Cmd) : Prop := x.move.parked.isSome = true ∧ x.open_ = true ∧ x.part = c.part ∧ x.viaPf = decide (c.f 0x20 6 6 = 1) ∧
         x.ref.q.val = c.f 0x20 5 0 ∧ x.ref.slot.toNat = c.f 0x20 31 16 ∧ x.move.fgen = c.f 0x20 47 32
       (c.f 0x20 6 6 = 1 → c.viaPf = false → ∃ e, exec (.resume r) ⟨d, q⟩ = .next ⟨e, q⟩ ∧ d.ends e r 0x11) ∧
       ((c.f 0x20 6 6 = 0 ∨ c.viaPf = true) →
         (¬hit c → (∀ x ∈ d.cmds, ¬hit x) → ∃ e, exec (.resume r) ⟨d, q⟩ = .next ⟨e, q⟩ ∧ d.ends e r 0x30) ∧
         ∀ x, d.cmd x.ref = some x → x.ref ≠ r → hit x → (∀ y ∈ d.cmds, hit y → y = x) → x.isMove = true → x.phase = .running → x.move.stop = none →
           x.move.next < x.rows → (d.awaits fun w => w = .sync x.ref) = false →
           ∃ e, exec (.resume r) ⟨d, q⟩ = .next ⟨e, q⟩ ∧ (∃ c', e.cmd r = some c' ∧ c'.phase = .done ∧ c'.status = 0) ∧ ∃ x', e.cmd x.ref = some x' ∧
             x'.move.parked = none ∧
             (c.f 0x20 48 48 = 0 → x'.phase = .running ∧ x'.move = { x.move with parked := none }) ∧
             (c.f 0x20 48 48 = 1 → x.move.delivered = x.move.next → x'.phase = .done ∧ x'.status = 0x10))))

/-- R255 to R260: a FILL within a page writes its pattern, phased by the address, and completes; a PREFETCH moves a page when its list gives another frame, passes one that is in place, and completes after its last page; an ADVISE acts on its lines or pages and completes. That each command of the row fills one page or moves one page is the model's choice (log 15). -/
def Obligations.FillPrefetchAndAdviseComplete : Prop :=
  ∀ (r : CmdRef) (c : Cmd) (d d0 d1 : Dev) (q : List Instr),
    let ok := if c.restruck ≠ 0 then 1 else 0
    (∀ n x, d.starts r 5 c → d.snapHeld c = false → c.f 0x28 39 0 = n → 0 < n → pieces (c.f 0x20 63 0) n = [(c.f 0x20 63 0, n)] →
      (d.accE c.part (c.f 0x20 63 0) n true c.acct).2 ≠ .wait → (d.awaits fun w => w = .sync r) = false →
      (d.begun r c).accE c.part (c.f 0x20 63 0) n true c.acct = (d1, x) → x.plain n = true → d1.refusedBy [(x, n)] = none →
      let bs := (List.range n).map fun i => BitVec.ofNat 8 (c.f 0x30 63 0 / 2 ^ (8 * ((c.f 0x20 63 0 + i) % 8)))
      let w := Dev.store ⟨portXfer, c.part, c.acct⟩ [(x, n)] bs d1
      ∃ e, exec (.fill r) ⟨d, q⟩ = .next ⟨e, q⟩ ∧ d.ends e r ok ∧ e.mem = w.mem ∧ e.tiles = w.tiles) ∧
    (d.starts r 8 c → c.viaPf = false → ∃ e, exec (.prefetch r) ⟨d, q⟩ = .next ⟨e, q⟩ ∧ d.ends e r 0x11 ∧ e.mem = d.mem) ∧
    (d.goesOn r 8 c d0 → c.viaPf = true → d.snapHeld c = false →
      let j := c.polled
      let va := c.f 0x20 63 0 + j * 2 ^ 21
      let la := c.f 0x30 63 0 + 8 * j
      let n := c.f 0x28 36 32
      let rd := d0.read ⟨portXfer, 32, c.acct⟩ la 8
      let pa := leNat rd.2
      (c.f 0x28 31 0 ≤ j → ∃ e, exec (.prefetch r) ⟨d, q⟩ = .next ⟨e, q⟩ ∧ d.ends e r ok ∧ e.mem = d.mem) ∧
      (∀ at_ w, j < c.f 0x28 31 0 → d0.inCarve la 8 = true → d0.bad la 8 = none → rd.1.leaf n va = .ok (at_, w, 1) → wb w 9 = false →
        (wf w 63 12 * 4096 = pa → exec (.prefetch r) ⟨d, q⟩ = .next ⟨rd.1.setCmd r fun c => { c with polled := j + 1 }, q⟩) ∧
        (∀ old new, wf w 63 12 * 4096 ≠ pa → rd.1.frameAcc n pa false = some (.loc new) → rd.1.oldFrame n w = some (.loc old) →
          rd.1.lit new = true → rd.1.lit old = true → rd.1.frameBusy n old = false → rd.1.badIn [(.loc old, 2 ^ 21)] = none →
          exec (.prefetch r) ⟨d, q⟩ =
            .next ⟨((rd.1.count c.acct 41 32768).movePage ⟨portXfer, n, c.acct⟩ n va at_ w (.loc old) (.loc new) pa).setCmd r fun c => { c with polled := j + 1 }, q⟩))) ∧
    (d.starts r 9 c →
      (∃ e, exec (.advise r) ⟨d, q⟩ = .next ⟨e, q⟩ ∧ d.ends e r 0 ∧ e.tiles = d.tiles ∧ e.cores = d.cores) ∧
      ∀ n pa w, pieces (c.f 0x20 63 0) (c.f 0x28 39 0) = [(c.f 0x20 63 0, n)] → (d.begun r c).xlateE c.part (c.f 0x20 63 0) c.acct = (d1, .ok pa w) →
        d1.here (pa / 2 ^ 48) = true → inTier (pa % 2 ^ 48) = true → d1.grant c.part (pa % 2 ^ 48) n = true →
        ∃ e, exec (.advise r) ⟨d, q⟩ = .next ⟨e, q⟩ ∧
          (c.f 0x30 3 0 = 0 → e.mem = (linesOf (pa % 2 ^ 48) n).foldl (fun m l => m.lock l c.part c.part (d.st.lockq c.part)) d1.mem) ∧
          (c.f 0x30 3 0 = 1 → e.mem = d1.mem.unlock fun h => (linesOf (pa % 2 ^ 48) n).contains h.line && decide (h.locked = some c.part)) ∧
          (c.f 0x30 3 0 = 2 → e.mem = d1.mem.hClean fun h => (linesOf (pa % 2 ^ 48) n).contains h.line && h.locked.isNone) ∧
          (3 ≤ c.f 0x30 3 0 → wb w 9 = true → e.mem = d1.mem ∧ SMap.get 0 (e.serving c.part).prefs (c.f 0x20 63 0 / 2 ^ 21) =
            if c.f 0x30 3 0 = 3 then 1 else if c.f 0x30 3 0 = 4 then 2 else 0))


/-- R373, R375, R376, R377: a BARRIER within the package opens its context and waits, completes at once when it is the only arrival, completes every arrival when it is the last, and is UNIT_ABSENT when it differs from the open context; a SNAPSHOT holds its partition, drains, arrives, copies its regions and releases the hold. What a snapshot's drain leaves out is the model's reading (log 77); where it says that nothing changes because the event cannot happen then, that is the model's choice (log 13). -/
def Obligations.BarriersAndSnapshotsMeet : Prop :=
  ∀ (r : CmdRef) (c : Cmd) (d : Dev) (q : List Instr),
    let a := c.arrival (d.st.jobtag c.part)
    let here := fun (x : BCtx) => x.level == 0 && x.tag == a.tag && x.barid == a.barid
    let fresh := d.fab.ctxs.find? here = none ∧ d.fab.ctxs.length < 256 ∧
      ∀ g, d.fab.gens.find? (fun g => g.level == 0 && g.tag == a.tag && g.barid == a.barid) = some g → (g.gen + 1) % 65536 = a.gen
    a.scope = 0 → d.fab.barWait = [] → d.fab.barPkt = [] →
    (d.starts r 0x30 c →
      (fresh → 2 ≤ a.nlocal → ∃ e x, exec (.barrier r) ⟨d, q⟩ = .next ⟨e, q⟩ ∧ e.cmd r = some { c with phase := .arrived } ∧
        e.fab.ctxs = d.fab.ctxs ++ [x] ∧ x.cmds = [r] ∧ x.got = 1 ∧ x.need = a.nlocal ∧ x.gen = a.gen ∧ x.barid = a.barid ∧ x.tag = a.tag) ∧
      (fresh → a.nlocal = 1 → a.blen = 0 →
        ∃ e, exec (.barrier r) ⟨d, q⟩ = .next ⟨e, q⟩ ∧ d.ends e r 0 ∧ e.fab.ctxs = d.fab.ctxs ∧
          ∃ g, e.fab.gens.head? = some g ∧ g.level = 0 ∧ g.tag = a.tag ∧ g.barid = a.barid ∧ g.gen = a.gen) ∧
      (∀ x, d.fab.ctxs.find? here = some x → x.gen = a.gen → x.fits a = true → x.sent = false →
        (x.got + 1 < x.need → ∃ e, exec (.barrier r) ⟨d, q⟩ = .next ⟨e, q⟩ ∧ e.cmd r = some { c with phase := .arrived } ∧
          ∃ y, e.fab.ctxs.find? here = some y ∧ y.got = x.got + 1 ∧ y.cmds = x.cmds ++ [r] ∧ y.need = x.need) ∧
        (x.got + 1 = x.need → x.blen = 0 → (∀ u ∈ x.cmds, ∃ z, d.cmd u = some z ∧ z.phase = .arrived ∧ z.op = 0x30) →
          ∃ e, exec (.barrier r) ⟨d, q⟩ = .next ⟨e, q⟩ ∧ ∀ u ∈ x.cmds ++ [r], ∃ z, e.cmd u = some z ∧ z.phase = .done ∧ z.status = 0)) ∧
      (∀ x, d.fab.ctxs.find? here = some x → ((x.gen = a.gen ∧ x.fits a = false) ∨ (x.gen ≠ a.gen ∧ (x.gen + 1) % 65536 ≠ a.gen)) →
        ∃ e, exec (.barrier r) ⟨d, q⟩ = .next ⟨e, q⟩ ∧ d.ends e r 0x30)) ∧
    (d.fab.ingress = [] → d.fab.held = [] →
      (d.starts r 0x31 c → ((d.part c.part).snap = none ∨ (d.part c.part).snap = some r) →
        ∃ e, exec (.snapshot r) ⟨d, q⟩ = .next ⟨e, q⟩ ∧ e.cmd r = some { c with phase := .draining } ∧ (e.part c.part).snap = some r ∧
          e = { d with cmds := e.cmds, parts := e.parts, hang := e.hang }) ∧
      (d.cmd r = some c → c.op = 0x31 → c.phase = .draining → d.live = true → d.drained c.part = true → fresh → a.nlocal = 1 →
        ∃ e, exec (.snapshotDrainComplete r) ⟨d, q⟩ = .next ⟨e, q⟩ ∧ e.cmd r = some { c with phase := .copying } ∧ e.fab.ctxs = d.fab.ctxs) ∧
      (d.cmd r = some c → c.op = 0x31 → c.phase = .draining → d.drained c.part = false → exec (.snapshotDrainComplete r) ⟨d, q⟩ = .next ⟨d, q⟩) ∧
      (d.cmd r = some c → c.op = 0x31 → c.phase = .copying → d.live = true → c.move.delivered = c.move.next → c.move.stop = none →
        (c.f 0x38 12 0 ≤ c.move.next → ∃ e, exec (.snapshot r) ⟨d, q⟩ = .next ⟨e, q⟩ ∧ d.ends e r 0 ∧ (e.part c.part).snap = none) ∧
        (∀ d1 l, c.move.next < c.f 0x38 12 0 →
          Dev.accRange c.part false c.acct (pieces (c.f 0x30 63 0 + 32 * c.move.next) 32) d = (d1, .ok l) → (∀ x ∈ l, x.1.here = true) → d1.badIn l = none →
          let f := Dev.fetch ⟨portXfer, c.part, c.acct⟩ l d1
          let src := bfld f.2 0 63 0
          let len := bfld f.2 16 39 0
          0 < len → exec (.snapshot r) ⟨d, q⟩ = .next ⟨(f.1.startRowAt c [(src, len)] src (bfld f.2 8 63 0) len).fabRetry, q⟩)))

/-- R294, R295, R465, R466: a mark that reaches a tile stops the task there, which ends with CANCELLED_IN_FLIGHT; one that reaches a command that has not started ends it with CANCELLED_BEFORE_DISPATCH, and one under way with CANCELLED_IN_FLIGHT; a fired DUMP copies its range, or ends with AGAIN at shed level 3. The status of a cancelled WAIT, MOVE and DUMP is the model's reading (log 69), and that a DUMP copies in one row is log 76; where it says that nothing changes because the event cannot happen then, that is the model's choice (log 13). -/
def Obligations.CancelsArriveAndDumpsFire : Prop :=
  ∀ (r : CmdRef) (c : Cmd) (d : Dev) (q : List Instr),
    (d.cmd r = some c → c.marked = true → c.open_ = true → d.live = true →
      (∀ (t : TileRef) (x : Task), (d.tile t.key).task = some x → x.cmd = r → c.op = 1 → c.placed = true → c.status = 0 →
        (∀ y ∈ c.tasks, y.tile = t.key → y.phase = 1) →
        ∃ e c', exec (.cancelMarkArrival r (some t)) ⟨d, q⟩ = .next ⟨e, q⟩ ∧ e.cmd r = some c' ∧ (e.tile t.key).task = none ∧
          (∀ k, k ≠ t.key → e.tile k = d.tile k) ∧
          c'.tasks = (c.tasks.map fun y => if y.tile = t.key then { y with phase := 2, status := 3 } else y) ∧
          ((∀ y ∈ c.tasks, y.tile ≠ t.key → y.phase = 2) → (∃ y ∈ c.tasks, y.tile = t.key) → c'.phase = .done ∧ c'.status = 3)) ∧
      (∀ t : TileRef, (∀ x, (d.tile t.key).task = some x → x.cmd ≠ r) → exec (.cancelMarkArrival r (some t)) ⟨d, q⟩ = .next ⟨d, q⟩) ∧
      (c.phase = .waiting ∨ c.phase = .armed ∨ (c.phase = .running ∧ c.op = 0x19) ∨ (c.phase = .running ∧ c.isMove = true ∧ c.begun = false) →
        ∃ e, exec (.cancelMarkArrival r none) ⟨d, q⟩ = .next ⟨e, q⟩ ∧ d.ends e r 2) ∧
      (c.phase = .arrived ∨ c.phase = .draining ∨ c.phase = .copying ∨ c.phase = .fired ∨ (c.phase = .running ∧ c.isMove = true ∧ c.begun = true) →
        ∃ e, exec (.cancelMarkArrival r none) ⟨d, q⟩ = .next ⟨e, q⟩ ∧ d.ends e r 3)) ∧
    (d.cmd r = some c → c.op = 0x20 → c.phase = .fired → d.live = true → c.move.next = 0 →
      (∀ x ∈ d.cmds.takeWhile fun x => x.ref ≠ r, x.part = c.part → x.phase ≠ .fired) →
      (3 ≤ d.pkg.level → ∃ e, exec (.dumpFire r) ⟨d, q⟩ = .next ⟨e, q⟩ ∧ d.ends e r 0x32 ∧ e.pkg.agains = min (d.pkg.agains + 1) 65535 ∧ e.mem = d.mem) ∧
      (d.pkg.level < 3 → exec (.dumpFire r) ⟨d, q⟩ =
        .next ⟨d.startRowAt c [(c.f 0x30 63 0, c.f 0x40 39 0)] (c.f 0x30 63 0) (c.f 0x38 63 0) (c.f 0x40 39 0), q⟩))

/-! ### Queues (R338 to R342, R347, R350, R428) -/

/-- R338 to R340, R347: a doorbell within the depth moves the tail and any other sets BADDB; an acceptance takes the descriptor at the next slot, and a command that a check refuses completes with UNIT_ABSENT; a ring access that faults disables the queue and sets RINGFAULT. When a DUMP is armed is the model's reading (log 67); where it says that nothing changes because the event cannot happen then, that is the model's choice (log 13). -/
def Obligations.DoorbellsAndAcceptance : Prop :=
  ∀ (k : QRef) (d : Dev) (q : List Instr),
    let u := d.queue k.key
    (∀ v : Word, d.answers = true → u.rst = false →
      (u.en = true → d.qStopped k.fn.val = false → v.toNat % 65536 < u.depth →
        exec (.doorbell k v) ⟨d, q⟩ = .next ⟨d.setQueue k.key fun x => { x with tail := v.toNat % 65536 }, q⟩) ∧
      (u.en = false ∨ d.qStopped k.fn.val = true ∨ u.depth ≤ v.toNat % 65536 →
        exec (.doorbell k v) ⟨d, q⟩ = .next ⟨d.setQueue k.key fun x => { x with baddb := true }, q⟩)) ∧
    (d.accepts k.fn.val k.q.val = true →
      let va := u.sqbase.toNat * 4096 + 128 * u.acc
      let r : CmdRef := ⟨k.fn, k.q, BitVec.ofNat 16 u.acc⟩
      (∀ d1 l, d.ringAcc k.fn.val va 128 false = (d1, .ok l) → d1.badIn l = none → d.cmd r = none →
        let b := Dev.readAll (ringReq k.fn.val) l d1
        let c := newCmd b.1 r b.2
        let good := partOk b.1 c = true ∧ reservedOk c = true ∧ valuesOk b.1 c = true
        (c.ref = r ∧ c.desc = b.2 ∧ c.phase = .waiting ∧ c.at_ = d.time ∧ c.part = if k.fn.val = 0 then bfld b.2 0 39 32 else k.fn.val - 1) ∧
        ∃ e, exec (.acceptance k) ⟨d, q⟩ = .next ⟨e, q⟩ ∧ (e.queue k.key).acc = (u.acc + 1) % u.depth ∧
          (good → c.op ≠ 0x20 → e.cmds = d.cmds ++ [c]) ∧
          (good → c.op = 0x31 → (d.part c.part).snap = none → (e.part c.part).snap = some r) ∧
          (good → c.op = 0x20 → d.st.dumpen c.part = true → d.pkg.level < 3 → (∀ x ∈ d.cmds, x.phase ≠ .armed ∧ x.phase ≠ .fired ∧ x.open_ = false) →
            e.cmd r = some { c with phase := .armed }) ∧
          (¬good → ∃ c', e.cmd r = some c' ∧ c'.phase = .done ∧ c'.status = 0x30 ∧ (e.queue k.key).out = u.out ++ [r.slot.toNat])) ∧
      (∀ d1 a j, d.ringAcc k.fn.val va 128 false = (d1, .error (a, j)) → j ≠ 0 →
        ∃ e, exec (.acceptance k) ⟨d, q⟩ = .next ⟨e, q⟩ ∧ e = d1.ringFault k.key va false 0 ∧ (k.fn.val = 0 → (e.queue k.key).en = false ∧ (e.queue k.key).ringfault = true))) ∧
    (d.accepts k.fn.val k.q.val = false → exec (.acceptance k) ⟨d, q⟩ = .next ⟨d, q⟩)

/-- R342, R349, R350: the oldest completion of a queue with room is written as its 64-byte record, CQTAIL goes on and the phase turns at the end of the ring, the slot is released, and the queue's interrupt is sent unless its interval has not passed. Where it says that nothing changes because the event cannot happen then, that is the model's choice (log 13). -/
def Obligations.CompletionRecordsAreWritten : Prop :=
  ∀ (r : CmdRef) (c : Cmd) (d d1 : Dev) (l : List (Acc × Nat)) (q : List Instr),
    let u := d.queue r.qk
    let nt := (u.cqtail + 1) % u.depth
    let va := u.cqbase.toNat * 4096 + 64 * u.cqtail
    d.live = true → d.cmd r = some c → c.phase = .done → u.out.head? = some r.slot.toNat →
    (nt ≠ u.cqhead → u.rst = false → d.ringAcc r.fn.val va 64 true = (d1, .ok l) → (∀ x ∈ l, x.1.plain x.2 = true ∧ 0 < x.2) → (l.map (·.2)).sum = 64 →
      let w := Dev.writeAll (ringReq r.fn.val) l (recordBytes c u.phase) d1
      let sends := u.irqmode = 2 ∨ (u.irqmode = 1 ∧ (c.irq = true ∨ 1 < c.status))
      let due := ∀ t, u.lastIrq = some t → t + 1000 * u.itr ≤ d.now
      let m := SMap.get Vec.reset d.vecs (r.fn.val * 256 + r.q.val)
      ∃ e, exec (.completionRecordWrite r) ⟨d, q⟩ = .next ⟨e, q⟩ ∧ e.mem = w.mem ∧ e.tiles = w.tiles ∧
        (e.queue r.qk).cqtail = nt ∧ (e.queue r.qk).phase = (if nt = 0 then !u.phase else u.phase) ∧
        (e.queue r.qk).out = u.out.filter (fun s => s ≠ r.slot.toNat) ∧ e.cmd r = none ∧ (∀ x, x ≠ r → e.cmd x = d.cmd x) ∧
        (¬sends → e.out = d.out) ∧
        (sends → due → m.mask = false → e.out = d.out ++ [.msix r.fn.val r.q.val m.addr m.data] ∧ (e.queue r.qk).lastIrq = some d.now) ∧
        (sends → ¬due → e.out = d.out ∧ (e.queue r.qk).irqWait = true)) ∧
    (nt = u.cqhead → exec (.completionRecordWrite r) ⟨d, q⟩ = .next ⟨d, q⟩)

/-- R338, R350, R428: Q_CFG takes its fields, LOG only while the queue is disabled, and enabling a disabled queue resets its pointers and phase; Q_RESET marks every open command of the queue and returns an idle queue to its reset values; an interrupt that waited for its interval is sent. -/
def Obligations.QueueRegistersConfigureAndReset : Prop :=
  ∀ (k : QRef) (d : Dev) (q : List Instr),
    let u := d.queue k.key
    (∀ v : Word, d.answers = true → ∃ e, exec (.qCfgWrite k v) ⟨d, q⟩ = .next ⟨e, q⟩ ∧ e = { d with queues := e.queues } ∧
      (∀ j, j ≠ k.key → e.queue j = d.queue j) ∧
      let x := e.queue k.key
      x.en = v.getLsbD 63 ∧ x.log = (if u.en then u.log else (v.extractLsb' 48 4).toNat) ∧ x.irqmode = (v.extractLsb' 40 2).toNat ∧
        x.itr = (v.extractLsb' 30 10).toNat ∧ x.cntset = (v.extractLsb' 8 3).toNat ∧ x.sqbase = u.sqbase ∧ x.cqbase = u.cqbase ∧
        (v.getLsbD 63 = true → u.en = false → x.sqhead = 0 ∧ x.cqtail = 0 ∧ x.cqhead = 0 ∧ x.tail = 0 ∧ x.acc = 0 ∧ x.phase = true) ∧
        (v.getLsbD 63 = false ∨ u.en = true → x.sqhead = u.sqhead ∧ x.cqtail = u.cqtail ∧ x.cqhead = u.cqhead ∧ x.tail = u.tail ∧ x.acc = u.acc ∧ x.phase = u.phase)) ∧
    (d.answers = true → u.rst = false →
      ((∀ c ∈ d.cmds, c.ref.qk ≠ k.key) → ∃ e, exec (.qReset k) ⟨d, q⟩ = .next ⟨e, q⟩ ∧ e = { d with queues := e.queues, cntQ := e.cntQ, rem := e.rem } ∧
        e.queue k.key = Queue.reset ∧ (∀ j, j ≠ k.key → e.queue j = d.queue j) ∧ ∀ n < 64, SMap.get 0 e.cntQ (k.key * 64 + n) = 0) ∧
      ((∃ c ∈ d.cmds, c.ref.qk = k.key) → (d.cmds.map (·.ref)).Nodup →
        ∃ e, exec (.qReset k) ⟨d, q⟩ = .next ⟨e, q⟩ ∧ e = { d with queues := e.queues, cmds := e.cmds } ∧ e.queue k.key = { u with rst := true } ∧
          e.cmds = d.cmds.map fun c => if c.ref.qk = k.key ∧ c.open_ = true then { c with marked := true } else c)) ∧
    (d.live = true → u.irqWait = true → (∀ t, u.lastIrq = some t → t + 1000 * u.itr ≤ d.now) →
      let m := SMap.get Vec.reset d.vecs (k.fn.val * 256 + k.q.val)
      m.mask = false →
      ∃ e, exec (.itrExpiry k) ⟨d, q⟩ = .next ⟨e, q⟩ ∧ e.out = d.out ++ [.msix k.fn.val k.q.val m.addr m.data] ∧
        (e.queue k.key).irqWait = false ∧ (e.queue k.key).lastIrq = some d.now)

/-! ### The Tongs (R265, R273 to R281, R289) -/

/-- R273, R274: an ADMIT with bad operands or of a sequence that is not FREE is UNIT_ABSENT; otherwise it writes the entry word by word, the state last, counts the sequence as active and completes. A RETIRE of a FREE or RETIRING sequence is UNIT_ABSENT; otherwise it sets RETIRING, waits while a batch holds the sequence, frees its billets and the entry, and completes. That a faulting command leaves memory as it was is the model's choice (log 84); the status of a cancelled RETIRE is log 95. -/
def Obligations.ServingAdmitsAndRetires : Prop :=
  ∀ (r : CmdRef) (c : Cmd) (d d0 d1 d2 d3 d4 d5 d6 d7 d8 : Dev) (v : SeqE) (q : List Instr),
    let t := d0.cfgOf c
    let slot := c.f 0x20 15 0
    let plen := c.f 0x28 31 0
    let maxctx := c.f 0x28 63 32
    let good := slot ≤ t.seqcap ∧ plen ≠ 0 ∧ plen ≤ maxctx ∧ 16 ≤ maxctx ∧ maxctx ≤ 4194304 ∧ maxctx % 16 = 0
    let a := seqAddr t slot
    (d.goesOn r 0x11 c d0 →
      (¬good → ∃ e, exec (.admitItems r) ⟨d, q⟩ = .next ⟨e, q⟩ ∧ d.ends e r 0x30 ∧ e.mem = d.mem) ∧
      (∀ st e1, good → (readSeq c.part c.acct t slot).stops d0 (some st) e1 → ∃ e, exec (.admitItems r) ⟨d, q⟩ = .next ⟨e, q⟩ ∧ d.ends e r st ∧ e.mem = d.mem) ∧
      (good → (readSeq c.part c.acct t slot).gives d0 v d1 →
        (v.state ≠ 0 → ∃ e, exec (.admitItems r) ⟨d, q⟩ = .next ⟨e, q⟩ ∧ d.ends e r 0x30) ∧
        (v.state = 0 → (tgWord c.part c.acct (a + 0x18) (maxctx * 2 ^ 32 + plen)).gives d1 () d2 →
          (tgWord c.part c.acct (a + 0x20) (c.f 0x30 63 0)).gives d2 () d3 → (tgWord c.part c.acct (a + 0x28) (c.f 0x38 63 0)).gives d3 () d4 →
          (tgWord c.part c.acct (a + 0x30) (c.f 0x40 63 0)).gives d4 () d5 → (tgWord c.part c.acct (a + 0x08) 0).gives d5 () d6 →
          (tgWord c.part c.acct (a + 0x10) plen).gives d6 () d7 → (tgWord c.part c.acct a (2 ^ 62 + (v.gen + 1) % 2 ^ 32)).gives d7 () d8 →
          ∃ e, exec (.admitItems r) ⟨d, q⟩ = .next ⟨e, q⟩ ∧ d.ends e r 0 ∧ e.mem = d8.mem ∧ e.tiles = d8.tiles ∧
            (e.serving c.part).active = (d8.serving c.part).active + 1))) ∧
    (let t := d0.serving c.part
     let a := seqAddr t slot
     d.goesOn r 0x12 c d0 →
      (t.seqcap < slot → ∃ e, exec (.retire r) ⟨d, q⟩ = .next ⟨e, q⟩ ∧ d.ends e r 0x30 ∧ e.mem = d.mem) ∧
      (slot ≤ t.seqcap → (readSeq c.part c.acct t slot).gives d0 v d1 →
        (c.placed = false → v.state = 0 ∨ v.state = 2 → ∃ e, exec (.retire r) ⟨d, q⟩ = .next ⟨e, q⟩ ∧ d.ends e r 0x30) ∧
        (c.placed = true ∨ (v.state ≠ 0 ∧ v.state ≠ 2) → (tgWord c.part c.acct a (2 ^ 63 + v.gen)).gives d1 () d2 →
          let d3 := d2.setCmd r fun x => { x with placed := true }
          (t.inBatch slot = true → exec (.retire r) ⟨d, q⟩ = .next ⟨d3, q⟩) ∧
          (t.inBatch slot = false →
            let d4 := d3.setServing c.part fun s => { s with billets := s.billets.filter fun b => b.slot ≠ slot, active := s.active - 1 }
            (tgWord c.part c.acct a v.gen).gives d4 () d5 →
            ∃ e, exec (.retire r) ⟨d, q⟩ = .next ⟨e, q⟩ ∧ d.ends e r 0 ∧ e.mem = d5.mem ∧ e.tiles = d5.tiles ∧
              ∀ b ∈ (e.serving c.part).billets, b.slot ≠ slot)))) ∧
    (d.cmd r = some c → c.op = 0x12 → c.phase = .running → d.live = true → c.marked = true → c.placed = false →
      ∃ e, exec (.retire r) ⟨d, q⟩ = .next ⟨e, q⟩ ∧ d.ends e r 2 ∧ e.mem = d.mem)

/-- R275 to R278: a STEP without a sequence table, a graph or layers is UNIT_ABSENT; otherwise it reads the sequences from the cursor on, assembles the batch under its limits, allocates billets, writes the batch list and counts; an empty batch completes it, and a batch of items starts the graph. That the whole graph is read at the start, and that an ended STEP counts, are the model's readings (logs 85 and 90). -/
def Obligations.StepsAssembleAndStart : Prop :=
  ∀ (r : CmdRef) (c : Cmd) (d d0 d1 d2 d3 d5 : Dev) (es : List SeqE) (items : List BItem) (full : Bool) (h : List Byte) (q : List Instr),
    let t := d0.cfgOf c
    let n := c.part
    let s := d0.serving n
    let maxtok := if c.f 0x28 63 32 = 0 then t.maxtok else c.f 0x28 63 32
    let maxb := min 4096 (if c.f 0x28 12 0 = 0 then t.maxbatch else c.f 0x28 12 0)
    let a := assemble maxtok maxb t.chunk es
    d.goesOn r 0x10 c d0 → d.stepBehind c = false → s.run = none →
    (t.seqbase = 0 ∨ t.graph = 0 ∨ t.nlayer = 0 →
      ∃ e, exec (.step r) ⟨d, q⟩ = .next ⟨e, q⟩ ∧ d.ends e r 0x30 ∧ (e.serving n).run = none ∧ (e.serving n).stepno = (s.stepno + 1) % 2 ^ 32 ∧ e.mem = d.mem) ∧
    (t.seqbase ≠ 0 → t.graph ≠ 0 → t.nlayer ≠ 0 →
      ((scanOrder s.cursor t.seqcap).mapM fun i => readSeq n c.acct t i).gives d0 es d1 → (allocItems c t a.items).gives d1 (items, full) d2 →
      (tgWrite n c.acct (c.f 0x20 63 0) (batchBytes items s.stepno full)).gives d2 () d3 →
      let d4 := (((d3.setServing n fun s => { s with cursor := a.cut.getD s.cursor }).setCmd r fun x => { x with nospace := full }).count
        c.acct 54 items.length).count c.acct 55 (items.map BItem.ntok).sum
      (items = [] → ∃ e, exec (.step r) ⟨d, q⟩ = .next ⟨e, q⟩ ∧ d.ends e r 0 ∧ e.mem = d3.mem ∧ (e.serving n).run = none ∧
        (e.serving n).cursor = a.cut.getD (d3.serving n).cursor ∧ (e.serving n).stepno = ((d3.serving n).stepno + 1) % 2 ^ 32) ∧
      (∀ nodes d6, items ≠ [] → (tgRead n c.acct t.graph.toNat 64).gives d4 h d5 → bfld h 0 13 0 ≠ 0 →
        ((List.range (bfld h 0 13 0)).mapM fun i => readNode c t.graph.toNat (bfld h 8 63 0) i).gives d5 nodes d6 →
        exec (.step r) ⟨d, q⟩ =
          .next ⟨d6.setServing n fun s => { s with run := some { cmd := r, batch := c.w 0x20, items := items, nodes := nodes } }, q⟩))

/-- R276: the batch that R276 assembles keeps both limits: at most MAXBATCH items and, where MAXTOK is not zero, at most MAXTOK tokens; every item is of an eligible sequence and has a token, a decode item at most 16 within INLEN and MAXCTX, a prefill item at most CHUNK within the prompt; decode items come before prefill items, and each item's tokens begin where those of the items before it end. What CHUNK 0 does to the cursor is the model's reading (log 86). -/
def Obligations.BatchesKeepTheirLimits : Prop :=
  ∀ (maxtok maxb chunk : Nat) (es : List SeqE),
    let b := assemble maxtok maxb chunk es
    let toks := fun (l : List BItem) => (l.map BItem.ntok).sum
    b.items.length ≤ maxb ∧ b.used = toks b.items ∧ (maxtok ≠ 0 → b.used ≤ maxtok) ∧
    (∀ x ∈ b.items, ∃ e ∈ es, e.state = 1 ∧ e.hold = false ∧ x.slot = e.slot ∧ x.gen = e.gen ∧ x.pos = e.ctx ∧ 0 < x.ntok ∧
      (x.decode = true → e.plen ≤ e.ctx ∧ x.ntok ≤ 16 ∧ x.pos + x.ntok ≤ e.inlen ∧ x.pos + x.ntok ≤ e.maxctx) ∧
      (x.decode = false → e.ctx < e.plen ∧ x.ntok ≤ chunk ∧ x.pos + x.ntok ≤ e.plen)) ∧
    (∃ l m, b.items = l ++ m ∧ (∀ x ∈ l, x.decode = true) ∧ ∀ x ∈ m, x.decode = false) ∧
    (∀ l x m, b.items = l ++ x :: m → x.tokoff = toks l) ∧
    (b.cut = none → ∀ e ∈ es, e.eligible = true → (e.plen ≤ e.ctx ∨ chunk ≠ 0) →
      ∃ x ∈ b.items, x.slot = e.slot ∧
        x.ntok = if e.plen ≤ e.ctx then min (min (e.inlen - e.ctx) 16) (e.maxctx - e.ctx) else min (e.plen - e.ctx) chunk)

/-- R265, R289: PLACEMENT gives a KERNEL its tiles in ascending rank and sends one dispatch message per task, or ends it with UNIT_ABSENT or ROLE_UNAVAILABLE, or leaves it waiting; RE_RESOLVE sends the oldest message of the slag queue to another tile, puts it back while it has tries left, or ends its command with ROLE_UNAVAILABLE. The order of placements and the tries of a re-resolution are the model's readings (logs 93 and 94); where it says that nothing changes because the event cannot happen then, that is the model's choice (log 13). -/
def Obligations.PlacementAndReResolution : Prop :=
  ∀ (r : CmdRef) (c : Cmd) (d : Dev) (q : List Instr),
    (d.underWay r 1 c → c.placed = false → d.snapHeld c = false → d.placedAfter c = false →
      (d.resolve c.part (c.w 0x30) = .absent → ∃ e, exec (.placement r) ⟨d, q⟩ = .next ⟨e, q⟩ ∧ d.ends e r 0x30 ∧ e.tongs = d.tongs) ∧
      (d.resolve c.part (c.w 0x30) = .unavailable → ∃ e, exec (.placement r) ⟨d, q⟩ = .next ⟨e, q⟩ ∧ d.ends e r 0x31 ∧ e.tongs = d.tongs ∧
        (e.serving c.part).rolefail = min ((d.serving c.part).rolefail + 1) 65535) ∧
      (d.resolve c.part (c.w 0x30) = .wait → exec (.placement r) ⟨d, q⟩ = .next ⟨d, q⟩) ∧
      (∀ ks, d.resolve c.part (c.w 0x30) = .on ks →
        let ts := (List.range ks.length).map fun i => TRun.mk (kernelTask c i ks.length) (nthD 0 ks i) 0 0 false
        ∃ e, exec (.placement r) ⟨d, q⟩ = .next ⟨e, q⟩ ∧ e.cmd r = some { c with placed := true, tasks := c.tasks ++ ts } ∧
          e.tongs.inflight = d.tongs.inflight ++ ts.map fun x =>
            Msg.mk (.task x.task) (x.tile / 128) (x.tile % 128) (match d.phys (x.tile / 128) with | some p => (d.brick p).epoch | none => 0) 0)) ∧
    (d.tongs.slag = [] → exec .reResolve ⟨d, q⟩ = .next ⟨d, q⟩) ∧
    (∀ m rest (t : Task), d.tongs.slag = m :: rest → m.load = .task t → d.live = true → d.cmd t.cmd = some c → c.marked = false → c.open_ = true → m.tries < 3 →
      (∀ k, Dev.reTile { d with tongs := { d.tongs with slag := rest } } t = some k →
        ∃ e, exec .reResolve ⟨d, q⟩ = .next ⟨e, q⟩ ∧ e.tongs.slag = rest ∧
          e.tongs.inflight = d.tongs.inflight ++ [Msg.mk (.task t) (k / 128) (k % 128)
            (match d.phys (k / 128) with | some p => (d.brick p).epoch | none => 0) (m.tries + 1)]) ∧
      (Dev.reTile { d with tongs := { d.tongs with slag := rest } } t = none → m.tries < 2 →
        ∃ e, exec .reResolve ⟨d, q⟩ = .next ⟨e, q⟩ ∧ e.tongs = { d.tongs with slag := rest ++ [{ m with tries := m.tries + 1 }] } ∧ e.cmds = d.cmds) ∧
      (Dev.reTile { d with tongs := { d.tongs with slag := rest } } t = none → m.tries = 2 → t.node = none → c.op = 1 → c.placed = true → c.status = 0 →
        (∀ x ∈ c.tasks, x.task = t ∧ x.phase = 0) →
        ∃ e, exec .reResolve ⟨d, q⟩ = .next ⟨e, q⟩ ∧ e.tongs.slag = rest ∧ d.ends e t.cmd 0x31))

/-- R279 to R281: a KERNEL node that can start places its tasks, an ATTEND node sends its spans, a node of another kind ends with UNIT_ABSENT; a span that its brick has taken attends over its billets and is ticked off; a node whose tasks or spans have ended completes and its successors advance. Which CACHE brick serves a span is open (log 88); where it says that nothing changes because the event cannot happen then, that is the model's choice (log 13). -/
def Obligations.NodesStartAndComplete : Prop :=
  ∀ (n : Fin 32) (i : Nat) (s : StepRun) (x : NodeRun) (c : Cmd) (d : Dev) (q : List Instr),
    let w := BitVec.ofNat 64 (bfld x.desc 0x10 63 0)
    d.live = true → (d.serving n.val).run = some s → s.nodes[i]? = some x → d.cmd s.cmd = some c → c.marked = false →
    (x.startable = true → d.snapHeld c = false → d.nodeHeld s (some i) = false →
      (x.kind = 0 → d.placeOk w = true →
        (∀ ks, d.resolve n.val w = .on ks →
          exec (.nodeStart n i) ⟨d, q⟩ = .next ⟨(d.setNode n.val i fun x => { x with phase := 1 }).placeTasks s.cmd ks fun j => nodeTask c x i j ks.length, q⟩) ∧
        (d.resolve n.val w = .unavailable → exec (.nodeStart n i) ⟨d, q⟩ = .next ⟨d.nodeDone n.val i 0x31, q⟩) ∧
        (d.resolve n.val w = .wait → exec (.nodeStart n i) ⟨d, q⟩ = .next ⟨d, q⟩)) ∧
      (∀ e, x.kind = 1 → (attendTm c (d.cfgOf c) s x i).gives d () e → exec (.nodeStart n i) ⟨d, q⟩ = .next ⟨e, q⟩) ∧
      (1 < x.kind → exec (.nodeStart n i) ⟨d, q⟩ = .next ⟨d.nodeDone n.val i 0x30, q⟩)) ∧
    (x.startable = false → exec (.nodeStart n i) ⟨d, q⟩ = .next ⟨d, q⟩) ∧
    (∀ (item sp : Nat) (it : BItem) (m : Msg) (d1 : Dev), s.items[item]? = some it →
      d.tongs.spans.find? (fun m => decide (m.load = .span n.val i item sp)) = some m → x.phase = 1 →
      (spanTm c (d.cfgOf c) (attendOf x.att) it sp).gives d () d1 → (d1.serving n.val).run = some s →
      ∃ e, exec (.span n i item sp) ⟨d, q⟩ = .next ⟨e, q⟩ ∧ e.mem = d1.mem ∧ e.tongs.spans = d1.tongs.spans.erase m ∧
        (e.serving n.val).run = some { s with nodes := updNth s.nodes i fun x => { x with spans := x.spans ++ [(item, sp)] } }) ∧
    ((∃ j y, j ≠ i ∧ s.nodes[j]? = some y ∧ y.phase = 1) → (∀ u ∈ d.cmds, u.phase ≠ .armed) → x.phase = 1 → x.status = 0 →
      (x.kind = 0 ∧ (∀ t ∈ c.tasks, t.task.node = some i → t.phase = 2 ∧ t.status = 0)) ∨ (x.kind ≠ 0 ∧ x.spans.length = x.nspan) →
      ∃ e ns, exec (.nodeComplete n i) ⟨d, q⟩ = .next ⟨e, q⟩ ∧ (e.serving n.val).run = some { s with nodes := ns } ∧ ns.length = s.nodes.length ∧
        (∀ y, ns[i]? = some y → y.phase = 2 ∧ y.status = 0) ∧
        (∀ j, j ≠ i → ns[j]? = (s.nodes[j]?).map fun y => { y with met := y.met + x.succ.count j }))

/-! ### Roles, power states, heat and withdrawal (R262 to R264, R272, R284 to R287, R291 to R293, R331, R477, R478) -/

/-- R262 to R264, R293: a write of TNG_REQ sets its fields while GO is 0, and GO starts the request, or ends it at once with ERR where it is refused and without where nothing is to change; a requested role change gives the brick its role in the next epoch and clears GO, and waits while R263 or the brick's billets forbid it. R272, R287: the serving fields take what is written, those of words 1 and 4 only while no sequence is active, which otherwise sets BADCFG; a rebalance at the end of its window waits out its cooling, or moves a brick of the busier role or none, a free value standing for U_P less U_G. The difference of the utilisations is a free value (log 91), a move of the policy waits as a request does (log 92), out-of-range fields are stored as they act (log 128); where it says that nothing changes because the event cannot happen then, that is the model's choice (log 13). -/
def Obligations.RolesAndServingFieldsAreTaken : Prop :=
  (∀ (d : Dev) (v : Word) (q : List Instr),
     let old := d.tongs.req
     let want : TngReq := { old with kind := (v.extractLsb' 38 2).toNat, target := (v.extractLsb' 24 8).toNat, pstate := (v.extractLsb' 8 2).toNat, role := (v.extractLsb' 0 3).toNat }
     let row : Nat → Instr := fun k => if k = 0 then .tngReqRole v else if k = 1 then .tngReqBrickPstate v else .tngReqRegionPstate v
     (∀ k < 3, d.answers = true → want.kind = k →
       (old.go = true → exec (row k) ⟨d, q⟩ = .next ⟨d, q⟩) ∧
       (old.go = false →
         (v.getLsbD 63 = false → exec (row k) ⟨d, q⟩ = .next ⟨{ d with tongs := { d.tongs with req := want } }, q⟩) ∧
         (v.getLsbD 63 = true →
           ∃ e, exec (row k) ⟨d, q⟩ = .next ⟨e, q⟩ ∧ e.tongs = { d.tongs with req := e.tongs.req } ∧ e.tiles = d.tiles ∧ e.mem = d.mem ∧
             (d.reqBad want = true → e.tongs.req = { want with go := false, err := true } ∧ e.pkg.intSum.testBit 3 = true) ∧
             (d.reqBad want = false →
               (k = 0 → (d.brick want.target).role = want.role → e.tongs.req = { want with go := false, err := false }) ∧
               (k = 0 → (d.brick want.target).role ≠ want.role → e.tongs.req = { want with go := true, err := false }) ∧
               (∀ p, k ≠ 0 → reqDom want = some p → e.tongs.req = { want with go := decide (d.pstate p ≠ want.pstate), err := false }))))) ∧
     (∀ (p : Fin 72) (b : Nat), d.live = true → d.logical p.val = some b → old.go = true → old.kind = 0 → old.target = p.val →
       let role := BitVec.ofNat 3 old.role
       role.toNat = old.role →
       ((∀ t, (d.brick p.val).roleAt = some t → t + 20000 ≤ d.now) → ((d.brick p.val).role ≠ 3 ∨ old.role = 3 ∨ d.brickEmpty b = true) →
         ∃ e, exec (.roleChange p role) ⟨d, q⟩ = .next ⟨e, q⟩ ∧
           (e.brick p.val).role = old.role ∧ (e.brick p.val).epoch = ((d.brick p.val).epoch + 1) % 4096 ∧ (e.brick p.val).roleAt = some d.now ∧
           (∀ x, x ≠ p.val → e.brick x = d.brick x) ∧ e.tongs.req = { old with go := false, err := false } ∧ e.tiles = d.tiles) ∧
       ((∃ t, (d.brick p.val).roleAt = some t ∧ d.now < t + 20000) ∨ ((d.brick p.val).role = 3 ∧ old.role ≠ 3 ∧ d.brickEmpty b = false) →
         exec (.roleChange p role) ⟨d, q⟩ = .next ⟨d, q⟩))) ∧
  (∀ (d : Dev) (n : Fin 32) (v : Word) (q : List Instr),
     let t := d.serving n.val
     (∀ w : Fin 7, d.answers = true → ∃ e, exec (.tngConfigWrite n w v) ⟨d, q⟩ = .next ⟨e, q⟩ ∧ e = { d with tng := e.tng } ∧
       (∀ m, m ≠ n.val → e.serving m = d.serving m) ∧
       let u := e.serving n.val
       (w.val = 0 → u = { t with seqbase := v }) ∧
       (w.val = 2 → u = { t with graph := v }) ∧
       (w.val = 3 → u = { t with maxtok := (v.extractLsb' 32 32).toNat, chunk := (v.extractLsb' 16 16).toNat, maxbatch := (v.extractLsb' 0 13).toNat }) ∧
       (w.val = 5 → u = t) ∧
       (w.val = 6 → u = { t with badcfg := t.badcfg && !v.getLsbD 0 }) ∧
       (w.val = 1 ∨ w.val = 4 → t.active ≠ 0 → u = { t with badcfg := true }) ∧
       (w.val = 1 → t.active = 0 →
         let b := (v.extractLsb' 32 4).toNat
         u = { t with seqcap := (v.extractLsb' 48 16).toNat, bfmt := if b = 1 ∨ b = 3 ∨ b = 5 then b else 5, hq := (v.extractLsb' 24 8).toNat,
                      hkv := (v.extractLsb' 16 8).toNat, dhc := (v.extractLsb' 13 3).toNat, nlayer := (v.extractLsb' 0 13).toNat,
                      badcfg := t.badcfg || !decide (b = 1 ∨ b = 3 ∨ b = 5) }) ∧
       (w.val = 4 → t.active = 0 →
         let yards := ((List.range 256).filter fun i => d.st.yown i = n.val).length
         u.span = (v.extractLsb' 48 16).toNat ∧ u.biltile = min bilMax (v.extractLsb' 32 16).toNat ∧ u.bilyard = min yards (v.extractLsb' 0 8).toNat ∧
           u.badcfg = (t.badcfg || decide (bilMax < (v.extractLsb' 32 16).toNat) || decide (yards < (v.extractLsb' 0 8).toNat)))) ∧
     (let win := d.st.win n.val
      (d.live = false ∨ win = 0 ∨ t.winSteps < win ∨ t.run.isSome = true → exec (.rebalance n) ⟨d, q⟩ = .next ⟨d, q⟩) ∧
      (d.live = true → win ≠ 0 → win ≤ t.winSteps → t.run = none →
        (t.cool ≠ 0 → exec (.rebalance n) ⟨d, q⟩ = .next ⟨d.setServing n.val fun t => { t with winSteps := 0, cool := t.cool - 1 }, q⟩) ∧
        (t.cool = 0 →
          let diff : Int := ((Config.free d.fi).toNat % 201 : Nat) - 100
          let hyst : Int := d.st.pol n.val 6
          let ps := d.withRole n.val 1
          let gs := d.withRole n.val 2
          let upP := hyst < diff ∧ (d.st.pol n.val 1 = 0xFF ∨ ps.length + 1 ≤ d.st.pol n.val 1) ∧ d.st.pol n.val 2 + 1 ≤ gs.length
          let upG := hyst < -diff ∧ (d.st.pol n.val 3 = 0xFF ∨ gs.length + 1 ≤ d.st.pol n.val 3) ∧ d.st.pol n.val 0 + 1 ≤ ps.length
          ∃ e, exec (.rebalance n) ⟨d, q⟩ = .next ⟨e, q⟩ ∧
            (¬upP → ¬upG → e.tongs = d.tongs ∧ e.fi = d.fi + 1 ∧ (e.serving n.val).winSteps = 0) ∧
            (∀ b p, upP → d.leastBusy gs = some b → d.phys b = some p → d.roleReady p = true →
              (e.brick p).role = 1 ∧ (e.brick p).epoch = ((d.brick p).epoch + 1) % 4096 ∧ (∀ x, x ≠ p → e.brick x = d.brick x) ∧
                (e.serving n.val).winSteps = 0 ∧ (e.serving n.val).cool = d.st.pol n.val 7) ∧
            (∀ b p, ¬upP → upG → d.leastBusy ps = some b → d.phys b = some p → d.roleReady p = true →
              (e.brick p).role = 2 ∧ (e.brick p).epoch = ((d.brick p).epoch + 1) % 4096 ∧ (∀ x, x ≠ p → e.brick x = d.brick x) ∧
                (e.serving n.val).winSteps = 0 ∧ (e.serving n.val).cool = d.st.pol n.val 7)))))

/-- R291 to R293: a LIT domain that may go down becomes BANKING, a BANKING domain BANKED, and a BANKED domain COLD when it is asked or its time has passed, a region losing what its sites hold; a wake makes a domain that is wanted LIT again, a COLD brick's tiles cleared. Where it says that nothing changes because the event cannot happen then, that is the model's choice (log 13). -/
def Obligations.DomainsBankAndWake : Prop :=
  ∀ (d : Dev) (p : PDom) (q : List Instr),
    let asked (s : Nat) : Prop := d.tongs.req.go = true ∧ d.tongs.req.kind ≠ 0 ∧ reqDom d.tongs.req = some p ∧ d.tongs.req.pstate = s
    d.live = true →
    (∀ (b : Fin 72) l, p = .brick b → d.logical b.val = some l → d.brickIn l = true → d.loadOf l = 0 → (d.brick b.val).role = 0 → d.pstate p = 0 →
      asked 2 ∨ asked 3 ∨ (d.tongs.bankus ≠ 0 ∧ (d.brick b.val).since + 1000 * d.tongs.bankus ≤ d.now) →
      ∃ e, exec (.banking p) ⟨d, q⟩ = .next ⟨e, q⟩ ∧ e = { d with tongs := e.tongs } ∧ d.domMoved e p 1) ∧
    (∀ r : Fin 64, p = .region r → d.pstate p = 0 → asked 2 ∨ asked 3 → d.regionBound r.val = false → d.regionEmpty r.val = true →
      ∃ e, exec (.banking p) ⟨d, q⟩ = .next ⟨e, q⟩ ∧ e = { d with tongs := e.tongs } ∧ d.domMoved e p 1) ∧
    (d.pstate p ≠ 0 → exec (.banking p) ⟨d, q⟩ = .next ⟨d, q⟩) ∧
    (d.pstate p = 1 → ∃ e, exec (.banked p) ⟨d, q⟩ = .next ⟨e, q⟩ ∧ d.domMoved e p 2 ∧ e.mem = d.mem ∧ e.tiles = d.tiles ∧
      (asked 2 → e.tongs.req.go = false ∧ e.tongs.req.err = false) ∧ (asked 3 → e.tongs.req = d.tongs.req)) ∧
    (d.pstate p ≠ 1 → exec (.banked p) ⟨d, q⟩ = .next ⟨d, q⟩) ∧
    (let since := match p with | .brick b => (d.brick b.val).since | .region r => (SMap.get MemSide.lit d.tongs.regions r.val).since
     let due := asked 3 ∨ (d.tongs.coldms ≠ 0 ∧ since + 1000000 * d.tongs.coldms ≤ d.now)
     (d.pstate p = 2 → due → ∃ e, exec (.coldDom p) ⟨d, q⟩ = .next ⟨e, q⟩ ∧ d.domMoved e p 3 ∧ e.tiles = d.tiles ∧
       (asked 3 → e.tongs.req.go = false ∧ e.tongs.req.err = false) ∧
       (∀ b, p = .brick b → e.mem = d.mem) ∧
       ∀ (r : Fin 64) (a : Nat), p = .region r → inTier a = true →
         (unitRegion (unitOf a) = r.val → (∀ x ∈ e.mem.dram, x.1 ≠ a) ∧ ∀ x ∈ e.mem.dkey, x.1 ≠ a) ∧
         (unitRegion (unitOf a) ≠ r.val → ∀ x, (a, x) ∈ d.mem.dram ↔ (a, x) ∈ e.mem.dram)) ∧
     (d.pstate p ≠ 2 ∨ ¬due → exec (.coldDom p) ⟨d, q⟩ = .next ⟨d, q⟩)) ∧
    (let role := ∃ b, p = .brick b ∧ (d.brick b.val).role ≠ 0 ∧ (d.brick b.val).role ≠ 7
     let spare := ∃ b, p = .brick b ∧ (d.brick b.val).role = 7
     d.noneHeld →
     (¬spare → d.pstate p = 2 ∨ d.pstate p = 3 → role ∨ p ∈ d.tongs.want ∨ asked 0 →
       ∃ e, exec (.wake p) ⟨d, q⟩ = .next ⟨e, q⟩ ∧ d.domMoved e p 0 ∧ p ∉ e.tongs.want ∧ (∀ x, x ≠ p → (x ∈ e.tongs.want ↔ x ∈ d.tongs.want)) ∧
         (asked 0 ∨ asked 2 ∨ asked 3 → e.tongs.req.go = false ∧ e.tongs.req.err = false) ∧
         (∀ r, p = .region r → e.mem = d.mem ∧ e.tiles = d.tiles) ∧
         (∀ b l k, p = .brick b → d.pstate p = 3 → d.logical b.val = some l → k < 96 → e.tile (l * 128 + k) = Tile.clear)) ∧
     (spare ∨ d.pstate p = 0 ∨ d.pstate p = 1 ∨ (¬role ∧ p ∉ d.tongs.want ∧ ¬asked 0) → exec (.wake p) ⟨d, q⟩ = .next ⟨d, q⟩))

/-- R284 to R286: HEAT_DECAY halves every heat; a billet changes places with the coldest of a higher level when it is hotter by 32, or goes down or away when R285 or R286 says so, and otherwise stays; a pool page goes to a free frame that its preference, its heat or a leaving region asks for, and otherwise stays. The conditions of a page's move are the model's readings (log 136); where it says that nothing changes because the event cannot happen then, that is the model's choice (log 13). -/
def Obligations.HeatAndMovesBetweenLevels : Prop :=
  ∀ (d : Dev) (n : Fin 32) (q : List Instr),
    let t := d.serving n.val
    d.live = true →
    ((∀ m, SMap.wf 0 (d.serving m).heats) → ∃ e, exec .heatDecay ⟨d, q⟩ = .next ⟨e, q⟩ ∧ e = { d with tng := e.tng } ∧
      ∀ m, (e.serving m).billets = (d.serving m).billets.map (fun x => { x with heat := x.heat / 2 }) ∧
        ∀ v, SMap.get 0 (e.serving m).heats v = SMap.get 0 (d.serving m).heats v / 2) ∧
    (∀ (i : Nat) (level : Fin 4) (x : Billet), t.billets[i]? = some x →
      ((d.part n.val).snap.isSome = true ∨ t.busy x = true → exec (.billetMove n i level) ⟨d, q⟩ = .next ⟨d, q⟩) ∧
      ((d.part n.val).snap = none → t.busy x = false →
        (∀ y, level.val < x.level → t.coldest level.val = some y →
          (y.heat + 32 ≤ x.heat → t.spanFits x level.val y.loc = true →
            exec (.billetMove n i level) ⟨d, q⟩ = .next ⟨d.moveBillets n.val [(x, level.val, y.loc), (y, x.level, x.loc)], q⟩) ∧
          (x.heat < y.heat + 32 → exec (.billetMove n i level) ⟨d, q⟩ = .next ⟨d, q⟩)) ∧
        (x.level ≤ level.val →
          let asks := (d.mustLeave x = true ∧ (x.level < level.val ∨ 2 ≤ x.level)) ∨
            (level.val = x.level + 1 ∧ d.levelTight n.val t x.level = true ∧ t.coldest x.level = some x)
          (∀ p, asks → d.findPlace n.val t level.val none = some p →
            exec (.billetMove n i level) ⟨d, q⟩ = .next ⟨d.moveBillets n.val [(x, level.val, p)], q⟩) ∧
          (¬asks → exec (.billetMove n i level) ⟨d, q⟩ = .next ⟨d, q⟩)))) ∧
    (∀ (va frame : Word) (x : PoolPage), d.poolPage n.val va.toNat = some x → (d.part n.val).snap = none → frame.toNat % 2 ^ 21 = 0 →
      d.inPool (some n.val) frame.toNat = true → d.grant n.val frame.toNat (2 ^ 21) = true → frame.toNat ≠ x.frame →
      d.regionLeaving (unitRegion (unitOf frame.toNat)) = false → d.frameBusy n.val x.frame = false → d.lit x.frame = true → d.lit frame.toNat = true →
      d.bad x.frame (2 ^ 21) = none → d.pageOn n.val frame.toNat = none → Dev.spaceFree t [] frame.toNat (2 ^ 21) = true →
      let keeps := prefKeeps (d.pagePref n.val x.va) x.frame = true
      let asks := d.regionLeaving (unitRegion (unitOf x.frame)) = true ∨
        (d.pagePref n.val x.va ≠ 0 ∧ d.pagePref n.val x.va + 1 = frameLevel frame.toNat ∧ ¬keeps) ∨
        (frameLevel x.frame = 2 ∧ frameLevel frame.toNat = 3 ∧ ¬keeps ∧ d.levelTight n.val t 2 = true ∧ d.coldestPage n.val 2 = some x.va)
      (asks → exec (.pageMove n va frame) ⟨d, q⟩ =
        .next ⟨d.movePage ⟨portXfer, n.val, ⟨none, some n.val⟩⟩ n.val x.va x.at_ x.leaf (.loc x.frame) (.loc frame.toNat) frame.toNat, q⟩) ∧
      (¬asks → exec (.pageMove n va frame) ⟨d, q⟩ = .next ⟨d, q⟩)) ∧
    (∀ va frame : Word, d.poolPage n.val va.toNat = none → exec (.pageMove n va frame) ⟨d, q⟩ = .next ⟨d, q⟩)

/-- R331, R477, R478: a unit in service that a withdrawal event names leaves the presence maps, after readiness in the next generation, and its event is logged; a brick becomes OFFLINE and COLD in the next epoch; before the spares are assigned, and for a unit not in service, nothing changes. That a withdrawal raises the role epoch is the model's reading (log 92); where it says that nothing changes because the event cannot happen then, that is the model's choice (log 13). -/
def Obligations.WithdrawnUnitsLeaveService : Prop :=
  ∀ (d : Dev) (u : HwUnit) (q : List Instr),
    let x := effUnit d u
    let assigned := d.start.stage = .memory ∨ d.start.stage = .fabric ∨ d.start.stage = .keys ∨ d.start.stage = .ready ∨ d.start.stage = .warm
    let left (e : Dev) (x : HwUnit) : Prop :=
      inService e x = false ∧ (7, d.time, BitVec.ofNat 64 (unitWord d x)) ∈ e.flash.log ∧
        (d.start.stage = .ready → e.pkg.capGen = d.pkg.capGen + 1 ∧ e.pkg.intSum.testBit 1 = true)
    (assigned → inService d x = true → ∃ e, exec (.withdrawalEvent u) ⟨d, q⟩ = .next ⟨e, q⟩ ∧ left e x ∧
      (∀ p, x = .brick p → (e.brick p.val).role = 7 ∧ (e.brick p.val).pstate = 3 ∧ (e.brick p.val).epoch = ((d.brick p.val).epoch + 1) % 4096) ∧
      (∀ g k, x = .anvil g → k < 4 → e.core (4 * g.val + k) = Core.reset)) ∧
    (¬assigned ∨ inService d x = false → exec (.withdrawalEvent u) ⟨d, q⟩ = .next ⟨d, q⟩) ∧
    (∀ (deep : Bool) (site : Fin 40), (deep = true ∨ site.val < 24) → d.siteIn (deep, site.val) = true →
      (assigned → ∃ e, exec (.siteWithdrawal deep site) ⟨d, q⟩ = .next ⟨e, q⟩ ∧ left e (siteUnit deep site.val) ∧ e.siteIn (deep, site.val) = false) ∧
      (¬assigned → exec (.siteWithdrawal deep site) ⟨d, q⟩ = .next ⟨d, q⟩))

/-! ### Partitions and the host (R244, R246, R325 to R330, R332, R337, R356, R427) -/

/-- R325 to R327, R356, R427: PART_CTL.RESET and a VF's FLR stop a partition, each command of it ending with PARTITION_RESET; the reset completes with its tiles, cores and queues cleared, a new key, the next RCOUNT and the partition RUNNING, or STOPPED where it is short; RESUME clears FAULTED; the PF's FLR drops what came through the PF. R332: PART_ASTART writes its core, and GO starts that core in PL1 at AENTRY with AROOT as its root and its number in x10, where it is the partition's, in service and stopped, and sets ERR otherwise. That x registers but x10 start at zero is log 17; where it says that nothing changes because the event cannot happen then, that is the model's choice (log 13). -/
def Obligations.PartitionsResetResumeAndStartCores : Prop :=
  (∀ (n : Fin 32) (d : Dev) (q : List Instr),
     let p := d.part n.val
     let stopped (reason : Nat) (e : Dev) : Prop :=
       (e.part n.val).st = 2 ∧ (e.part n.val).reason = reason ∧ (e.part n.val).rst = decide (reason = 1) ∧
         ((d.cmds.map (·.ref)).Nodup →
           (∀ c ∈ e.cmds, c.part = n.val → c.phase = .done ∧ c.status = 0x40 ∧ c.reason = reason) ∧ ∀ c, c.part ≠ n.val → (c ∈ e.cmds ↔ c ∈ d.cmds))
     (p.st = 1 ∨ p.st = 3 →
       (d.answers = true → ∃ e, exec (.partCtlReset n) ⟨d, q⟩ = .next ⟨e, q⟩ ∧ stopped 1 e) ∧
       (∀ f : Fin 33, f.val = n.val + 1 → ∃ e, exec (.flr f) ⟨d, q⟩ = .next ⟨e, q⟩ ∧ stopped 2 e)) ∧
     (p.st = 0 ∨ p.st = 2 → exec (.partCtlReset n) ⟨d, q⟩ = .next ⟨d, q⟩ ∧ ∀ f : Fin 33, f.val = n.val + 1 → exec (.flr f) ⟨d, q⟩ = .next ⟨d, q⟩) ∧
     (p.st = 2 → d.live = true → d.bell.failedAt = none → ¬(d.img.pstate = 2 ∧ d.img.ptarget = n.val) → d.fab.jgo = false → (∀ c ∈ d.cmds, c.part ≠ n.val) →
       ∃ e, exec (.partitionResetComplete n) ⟨d, q⟩ = .next ⟨e, q⟩ ∧
         (let r := e.part n.val
          r.st = (if p.short then 3 else 1) ∧ r.faulted = false ∧ r.rst = false ∧ r.rcount = (p.rcount + 1) % 65536 ∧ r.capgen = 1 ∧ r.x = Xlat.reset ∧
            r.d = Dbg.reset ∧ r.aroot = 0 ∧ r.aentry = 0 ∧ r.acore = 0 ∧ r.aerr = false ∧ r.snap = none ∧ r.pend = 2) ∧
         SMap.get 0 e.keys n.val = d.nextKey ∧ e.nextKey = d.nextKey + 1 ∧ e.serving n.val = Tng.reset ∧
         (∀ i < 64, e.queue ((n.val + 1) * 64 + i) = Queue.reset) ∧ (∀ c ∈ d.coresOf n.val, e.core c = Core.reset) ∧
         (d.wins = [] → (∀ k ∈ d.tilesOf n.val, e.tile k = Tile.clear) ∧ (∀ k, k ∉ d.tilesOf n.val → e.tile k = d.tile k) ∧
           (∀ m, m ≠ n.val → e.part m = d.part m) ∧ ∀ c, e.cmd c = d.cmd c)) ∧
     (p.st ≠ 2 → d.fab.jgo = false → exec (.partitionResetComplete n) ⟨d, q⟩ = .next ⟨d, q⟩) ∧
     (d.answers = true →
       (p.faulted = true → ∃ e, exec (.partCtlResume n) ⟨d, q⟩ = .next ⟨e, q⟩ ∧ e.part n.val = { p with faulted := false } ∧
         (∀ m, m ≠ n.val → e.part m = d.part m) ∧ e.pkg.intSum.testBit 4 = true) ∧
       (p.faulted = false → exec (.partCtlResume n) ⟨d, q⟩ = .next ⟨d, q⟩)) ∧
     (∃ e, exec (.flr 0) ⟨d, q⟩ = .next ⟨e, q⟩ ∧ (∀ c ∈ e.cmds, c.viaPf = false) ∧ (∀ i < 64, e.queue i = Queue.reset) ∧
       (∀ v < 256, SMap.get Vec.reset e.vecs v = Vec.reset) ∧ ((d.cmds.map (·.ref)).Nodup → ∀ c ∈ d.cmds, c.viaPf = false → c ∈ e.cmds))) ∧
  (∀ (n : Fin 32) (d : Dev) (v : Word) (q : List Instr),
     let p := d.part n.val
     let k := (v.extractLsb' 0 7).toNat
     d.answers = true →
     (v.getLsbD 63 = false → exec (.partAstart n v) ⟨d, q⟩ = .next ⟨d.setPart n.val fun p => { p with acore := k }, q⟩) ∧
     (v.getLsbD 63 = true → d.coreIn k = false ∨ d.coreOwner k ≠ n.val ∨ (d.core k).run = true →
       ∃ e, exec (.partAstart n v) ⟨d, q⟩ = .next ⟨e, q⟩ ∧ e.part n.val = { p with acore := k, aerr := true } ∧ e.cores = d.cores) ∧
     (∀ c : Fin 128, v.getLsbD 63 = true → c.val = k → d.coreIn k = true → d.coreOwner k = n.val → (d.core k).run = false →
       ∃ e, exec (.partAstart n v) ⟨d, q⟩ = .next ⟨e, q⟩ ∧
         (let x := e.core k
          x.run = true ∧ x.cpl = 1 ∧ x.pc = p.aentry ∧ x.ptroot = p.aroot ∧ x.ie = false ∧ x.wfi = false ∧
            ∀ i, e.reg (.anvil c) 0 false i = if i = 10 then BitVec.ofNat 64 k else 0) ∧
         (∀ j, j ≠ k → e.core j = d.core j) ∧ (e.part n.val).aerr = false ∧ (e.part n.val).acore = k ∧
         ((d.core k).cpl < 2 → d.untraced (.anvil c) → e = { d with cores := e.cores, parts := e.parts })))

/-- R246, R337: the host reaches the carve units through the PF BAR2 and a partition's memory through its VF BAR2, each read answered with the bytes it reads; a PF access outside the carve sets PFBAR2 and reads as ones, and a VF access that faults writes a record. R244, R330, R337: an invalidation takes its page count, and when it is done no cached translation of its range is left and GO is clear; the shares of a recomputation meet every floor where the bandwidth covers them, and never give out more than there is; the VF BAR2 takes a size of 2 MiB to 64 GiB while VF memory is disabled. The loss by refresh is a free value and shares are whole MB/s (log 81); where it says that nothing changes because the event cannot happen then, that is the model's choice (log 13). -/
def Obligations.HostAccessesInvalidationAndShares : Prop :=
  (∀ (d : Dev) (off : Word) (len : Nat) (bs : List Byte) (q : List Instr),
     let o := off.toNat
     let rd (f : Fin 33) : Instr := .bar2Access f off none len
     let wr (f : Fin 33) : Instr := .bar2Access f off (some bs) len
     let pf : Req := ⟨portPcie, 32, ⟨none, none⟩⟩
     (d.live = true → d.start.perstRel = true →
       (∀ u, d.carve[o / 2 ^ 30]? = some u → d.siteIn (unitSite u) = true →
         let a := unitBase u + o % 2 ^ 30
         (0 < len → o % 2 ^ 30 + len ≤ 2 ^ 30 → d.badIn [(.loc a, len)] = none →
           let r := Dev.readAll pf [(.loc a, len)] d
           exec (rd 0) ⟨d, q⟩ = .next ⟨r.1.emit (.read r.2), q⟩) ∧
         (bs ≠ [] → o % 2 ^ 30 + bs.length ≤ 2 ^ 30 → exec (wr 0) ⟨d, q⟩ = .next ⟨Dev.writeAll pf [(.loc a, bs.length)] bs d, q⟩)) ∧
       (d.carve[o / 2 ^ 30]? = none →
         (0 < len → ∃ e, exec (rd 0) ⟨d, q⟩ = .next ⟨e, q⟩ ∧ e.pkg.err.testBit 6 = true ∧ e.mem = d.mem ∧ e.out.getLast? = some (.read (List.replicate len 0xFF))) ∧
         (bs ≠ [] → ∃ e, exec (wr 0) ⟨d, q⟩ = .next ⟨e, q⟩ ∧ e.pkg.err.testBit 6 = true ∧ e.mem = d.mem)) ∧
       ∀ (n : Nat) (f : Fin 33) (l : List (Acc × Nat)) (d1 : Dev), f.val = n + 1 → (d.part n).st ≠ 0 →
         let va := (d.part n).x.bar2va.toNat * 2 ^ 21 + o
         let vf : Req := ⟨portPcie, n, ⟨none, some n⟩⟩
         (2 ^ d.start.bar2log ≤ o → exec (rd f) ⟨d, q⟩ = .next ⟨d, q⟩ ∧ exec (wr f) ⟨d, q⟩ = .next ⟨d, q⟩) ∧
         (o < 2 ^ d.start.bar2log →
           (Dev.accRange n false ⟨none, some n⟩ (pieces va len) d = (d1, .ok l) → l ≠ [] → (∀ x ∈ l, x.1.here = true) → touchesCredit l = false → d1.badIn l = none →
             let r := Dev.fetch vf l d1
             exec (rd f) ⟨d, q⟩ = .next ⟨r.1.emit (.read r.2), q⟩) ∧
           (Dev.accRange n true ⟨none, some n⟩ (pieces va bs.length) d = (d1, .ok l) → l ≠ [] → (∀ x ∈ l, x.1.here = true) → touchesCredit l = false →
             d1.refusedBy l = none → d1.badEdges l = none → exec (wr f) ⟨d, q⟩ = .next ⟨Dev.store vf l bs d1, q⟩) ∧
           ∀ a k, k ≠ 0 →
             (Dev.accRange n false ⟨none, some n⟩ (pieces va len) d = (d1, .error (a, k)) →
               ∃ e, exec (rd f) ⟨d, q⟩ = .next ⟨e, q⟩ ∧ Out.read (List.replicate len 0xFF) ∈ e.out ∧ (e.part n).pend.testBit 0 = true) ∧
             (Dev.accRange n true ⟨none, some n⟩ (pieces va bs.length) d = (d1, .error (a, k)) →
               ∃ e, exec (wr f) ⟨d, q⟩ = .next ⟨e, q⟩ ∧ (e.part n).pend.testBit 0 = true))) ∧
     (d.start.perstRel = false → ∀ f, exec (rd f) ⟨d, q⟩ = .next ⟨d, q⟩ ∧ exec (wr f) ⟨d, q⟩ = .next ⟨d, q⟩)) ∧
  (∀ (n : Fin 32) (d : Dev) (v : Word) (q : List Instr),
     let x := (d.part n.val).x
     let np := (v.extractLsb' 0 32).toNat
     (d.answers = true → ∃ e, exec (.xlatInvalidate n v) ⟨d, q⟩ = .next ⟨e, q⟩ ∧ e = { d with parts := e.parts } ∧ (∀ m, m ≠ n.val → e.part m = d.part m) ∧
       (v.getLsbD 63 = false ∨ x.go = true → (e.part n.val).x = { x with npages := np }) ∧
       (v.getLsbD 63 = true → x.go = false → (e.part n.val).x.go = true ∧ (e.part n.val).x.npages = np ∧ (e.part n.val).x.tlb = x.tlb)) ∧
     (d.live = true → x.go = true → (∀ r ∈ x.goRows, ∀ c, d.cmd r.1 = some c → ∀ b ∈ c.move.bufs, b.row ≠ r.2) → (∀ t ∈ x.goTids, ∀ a ∈ d.fab.waits, a.tid ≠ t) →
       ∃ e, exec (.xlatInvalidateDone n) ⟨d, q⟩ = .next ⟨e, q⟩ ∧ (e.part n.val).x.go = false ∧
         (∀ k w, (k, w) ∈ (e.part n.val).x.tlb ↔
           (k, w) ∈ x.tlb ∧ ¬(x.npages = 0 ∨ (x.invva.toNat ≤ k % 2 ^ 36 ∧ k % 2 ^ 36 < x.invva.toNat + x.npages))) ∧
         (∀ m, m ≠ n.val → e.part m = d.part m) ∧ e.pkg.intSum.testBit 7 = true) ∧
     (x.go = false → exec (.xlatInvalidateDone n) ⟨d, q⟩ = .next ⟨d, q⟩) ∧
     (d.live = true →
       let loss := (Config.free d.fi).toNat % 41
       let avail := ((((List.range 24).map fun s => (false, s)) ++ (List.range 40).map fun s => (true, s)).map fun s => d.siteRate loss s).sum
       let some_ := (List.range 32).filter d.st.en
       ∃ e, exec .shareRecompute ⟨d, q⟩ = .next ⟨e, q⟩ ∧ e = { d with pwr := e.pwr, fi := d.fi + 1 } ∧
         (let share := fun m => SMap.get 0 e.pwr.shares m
          ((List.range 32).map share).sum ≤ avail ∧ (∀ m ∈ some_, share m ≤ 1000 * d.st.bwfloor m) ∧ (∀ m, m ∉ some_ → share m = 0) ∧
            ((some_.map fun m => 1000 * d.st.bwfloor m).sum ≤ avail → ∀ m ∈ some_, share m = 1000 * d.st.bwfloor m))) ∧
     (∀ log mse, ∃ e, exec (.vfBar2SizeWrite log mse) ⟨d, q⟩ = .next ⟨e, q⟩ ∧ e = { d with start := e.start } ∧ e.start.vfMse = mse ∧
       (d.answers = true → mse = false → 21 ≤ log → log ≤ 36 → e.start.bar2log = log) ∧
       (d.answers = false ∨ mse = true ∨ log < 21 ∨ 36 < log → e.start.bar2log = d.start.bar2log)))

/-! ### Credit windows, the Hearth and scrubbing (R198, R200 to R203, R212, R228, R234, R398) -/

/-- R201 to R203: every operation of a credit counter keeps its window sound: what is outstanding is what has been granted and has not landed, and never more than what is taken, which never exceeds LEN, and an enabled window lies within its receiver. -/
def Obligations.CreditWindowsStaySound : Prop :=
  (∀ room, Win.off.sound room) ∧ (∀ k, (winReset k).sound (winRoom k)) ∧
  ∀ (w : Win) (room : Nat), w.sound room →
    (∀ fixed v, (w.cfgWrite room fixed v).1.sound room) ∧ (∀ r, (w.request r).1.sound room) ∧ (∀ held, (w.grant held).sound room) ∧
    w.land.1.sound room ∧ ∀ n, (w.release n).sound room

/-- R198, R200 to R203: a credited write asks its window, which refuses it with PERMISSION_FAULT where it is disabled or too small; the oldest request is granted once FREE covers it; ingress credits are granted within the sender's and the receiver's bounds; a granted row whose bytes and credits are there lands, its bytes at its granules, and LANDED counts it. R200, R201, R203: a CFG write of a window that may be configured takes EN, LEN and BASE at once where nothing is outstanding and later otherwise, and one that does not fit its receiver only sets BADCFG; a release gives back at most what has landed, and sets BADREL where it asked for more. That only credited rows hold ingress credits between events is the model's choice (log 61); where it says that nothing changes because the event cannot happen then, that is the model's choice (log 13). -/
def Obligations.CreditWindowsGrantLandAndRelease : Prop :=
  (∀ (d : Dev) (q : List Instr),
     d.live = true →
     (∀ (r : CmdRef) (c : Cmd) b a n rest k, d.cmd r = some c → c.phase = .running → c.dkind = true → c.move.bufs.find? (fun b => !b.asked) = some b → b.read = true →
       b.dst = (.loc a, n) :: rest →
       ((∃ bk t o, place a = .store bk t o ∧ k = tileWin (tKey bk t) (c.f 0x30 45 43)) ∨ ∃ o, place a = .yard o ∧ k = yardWin (o / 2 ^ 24) (c.f 0x30 45 43)) →
       ((d.win k).en = true → granules c.rowLen ≤ (d.win k).len →
         ∃ e, exec (.creditedWriteRequest r) ⟨d, q⟩ = .next ⟨e, q⟩ ∧ e = { d with wins := e.wins, cmds := e.cmds } ∧ (∀ j, j ≠ k → e.win j = d.win j) ∧
           e.win k = { d.win k with queue := (d.win k).queue ++ [⟨.cmd r b.row, c.rowLen, b.data, 0, false⟩] }) ∧
       ((d.win k).en = false ∨ (d.win k).len < granules c.rowLen →
         exec (.creditedWriteRequest r) ⟨d, q⟩ = .next ⟨d.rowStop r b.row 0x11, q⟩)) ∧
     (∀ r : CmdRef, (∀ c, d.cmd r = some c → ∀ b ∈ c.move.bufs, b.asked = true) → exec (.creditedWriteRequest r) ⟨d, q⟩ = .next ⟨d, q⟩) ∧
     (∀ (wr : WinRef) x rest, let w := d.win wr.key
       w.queue = x :: rest →
       let g := granules x.bytes
       (w.en = true → w.cfg = none → g ≤ w.len - w.taken →
         (∀ t i, wr = .tile t i → i.val < 4 → ∀ j < g, (d.tile t.key).heldAt (2 ^ i.val) true (256 * ((w.tp + j) % 96)) 256 = false) →
         ∃ e, exec (.creditGrant wr) ⟨d, q⟩ = .next ⟨e, q⟩ ∧ (∀ j, j ≠ wr.key → e.win j = d.win j) ∧
           e.win wr.key = { w with queue := rest, granted := w.granted ++ [{ x with start := w.tp }], tp := (w.tp + g) % w.len, taken := w.taken + g, outst := w.outst + g } ∧
           e.tiles = d.tiles ∧ e.mem = d.mem ∧ e.cmds = d.cmds) ∧
       (w.en = false ∨ w.cfg.isSome = true ∨ w.len - w.taken < g → exec (.creditGrant wr) ⟨d, q⟩ = .next ⟨d, q⟩)) ∧
     (∀ rcv snd n : Nat,
       let key := rcv * 65536 + snd
       let held := SMap.get 0 d.ingr key
       let fits := snd < 65536 ∧ held + n ≤ min 16 (d.ingrDemand rcv snd) ∧
         ((d.ingr.filter fun e => e.1 / 65536 = rcv).map (·.2)).sum + n ≤ if rcv < 64 then 256 else 64
       (fits → ∃ e, exec (.ingressCreditGrant rcv snd n) ⟨d, q⟩ = .next ⟨e, q⟩ ∧ e = { d with ingr := e.ingr } ∧
         SMap.get 0 e.ingr key = held + n ∧ ∀ j, j ≠ key → SMap.get 0 e.ingr j = SMap.get 0 d.ingr j) ∧
       (¬fits → exec (.ingressCreditGrant rcv snd n) ⟨d, q⟩ = .next ⟨d, q⟩)) ∧
     (∀ (wr : WinRef) x rest, let k := wr.key
       let w := d.win k
       w.granted = x :: rest →
       let credits := ∀ y ∈ rowNeeds k w x, y.2 ≤ SMap.get 0 d.ingr (y.1 * 65536 + d.sender x.who)
       (x.written = false → x.bytes ≤ x.data.length → credits → d.lit (winAddr k) = true → d.landEdge k w x = none → w.cfg = none →
         let b := d.landBytes k w x
         ∃ e, exec (.rowLands wr) ⟨d, q⟩ = .next ⟨e, q⟩ ∧ e.tiles = b.tiles ∧ e.mem = b.mem ∧ (∀ j, j ≠ k → e.win j = d.win j) ∧
           e.win k = { w with granted := rest, landed := (w.landed + 1) % 2 ^ 32, outst := w.outst - granules x.bytes } ∧
           (∀ t i, wr = .tile t i → 4 ≤ i.val → x.bytes ≤ 256 * max 1 w.len →
             ∀ n < x.bytes, SMap.get 0 (e.tile t.key).store (w.byteAt x.start n) = nthD 0 x.data n) ∧
           (∀ u i, wr = .yard u i → x.bytes ≤ 256 * max 1 w.len →
             ∀ n < x.bytes, SMap.get 0 e.mem.yard (u.val * 2 ^ 24 + w.byteAt x.start n) = nthD 0 x.data n)) ∧
       (x.written = false → x.data.length < x.bytes ∨ ¬credits → exec (.rowLands wr) ⟨d, q⟩ = .next ⟨d, q⟩)) ∧
     (∀ wr : WinRef, (d.win wr.key).granted = [] → exec (.rowLands wr) ⟨d, q⟩ = .next ⟨d, q⟩) ∧
     (∀ wr : WinRef, (d.win wr.key).queue = [] → exec (.creditGrant wr) ⟨d, q⟩ = .next ⟨d, q⟩)) ∧
  (∀ (wr : WinRef) (v : Word) (d : Dev) (q : List Instr),
     let w := d.win wr.key
     let fixed := ∃ t i, wr = .tile t i ∧ i.val < 4
     let base := (v.extractLsb' 0 16).toNat
     let len := (v.extractLsb' 16 16).toNat
     let en := v.getLsbD 63
     d.answers = true →
     (w.queue = [] → ∃ e, exec (.creditCfgWrite wr v) ⟨d, q⟩ = .next ⟨e, q⟩ ∧ e = { d with wins := e.wins } ∧ (∀ j, j ≠ wr.key → e.win j = d.win j) ∧
       let x := e.win wr.key
       (fixed → x = w) ∧
       (¬fixed → en = true → len = 0 ∨ winRoom wr.key < base + len → x = { w with badcfg := true }) ∧
       (¬fixed → (en = false ∨ (len ≠ 0 ∧ base + len ≤ winRoom wr.key)) →
         (w.outst = 0 → x = { w with en := en, len := len, base := base, landed := 0, rp := 0, tp := 0, taken := 0, cfg := none }) ∧
         (w.outst ≠ 0 → x = { w with en := w.en && en, cfg := some v }))) ∧
     (let n := (v.extractLsb' 0 16).toNat
      let back := min n (w.taken - w.outst)
      ∃ e, exec (.creditRelease wr v) ⟨d, q⟩ = .next ⟨e, q⟩ ∧ e = { d with wins := e.wins, hang := e.hang } ∧ (∀ j, j ≠ wr.key → e.win j = d.win j) ∧
        e.win wr.key = { w with rp := if w.len = 0 then 0 else (w.rp + back) % w.len, taken := w.taken - back, badrel := w.badrel || decide (back < n) }))

/-- R212, R228, R234, R398: FLUSH is set, and when the write-back is done no Hearth line is dirty and it clears; PRED_CLR clears the predictors; a corrected block of a scrub is recorded and an uncorrectable error poisons its line, and a site past its error rate leaves service. How errors are counted and where a scrub's poison goes are the model's readings (logs 28 and 80); where it says that nothing changes because the event cannot happen then, that is the model's choice (log 13). -/
def Obligations.HearthFlushAndScrub : Prop :=
  ∀ (d : Dev) (q : List Instr),
    (d.answers = true →
      exec .hearthFlush ⟨d, q⟩ = .next ⟨{ d with mem := { d.mem with flush := true } }, q⟩ ∧
      exec .predClr ⟨d, q⟩ = .next ⟨{ d with mem := { d.mem with pred := [] } }, q⟩) ∧
    (d.live = true → d.mem.flush = true → ∃ e, exec .hearthFlushDone ⟨d, q⟩ = .next ⟨e, q⟩ ∧ e.mem = { d.mem with flush := false, hearth := e.mem.hearth } ∧
      (∀ x ∈ e.mem.hearth, x.2.dirty = false) ∧ (e.mem.hearth.map fun x => (x.1, x.2.line, x.2.kid, x.2.locked)) = (d.mem.hearth.map fun x => (x.1, x.2.line, x.2.kid, x.2.locked)) ∧
      e.pkg.intSum.testBit 7 = true) ∧
    (d.mem.flush = false → exec .hearthFlushDone ⟨d, q⟩ = .next ⟨d, q⟩) ∧
    (∀ (deep : Bool) (site : Fin 40) (block : Nat), d.live = true → d.siteIn (deep, site.val) = true →
      (place (64 * block) = if deep then .dtier site.val else .ftier site.val) →
      let key := (if deep then 64 else 0) + site.val
      (exec (.scrub deep site block .clean) ⟨d, q⟩ = .next ⟨d, q⟩) ∧
      (∃ e, exec (.scrub deep site block .corrected) ⟨d, q⟩ = .next ⟨e, q⟩ ∧ e.corr = d.corr ++ [(key, block, d.now)] ∧
        (let past := 1024 < errorsIn (d.corr ++ [(key, block, d.now)]) key d.now 3600000000000 ∨ 8 ≤ errorsIn d.uncorr key d.now 86400000000000
         (past → e.siteIn (deep, site.val) = false) ∧ (¬past → e.un = d.un ∧ e.mem = d.mem))) ∧
      (∃ e, exec (.scrub deep site block .uncorrectable) ⟨d, q⟩ = .next ⟨e, q⟩ ∧ e.uncorr = d.uncorr ++ [(key, block / 2, d.now)] ∧
        (let past := 1024 < errorsIn d.corr key d.now 3600000000000 ∨ 8 ≤ errorsIn (d.uncorr ++ [(key, block / 2, d.now)]) key d.now 86400000000000
         (past → e.siteIn (deep, site.val) = false) ∧
         (¬past → e.un = d.un ∧ SMap.get 0 e.mem.poison (block / 2) = 1 ∧ ∀ l, l ≠ block / 2 → SMap.get 0 e.mem.poison l = SMap.get 0 d.mem.poison l)))) ∧
    (∀ (deep : Bool) (site : Fin 40) (block : Nat) r, d.siteIn (deep, site.val) = false → exec (.scrub deep site block r) ⟨d, q⟩ = .next ⟨d, q⟩)

/-! ### The management port (R236, R296 to R298, R304, R378, R386, R402, R404, R405, R407, R410 to R414) -/

/-- R386, R399, R402, R404, R410, R411, R413: a repeated request gets its old answer and a wrong VER BADMSG; CAP_SET takes caps of 35 to 100 and slopes of 25 to 1,000, at once or, in a quench, for later; CAP_GET tells them; QUENCH quenches a running package; RELEASE ends a hold whose causes have cleared; TEL_SUB keeps at most four subscribers, and a report goes to its subscriber. The status of a fifth subscriber is the model's choice (log 101), the answer to a stored CAP_SET its reading (log 102), the bytes of a TELEMETRY record log 30; where it says that nothing changes because the event cannot happen then, that is the model's choice (log 13). -/
def Obligations.CapsQuenchesAndTelemetryAreAnswered : Prop :=
  ∀ (h : BmpHdr) (d : Dev) (q : List Instr),
    (∀ (x : Nat × Nat × Out), d.start.stage ≠ .off → d.pwr.osc = false → d.bell.seen.find? (fun e => e.1 = h.src && e.2.1 == h.seq.toNat && decide (d.now < e.2.2.1 + 1000000000)) = some (h.src, x) →
      exec (.capGet h) ⟨d, q⟩ = .next ⟨d.emit x.2.2, q⟩ ∧ exec (.quench h) ⟨d, q⟩ = .next ⟨d.emit x.2.2, q⟩) ∧
    (d.start.stage ≠ .off → d.pwr.osc = false → h.ver ≠ 1 → (∀ e ∈ d.bell.seen, e.1 = h.src → e.2.1 = h.seq.toNat → e.2.2.1 + 1000000000 ≤ d.now) →
      ∃ e, exec (.capGet h) ⟨d, q⟩ = .next ⟨e, q⟩ ∧ Dev.answered e d 0x02 h 3 []) ∧
    (d.heard h true →
      (∃ e, exec (.capGet h) ⟨d, q⟩ = .next ⟨e, q⟩ ∧ Dev.answered e d 0x02 h 0 d.capBody) ∧
      (∀ (cap : BitVec 8) (slope : BitVec 16),
        let good := (cap.toNat = 0 ∨ (35 ≤ cap.toNat ∧ cap.toNat ≤ 100)) ∧ (slope.toNat = 0 ∨ (25 ≤ slope.toNat ∧ slope.toNat ≤ 1000))
        let later := d.pwr.q ≠ 0 ∨ d.start.stage = .aon ∨ d.start.stage = .halted
        let x : Dev := { d with bell := { d.bell with capSrc := some h.src } }
        (¬good → ∃ e, exec (.capSet h cap slope) ⟨d, q⟩ = .next ⟨e, q⟩ ∧ Dev.answered e d 0x01 h 3 []) ∧
        (good → ¬later → ∃ e y, exec (.capSet h cap slope) ⟨d, q⟩ = .next ⟨e, q⟩ ∧ Dev.answered e { x with pwr := y } 0x01 h 0 (Dev.capBody { x with pwr := y }) ∧
          y.cap = (if cap.toNat = 0 then d.pwr.cap else cap.toNat) ∧ y.slope = (if slope.toNat = 0 then d.pwr.slope else slope.toNat) ∧
          y.stored = none ∧ (cap.toNat ≠ 0 → cap.toNat < d.pwr.cap → d.pwr.step ≤ 49 → clampStep d.var cap.toNat ≤ y.step)) ∧
        (good → later → ∃ e y, exec (.capSet h cap slope) ⟨d, q⟩ = .next ⟨e, q⟩ ∧ Dev.answered e { x with pwr := y } 0x01 h 0 (Dev.capBody { x with pwr := y }) ∧
          y = { d.pwr with stored := some (if cap.toNat = 0 then (d.pwr.stored.getD (0, 0)).1 else cap.toNat, if slope.toNat = 0 then (d.pwr.stored.getD (0, 0)).2 else slope.toNat) })) ∧
      (d.pwr.rails = true → d.pwr.q = 0 → d.start.stage = .ready →
        ∃ e x, exec (.quench h) ⟨d, q⟩ = .next ⟨e, q⟩ ∧ Dev.answered e x 0x03 h 0 [] ∧ x.pwr.q = 2 ∧ x.pwr.qcause = 2 ∧
          x.pwr.hold = some (d.now + 1000000 * d.st.qhold) ∧ x.live = false ∧ x.pwr.alert = true) ∧
      (d.pwr.q ≠ 0 ∨ d.pwr.rails = false → ∃ e, exec (.quench h) ⟨d, q⟩ = .next ⟨e, q⟩ ∧ Dev.answered e d 0x03 h 0 []) ∧
      ((∀ t, d.pwr.hold = some t → d.now < t) →
        (d.pwr.q = 2 → d.causeClear = true → ∃ e x, exec (.release h) ⟨d, q⟩ = .next ⟨e, q⟩ ∧ Dev.answered e x 0x04 h 0 [] ∧
          x.pwr.q = 0 ∧ x.pwr.qcause = 0 ∧ x.pwr.qcause2 = 0 ∧ x.pwr.hold = none) ∧
        (d.pwr.q ≠ 2 ∨ d.causeClear = false → ∃ e, exec (.release h) ⟨d, q⟩ = .next ⟨e, q⟩ ∧ Dev.answered e d 0x04 h 2 []))) ∧
    (d.heard h false → ∀ ms (dst : BitVec 144),
      let others := d.bell.subs.filter fun s => s.1 ≠ dst
      let rest (l : List (BitVec 144 × Nat × Nat)) : Dev := { d with bell := { d.bell with subs := l } }
      (1000 < ms → ∃ e, exec (.telSub h ms dst) ⟨d, q⟩ = .next ⟨e, q⟩ ∧ Dev.answered e d 0x08 h 3 []) ∧
      (ms = 0 → ∃ e, exec (.telSub h ms dst) ⟨d, q⟩ = .next ⟨e, q⟩ ∧ Dev.answered e (rest others) 0x08 h 0 []) ∧
      (1 ≤ ms → ms ≤ 1000 → 4 ≤ others.length → ∃ e, exec (.telSub h ms dst) ⟨d, q⟩ = .next ⟨e, q⟩ ∧ Dev.answered e d 0x08 h 2 []) ∧
      (1 ≤ ms → ms ≤ 1000 → others.length < 4 → ∃ e l, exec (.telSub h ms dst) ⟨d, q⟩ = .next ⟨e, q⟩ ∧ Dev.answered e (rest l) 0x08 h 0 [] ∧
        (dst, ms, ms) ∈ l ∧ l.filter (fun s => s.1 ≠ dst) = others)) ∧
    (∀ (i : Nat) s, d.bell.subs[i]? = some s → d.bellowsUp = true → d.pwr.osc = false →
      ∃ e, exec (.telemetry i) ⟨d, q⟩ = .next ⟨e, q⟩ ∧ e.out = d.out ++ [.telemetry s.1 d.telBody] ∧ (e.bell.subs.map fun s => (s.1, s.2.1)) = d.bell.subs.map fun s => (s.1, s.2.1)) ∧
    (∀ i, d.bell.subs[i]? = none → exec (.telemetry i) ⟨d, q⟩ = .next ⟨d, q⟩)

/-- R236, R296 to R298, R304, R405, R407, R411, R412: SLOT_WRITE refuses what does not fit, SLOT_READ reads a slot, FW_WRITE writes the copy that does not run, KEY_INSTALL takes a key, where there is none or the old one signed it, SPDM answers as the open protocol does, LOOPBACK tells of a free site, LOG_READ reads up to 50 events; at shed level 2 SLOT_WRITE and SLOT_READ are BUSY. What a key install signs is the model's choice (log 5), the factory slot's bytes and SPDM's answers are open (logs 6 and 7), and the bytes of a log record are log 30. -/
def Obligations.SlotsFirmwareAndKeysAreWritten : Prop :=
  ∀ (h : BmpHdr) (d : Dev) (bs : List Byte) (off len : Nat) (b : Bool) (q : List Instr),
    let slot := if b then Slot.b else Slot.a
    let auth := d.st.mgmtSpdm = false ∨ d.bell.auth = true
    d.heard h false →
    (2 ≤ d.pkg.level →
      let x : Dev := { d with pkg := { d.pkg with busys := min 65535 (d.pkg.busys + 1) } }
      (∃ e, exec (.slotWrite h slot off bs) ⟨d, q⟩ = .next ⟨e, q⟩ ∧ Dev.answered e x 0x10 h 1 []) ∧
      (∃ e, exec (.slotRead h slot off len) ⟨d, q⟩ = .next ⟨e, q⟩ ∧ Dev.answered e x 0x11 h 1 [])) ∧
    (d.pkg.level < 2 →
      (¬auth → (∃ e, exec (.slotWrite h slot off bs) ⟨d, q⟩ = .next ⟨e, q⟩ ∧ Dev.answered e d 0x10 h 4 []) ∧
        ∃ e, exec (.bootsel h slot) ⟨d, q⟩ = .next ⟨e, q⟩ ∧ Dev.answered e d 0x12 h 4 []) ∧
      (auth → 1024 < bs.length ∨ 2 ^ 24 < off + bs.length → ∃ e, exec (.slotWrite h slot off bs) ⟨d, q⟩ = .next ⟨e, q⟩ ∧ Dev.answered e d 0x10 h 3 []) ∧
      (len ≤ 1024 → off + len ≤ 2 ^ 24 →
        (∃ e, exec (.slotRead h slot off len) ⟨d, q⟩ = .next ⟨e, q⟩ ∧ Dev.answered e d 0x11 h 0 ((List.range len).map fun i => d.flash.slotByte b (off + i))) ∧
        ∃ e, exec (.slotRead h .factory off len) ⟨d, q⟩ = .next ⟨e, q⟩ ∧ Dev.answered e d 0x11 h 0 ((List.range len).map fun i => factoryAt d.var (off + i))) ∧
      (bs.length ≤ 1024 → off + bs.length ≤ 0x1F80000 → ∃ e f, exec (.fwWrite h off bs) ⟨d, q⟩ = .next ⟨e, q⟩ ∧ Dev.answered e { d with flash := f } 0x14 h 0 [] ∧
        (d.bell.fwcopy = false → f = { d.flash with fw1 := f.fw1 } ∧ placed 0xFF d.flash.fw1 f.fw1 off bs) ∧
        (d.bell.fwcopy = true → f = { d.flash with fw0 := f.fw0 } ∧ placed 0xFF d.flash.fw0 f.fw0 off bs)) ∧
      (∀ (deep : Bool) (site : Fin 40) pass,
        (d.siteIn (deep, site.val) = false → ∃ e, exec (.loopback h deep site pass) ⟨d, q⟩ = .next ⟨e, q⟩ ∧ Dev.answered e d 0x21 h 5 []) ∧
        (d.siteIn (deep, site.val) = true → (∃ u ∈ siteUnits (deep, site.val), d.town u ≠ 0xFF) →
          ∃ e, exec (.loopback h deep site pass) ⟨d, q⟩ = .next ⟨e, q⟩ ∧ Dev.answered e d 0x21 h 2 []) ∧
        (d.siteIn (deep, site.val) = true → (∀ u ∈ siteUnits (deep, site.val), d.town u = 0xFF) →
          ∃ e, exec (.loopback h deep site pass) ⟨d, q⟩ = .next ⟨e, q⟩ ∧ Dev.answered e d 0x21 h 0 [if pass then 1 else 0])) ∧
      (∃ e, exec (.logRead h off len) ⟨d, q⟩ = .next ⟨e, q⟩ ∧
        Dev.answered e d 0x22 h 0 (((d.flash.log.drop off).take (min len 50)).flatMap fun e => bytesOf 8 e.1 ++ bytesOf 8 e.2.1 ++ bytesOf 8 e.2.2.toNat))) ∧
    (∀ (key : BitVec 256),
      let ok := ∀ k, d.flash.key = some k → Config.ed25519Verifies k (bytesOf 32 key.toNat) bs = true
      (ok → ∃ e, exec (.keyInstall h key bs) ⟨d, q⟩ = .next ⟨e, q⟩ ∧ Dev.answered e { d with flash := { d.flash with key := some key } } 0x18 h 0 []) ∧
      (¬ok → ∃ e, exec (.keyInstall h key bs) ⟨d, q⟩ = .next ⟨e, q⟩ ∧ Dev.answered e d 0x18 h 2 [])) ∧
    (let n := d.bell.spdm
     ∃ e, exec (.spdm h bs) ⟨d, q⟩ = .next ⟨e, q⟩ ∧
       Dev.answered e { d with bell := { d.bell with spdm := n + 1, auth := Config.spdmAuthenticates n bs } } 0x19 h 0 (Config.spdmResponse n bs))

/-- R298: a write to the primary slot is refused and leaves flash as it was; one to the other slot places its bytes there and nowhere else; BOOTSEL makes a slot that passes every check primary and refuses any other; and no step of the machine, whatever the command, changes a byte of the slot that is primary when it begins. -/
def Obligations.PrimarySlotIsNeverWritten : Prop :=
  (∀ (h : BmpHdr) (d : Dev) (bs : List Byte) (off : Nat) (b : Bool) (q : List Instr),
    let slot := if b then Slot.b else Slot.a
    let auth := d.st.mgmtSpdm = false ∨ d.bell.auth = true
    d.heard h false →
    (d.flash.primary = b → ∃ e x st, exec (.slotWrite h slot off bs) ⟨d, q⟩ = .next ⟨e, q⟩ ∧ Dev.answered e x 0x10 h st [] ∧ st ≠ 0 ∧ e.flash = d.flash) ∧
    (d.pkg.level < 2 → auth →
      (bs.length ≤ 1024 → off + bs.length ≤ 2 ^ 24 →
        (d.flash.primary = b → ∃ e, exec (.slotWrite h slot off bs) ⟨d, q⟩ = .next ⟨e, q⟩ ∧ Dev.answered e d 0x10 h 2 []) ∧
        (d.flash.primary = !b → ∃ e f, exec (.slotWrite h slot off bs) ⟨d, q⟩ = .next ⟨e, q⟩ ∧ Dev.answered e { d with flash := f } 0x10 h 0 [] ∧
          f = { d.flash with slotA := f.slotA, slotB := f.slotB } ∧ f.slot (!b) = d.flash.slot (!b) ∧ placed 0xFF (d.flash.slot b) (f.slot b) off bs)) ∧
      (∀ r, d.checkSlot b = .error r → ∃ e, exec (.bootsel h slot) ⟨d, q⟩ = .next ⟨e, q⟩ ∧ Dev.answered e d 0x12 h 2 []) ∧
      (∀ r, d.checkSlot b = .ok r → ∃ e f, exec (.bootsel h slot) ⟨d, q⟩ = .next ⟨e, q⟩ ∧ Dev.answered e { d with flash := f } 0x12 h 0 [] ∧
        f = { d.flash with boot0 := f.boot0, boot1 := f.boot1 } ∧ f.primary = b))) ∧
  (∀ s s' : State, step s = .next s' → s'.dev.flash.slot s.dev.flash.primary = s.dev.flash.slot s.dev.flash.primary)

/-- R320 to R322, R407, R408, R414, R483: a partial image is checked, by the driver's path or by messages, then refused, or applied with the reset of its target; RESET begins the reset it names; the shed level rises and falls with the load; a watchdog expiry of a ready package fails the Bellows, and a warm reset follows once the queues are empty or 10 s have passed. The status of RESET COLD when halted is the model's choice (log 101); where it says that nothing changes because the event cannot happen then, that is the model's choice (log 13). -/
def Obligations.PartialImagesResetsAndShedding : Prop :=
  ∀ (h : BmpHdr) (d : Dev) (q : List Instr),
    (d.answers = true → d.img.pstate ≠ 1 → d.img.pstate ≠ 2 →
      let a := (d.img.paddr.extractLsb' 3 45).toNat * 8
      let n := d.img.plen
      (n < 68 ∨ 65536 < n → ∃ e, exec .imgPctlGo ⟨d, q⟩ = .next ⟨e, q⟩ ∧ e.img.pstate = 1 ∧ e.img.go = true ∧ e.img.pcheck = some ⟨0x0C, 0x03, 0⟩) ∧
      (68 ≤ n → n ≤ 65536 → d.inCarve a n = true →
        let r := d.read ⟨portBellows, 32, ⟨none, none⟩⟩ a n
        exec .imgPctlGo ⟨d, q⟩ = .next ⟨r.1.partialBegin false (.ok r.2), q⟩ ∧ (r.1.partialBegin false (.ok r.2)).img.pstate = 1)) ∧
    (d.img.pstate = 1 ∨ d.img.pstate = 2 → exec .imgPctlGo ⟨d, q⟩ = .next ⟨d, q⟩) ∧
    (d.live = true → d.bell.failedAt = none → d.img.pstate = 1 →
      (∀ x, d.img.pcheck = some x → ∃ e, exec .partialApply ⟨d, q⟩ = .next ⟨e, q⟩ ∧ e.img.pstate = 4 ∧ e.img.go = false ∧ e.img.preason = x.reason ∧
        e.img.psection = x.sec ∧ e.img.poffset = x.off ∧ e.img.st = d.img.st ∧ e.parts = d.parts) ∧
      (d.img.pcheck = none → (d.part d.img.ptarget).st = 1 ∨ (d.part d.img.ptarget).st = 3 → ∃ e, exec .partialApply ⟨d, q⟩ = .next ⟨e, q⟩ ∧
        e.img.pstate = 2 ∧ (e.part d.img.ptarget).st = 2 ∧ (e.part d.img.ptarget).reason = 3)) ∧
    (∀ st, d.live = true → d.bell.failedAt = none → d.img.pstate = 2 → d.img.next = some st → (d.partialRoles st d.img.ptarget).all (fun e => d.roleReady e.1) = true →
      ∃ e, exec .partialImageDone ⟨d, q⟩ = .next ⟨e, q⟩ ∧ e.img.pstate = 3 ∧ e.img.go = false ∧ e.img.st = st ∧
        (e.part d.img.ptarget).st = (if st.en d.img.ptarget = true then 1 else 0) ∧ (e.part d.img.ptarget).capgen = 1 ∧ (e.part d.img.ptarget).faulted = false) ∧
    (d.img.pstate ≠ 2 → d.fab.jgo = false → exec .partialImageDone ⟨d, q⟩ = .next ⟨d, q⟩) ∧
    (d.heard h false → ∀ bs : List Byte, ∀ off : Nat,
      let auth := d.st.mgmtSpdm = false ∨ d.bell.auth = true
      let buf := SMap.putBytes 0 (if off = 0 then [] else d.bell.pbuf) off bs
      (¬auth → ∀ last, ∃ e, exec (.partialMsg h off bs last) ⟨d, q⟩ = .next ⟨e, q⟩ ∧ Dev.answered e d 0x13 h 4 []) ∧
      (auth → d.img.pstate = 1 ∨ d.img.pstate = 2 → ∀ last, ∃ e, exec (.partialMsg h off bs last) ⟨d, q⟩ = .next ⟨e, q⟩ ∧ Dev.answered e d 0x13 h 1 []) ∧
      (auth → d.img.pstate ≠ 1 → d.img.pstate ≠ 2 → bs.length ≤ 1024 →
        (∃ e, exec (.partialMsg h off bs false) ⟨d, q⟩ = .next ⟨e, q⟩ ∧ Dev.answered e { d with bell := { d.bell with pbuf := buf } } 0x13 h 0 [BitVec.ofNat 8 d.img.pstate]) ∧
        (d.start.stage = .ready → ∃ e x, exec (.partialMsg h off bs true) ⟨d, q⟩ = .next ⟨e, q⟩ ∧ Dev.answered e x 0x13 h 0 [1] ∧
          x = Dev.partialBegin { d with bell := { d.bell with pbuf := [] } } true (.ok (SMap.bytes 0 buf 0 (off + bs.length)))))) ∧
    (d.heard h false →
      (d.start.stage = .halted → ∃ e, exec (.resetMsg h .cold) ⟨d, q⟩ = .next ⟨e, q⟩ ∧ Dev.answered e d 0x20 h 2 []) ∧
      (d.start.stage = .ready → ∃ e, exec (.resetMsg h .cold) ⟨d, q⟩ = .next ⟨e, q⟩ ∧ e.start.stage = .aon ∧ e.start.cause = 0x12 ∧ e.pwr.rails = false ∧ e.parts = [] ∧ e.cmds = []) ∧
      (d.start.stage = .ready → d.pickFw.isSome = true → ∃ e, exec (.resetMsg h .warm) ⟨d, q⟩ = .next ⟨e, q⟩ ∧ e.start.stage = .warm ∧ e.pkg.cause = 1 ∧ e.pkg.warm = true ∧
        e.pkg.warmcnt = (d.pkg.warmcnt + 1) % 65536 ∧ e.parts = [] ∧ e.cmds = [] ∧ e.mem.dram = d.mem.dram) ∧
      (d.start.stage = .ready → ∀ n : Fin 32,
        ((d.part n.val).st = 0 → ∃ e, exec (.resetMsg h (.partition n)) ⟨d, q⟩ = .next ⟨e, q⟩ ∧ Dev.answered e d 0x20 h 5 []) ∧
        ((d.part n.val).st = 1 ∨ (d.part n.val).st = 3 → ∃ e, exec (.resetMsg h (.partition n)) ⟨d, q⟩ = .next ⟨e, q⟩ ∧ (e.part n.val).st = 2 ∧ (e.part n.val).reason = 6)) ∧
      (∀ tag scope, tag.toNat = 0 ∨ scope.toNat = 3 → ∃ e, exec (.resetMsg h (.job tag scope)) ⟨d, q⟩ = .next ⟨e, q⟩ ∧ Dev.answered e d 0x20 h 2 []) ∧
      (∀ tag : BitVec 16, d.start.stage = .ready → tag.toNat ≠ 0 → ∃ e, exec (.resetMsg h (.job tag 0)) ⟨d, q⟩ = .next ⟨e, q⟩ ∧
        ∀ n < 32, d.st.jobtag n = tag.toNat → (d.part n).st = 1 ∨ (d.part n).st = 3 → (e.part n).st = 2 ∧ (e.part n).reason = 6)) ∧
    (d.pkg.failed = false → ∀ load a b, ∃ e, exec (.shedLevelUpdate load a b) ⟨d, q⟩ = .next ⟨e, q⟩ ∧
      let up := if a then 3 else if 85 ≤ load then 2 else if 70 ≤ load then 1 else 0
      e.pkg.level = (if d.pkg.level < up then up else if b then d.pkg.level - 1 else d.pkg.level) ∧ e.pkg.load = min 100 load ∧
        e.pkg.maxlevel = max d.pkg.maxlevel e.pkg.level ∧ e.pkg.failed = false ∧ e.cmds = d.cmds ∧ e.parts = d.parts) ∧
    (d.answers = true → ∀ v : Word, exec (.bellowsLoadWrite v) ⟨d, q⟩ = .next ⟨{ d with pkg := { d.pkg with
      agains := if (v.extractLsb' 48 16).toNat = 0 then 0 else d.pkg.agains, busys := if (v.extractLsb' 32 16).toNat = 0 then 0 else d.pkg.busys,
      maxlevel := if (v.extractLsb' 2 2).toNat = 0 then d.pkg.level else d.pkg.maxlevel } }, q⟩) ∧
    (d.start.stage = .ready → d.bell.failedAt = none → ∃ e, exec .watchdogExpiry ⟨d, q⟩ = .next ⟨e, q⟩ ∧ e.pkg.failed = true ∧ e.bell.failedAt = some d.now ∧
      e.bellowsUp = false ∧ e.cmds = d.cmds ∧ (9, d.time, 0) ∈ e.flash.log) ∧
    (d.start.stage = .test → ∃ e, exec .watchdogExpiry ⟨d, q⟩ = .next ⟨e, q⟩ ∧ e.start.stage = .aon ∧ e.start.cause = d.pkg.cause ∧ e.pwr.rails = false) ∧
    (∀ t, d.start.stage = .ready → d.bell.failedAt = some t →
      (d.cmds = [] ∨ t + 10000000000 ≤ d.now → d.pickFw.isSome = true → ∃ e, exec .bellowsFailedTimeout ⟨d, q⟩ = .next ⟨e, q⟩ ∧ e.start.stage = .warm ∧ e.pkg.cause = 2 ∧ e.bell.failedAt = none) ∧
      (d.cmds ≠ [] → d.now < t + 10000000000 → exec .bellowsFailedTimeout ⟨d, q⟩ = .next ⟨d, q⟩)) ∧
    (d.bell.failedAt = none → exec .bellowsFailedTimeout ⟨d, q⟩ = .next ⟨d, q⟩)

/-! ### Power, heat and quench (R30, R31, R42, R386 to R404) -/

/-- R386, R387, R389, R393: above the cap the 10 µs average lowers the set point, by at most 50 mV or one duty step in 1 ms and never past the clamp point of the cap; the 1 ms average raises it one step while it stays 3 % of design power below the cap; a domain takes the duty in force when its period starts; headroom is granted except in a quench. The size of the governor's steps is the model's choice (log 103), and that domain duties and grants change with their own events is log 135. -/
def Obligations.GovernorFollowsTheCap : Prop :=
  ∀ (d : Dev) (w n : Nat) (q : List Instr),
    let s := d.pwr.step
    let cl := clampStep d.var d.pwr.cap
    let above := d.pwr.cap * d.var.design < 100 * w
    let below := 100 * w + 3 * d.var.design < d.pwr.cap * d.var.design
    let runs := d.pwr.rails = true ∧ d.pwr.q = 0
    (∃ e, exec (.governorSample w) ⟨d, q⟩ = .next ⟨e, q⟩ ∧ e = { d with pwr := e.pwr } ∧ e.pwr.p10 = w ∧ e.pwr.cap = d.pwr.cap ∧
      (¬(runs ∧ above ∧ s < cl) → e.pwr = { d.pwr with p10 := w }) ∧
      (runs → above → s < cl → s < 34 → e.pwr.step = min cl (min 34 (s + 10))) ∧
      (runs → above → s < cl → 34 ≤ s → (d.dutyReady = true → e.pwr.step = s + 1 ∧ (pointOf s = (d.pwr.vset, d.pwr.duty) → e.pwr.dutyAt = d.now)) ∧ (d.dutyReady = false → e.pwr.step = s)) ∧
      (cl ≤ 49 ∧ (s < cl → s ≤ e.pwr.step ∧ e.pwr.step ≤ cl))) ∧
    (∃ e, exec (.governorRaise w) ⟨d, q⟩ = .next ⟨e, q⟩ ∧ e = { d with pwr := e.pwr } ∧ e.pwr.p1m = w ∧
      (¬(runs ∧ below ∧ 0 < s) → e.pwr = { d.pwr with p1m := w }) ∧
      (runs → below → 0 < s → s ≤ 49 → (s ≤ 34 ∨ d.dutyReady = true → e.pwr.step = s - 1) ∧ (34 < s → d.dutyReady = false → e.pwr.step = s))) ∧
    (∃ e, exec (.dwellPeriod n) ⟨d, q⟩ = .next ⟨e, q⟩ ∧ e = { d with pwr := { d.pwr with domDuty := e.pwr.domDuty } } ∧
      SMap.get 16 e.pwr.domDuty n = (pointOf d.pwr.eff).2 ∧ ∀ j, j ≠ n → SMap.get 16 e.pwr.domDuty j = SMap.get 16 d.pwr.domDuty j) ∧
    (d.pwr.q ≠ 0 → exec (.headroomGrant n w) ⟨d, q⟩ = .next ⟨d, q⟩) ∧
    (d.pwr.q = 0 → ∃ e, exec (.headroomGrant n w) ⟨d, q⟩ = .next ⟨e, q⟩ ∧ e = { d with pwr := { d.pwr with grants := e.pwr.grants } } ∧
      SMap.get 0 e.pwr.grants n = SMap.get 0 d.pwr.grants n + w ∧ ∀ j, j ≠ n → SMap.get 0 e.pwr.grants j = SMap.get 0 d.pwr.grants j)

/-- R387: the clamp point of a cap keeps the worst-case power of the package within the cap, where any operating point does. The worst-case power is taken without rounding (log 104). -/
def Obligations.ClampPointsKeepTheCap : Prop :=
  ∀ (v : Variant) (cap : Nat),
    (∀ i < 18, clampStep v cap = stepOf (550 + 10 * i, 16) → 100 * worstRow v i ≤ cap * v.design * pDen) ∧
    (34 < clampStep v cap → clampStep v cap < 49 → 100 * worstDwell v (50 - clampStep v cap) ≤ cap * v.design * pDen * 16) ∧
    (∀ c, cap ≤ c → clampStep v c ≤ clampStep v cap)

/-- R30, R31, R42, R396, R397, R399 to R403: readings are recorded; above 95 °C the thermal target falls, at 105 °C the package quenches; a loss of coolant quenches a running package and shuts the rails of one that starts; the hold's end shuts the rails; a converter's failure is reported and the third quenches; a failed region or die regulator shuts the package down, and a failed quarter regulator withdraws its quarter; the loss of the reference quenches without release. That a failed region or die regulator shuts the rails at once is the model's reading (log 105); where it says that nothing changes because the event cannot happen then, that is the model's choice (log 13). -/
def Obligations.HeatAndFailuresQuench : Prop :=
  ∀ (d : Dev) (q : List Instr),
    let running := d.pwr.rails = true ∧ d.pwr.q = 0 ∧ d.start.stage = .ready
    let shut (e : Dev) : Prop := e.pwr.rails = false ∧ e.start.stage = .aon ∧ e.pwr.q = 3 ∧ e.parts = [] ∧ e.cmds = [] ∧ e.flash.key = d.flash.key
    (∀ l : List (Sensor × Int), ∃ e, exec (.temperatureSample l) ⟨d, q⟩ = .next ⟨e, q⟩ ∧
      e.pwr.temp = l.foldl (fun m x => SMap.put 0 m (sensorKey x.1) x.2) d.pwr.temp ∧
      (let hot (lo hi t : Int) : Prop := ∃ x ∈ e.pwr.temp, lo ≤ (x.1 : Int) ∧ (x.1 : Int) < hi ∧ t ≤ x.2
       (running → hot 0 3000 105 ∨ hot 3000 5000 105 → ¬hot 0 3000 110 → (∀ i < 16, e.tempAt (5000 + i) < 125) → e.pwr.q = 2 ∧ e.pwr.qcause = 3 ∧ e.pwr.alert = true) ∧
       (running → d.pwr.ttarget = none → hot 0 3000 96 → ¬hot 0 3000 105 → ¬hot 3000 5000 105 → (∀ i < 16, e.tempAt (5000 + i) < 125) →
         e.pwr.ttarget = some (min 49 (d.pwr.step + 1)) ∧ e.pwr.q = 0 ∧ e.pwr.alert = true))) ∧
    (running → ∃ e, exec .coolantOkDeasserted ⟨d, q⟩ = .next ⟨e, q⟩ ∧ e.start.coolant = false ∧ e.pwr.q = 2 ∧ e.pwr.qcause = 1 ∧
      e.pwr.hold = some (d.now + 1000000 * d.st.qhold) ∧ e.live = false) ∧
    (d.pwr.rails = true → d.pwr.q = 0 → d.start.stage ≠ .ready → d.start.stage ≠ .warm → ∃ e, exec .coolantOkDeasserted ⟨d, q⟩ = .next ⟨e, q⟩ ∧
      e.start.coolant = false ∧ e.pwr.rails = false ∧ e.start.stage = .loaded ∧ e.start.imgKept = true ∧ e.img.st = d.img.st) ∧
    (d.pwr.rails = false → exec .coolantOkDeasserted ⟨d, q⟩ = .next ⟨{ d with start := { d.start with coolant := false } }, q⟩) ∧
    (∃ e, exec .coolantOkAsserted ⟨d, q⟩ = .next ⟨e, q⟩ ∧ e.start.coolant = true ∧ (d.start.stage ≠ .loaded → e = { d with start := { d.start with coolant := true } }) ∧
      (d.start.stage = .loaded → d.start.tap ≠ 0 → d.start.tap ≠ 2 → d.start.tap ≠ 3 → e.start.stage = .test ∧ e.pwr.rails = true ∧ e.pwr.step = clampStep d.var d.pwr.cap)) ∧
    (∀ t, d.pwr.hold = some t → d.pwr.q = 2 →
      (t ≤ d.now → ∃ e, exec .quenchHoldExpiry ⟨d, q⟩ = .next ⟨e, q⟩ ∧ shut e) ∧ (d.now < t → exec .quenchHoldExpiry ⟨d, q⟩ = .next ⟨d, q⟩)) ∧
    (∀ i : Fin 16,
      (d.pwr.conv.testBit i.val = true → exec (.converterFailure i) ⟨d, q⟩ = .next ⟨d, q⟩) ∧
      (d.pwr.conv.testBit i.val = false → ∃ e, exec (.converterFailure i) ⟨d, q⟩ = .next ⟨e, q⟩ ∧ e.pwr.conv = setBit d.pwr.conv i.val ∧
        (popc 16 e.pwr.conv < 3 → e.pkg.err.testBit 5 = true ∧ e.pwr.q = d.pwr.q ∧ e.pwr.rails = d.pwr.rails ∧ e.start = d.start) ∧
        (running → 3 ≤ popc 16 e.pwr.conv → shut e ∧ e.pwr.qcause = 4))) ∧
    ((∀ r : Fin 64, d.pwr.rails = true → ∃ e, exec (.regulatorFailure (.region r)) ⟨d, q⟩ = .next ⟨e, q⟩ ∧ shut e ∧ e.pwr.qcause = 4) ∧
     (∀ a : Fin 4, d.pwr.rails = true → ∃ e, exec (.regulatorFailure (.anvil a)) ⟨d, q⟩ = .next ⟨e, q⟩ ∧ shut e ∧ e.pwr.qcause = 4) ∧
     (∀ (p : Fin 72) (u : Fin 4) (b : Nat), running → d.logical p.val = some b → d.phys b = some p.val → b < 64 →
       (u.val = 0 → d.un.brick.testBit p.val = true → ∃ e, exec (.regulatorFailure (.quarter p u)) ⟨d, q⟩ = .next ⟨e, q⟩ ∧ e.un.brick.testBit p.val = false) ∧
       (u.val ≠ 0 → d.qtrIn (4 * b + u.val) = true → ∃ e, exec (.regulatorFailure (.quarter p u)) ⟨d, q⟩ = .next ⟨e, q⟩ ∧ e.qtrIn (4 * b + u.val) = false))) ∧
    (running → ∃ e, exec .referenceLoss ⟨d, q⟩ = .next ⟨e, q⟩ ∧ e.pwr.osc = true ∧ e.pwr.q = 1 ∧ e.pwr.qcause = 5 ∧ e.pwr.hold = none ∧ e.pwr.alert = true ∧ e.live = false)

/-! ### Pins, start-up and resets (R354, R414 to R426, R430, R433, R470, R489) -/

/-- R354, R416, R424, R425, R430, R433, R470, R489: the pins and the host's resets act as the spec says: input in range brings up the always-on domain, its loss leaves flash and fuses alone, a loss of PWR_GOOD_IN and a pulse of PKG_RESET_N of at least 10 µs begin a cold start, PERST_N, hot reset, link loss and PKG_RSTCTL a warm reset; an input out of range quenches, and one beyond the absolute maximum, for which the spec gives no behaviour, stops. The stop beyond the absolute maximum, for which the spec gives no behaviour, is log 131; what a warm reset keeps is log 107 where Table 13.8 is silent; where it says that nothing changes because the event cannot happen then, that is the model's choice (log 13). -/
def Obligations.PinsAndResetsAct : Prop :=
  ∀ (d : Dev) (q : List Instr),
    let cold (e : Dev) (cause : Nat) : Prop := e.start.stage = .aon ∧ e.start.cause = cause ∧ e.pwr.rails = false ∧ e.pwr.q = 0 ∧ e.parts = [] ∧ e.cmds = [] ∧ e.queues = [] ∧
      e.mem.dram = [] ∧ e.flash = d.flash
    let warm (e : Dev) (cause : Nat) : Prop := e.start.stage = .warm ∧ e.pkg.cause = cause ∧ e.pkg.warm = true ∧ e.pkg.warmcnt = (d.pkg.warmcnt + 1) % 65536 ∧
      e.pkg.ready = false ∧ e.parts = [] ∧ e.cmds = [] ∧ e.queues = [] ∧ e.tiles = [] ∧ e.cores = [] ∧ e.mem.dram = d.mem.dram ∧ e.un = d.un ∧ e.pkg.capGen = d.pkg.capGen
    let ready := d.start.stage = .ready
    (∃ e, exec .inputEntersRange ⟨d, q⟩ = .next ⟨e, q⟩ ∧ e.start.vin = true ∧ (d.start.stage = .off → e.start.stage = .aon ∧ e.start.cause = 0x10) ∧
      (d.start.stage ≠ .off → e = { d with start := { d.start with vin := true } })) ∧
    (∃ e, exec .vAonLoss ⟨d, q⟩ = .next ⟨e, q⟩ ∧ e.start.stage = .off ∧ e.start.vin = false ∧ e.flash = d.flash ∧ e.pwr = Pwr.reset ∧ e.pkg = Pkg.reset ∧ e.parts = [] ∧
      e.cmds = [] ∧ e.mem.dram = []) ∧
    (exec .pwrGoodInAsserted ⟨d, q⟩ = .next ⟨{ d with start := { d.start with pwrGood := true } }, q⟩) ∧
    (∃ e, exec .pwrGoodInDeasserted ⟨d, q⟩ = .next ⟨e, q⟩ ∧ e.start.pwrGood = false ∧ (d.start.stage ≠ .off → d.start.stage ≠ .halted → cold e 0x10) ∧
      (d.start.stage = .off ∨ d.start.stage = .halted → e = { d with start := { d.start with pwrGood := false } })) ∧
    (∀ us rel, us < 10 → exec (.pkgResetN us rel) ⟨d, q⟩ = .next ⟨d, q⟩) ∧
    (∀ us rel, 10 ≤ us → d.start.stage ≠ .off → ∃ e, exec (.pkgResetN us rel) ⟨d, q⟩ = .next ⟨e, q⟩ ∧ e.start.rstRel = rel ∧ cold e 0x11) ∧
    (ready → d.pickFw.isSome = true →
      (∃ e, exec .perstN ⟨d, q⟩ = .next ⟨e, q⟩ ∧ e.start.perstRel = false ∧ warm e 4) ∧ (∃ e, exec .hotReset ⟨d, q⟩ = .next ⟨e, q⟩ ∧ warm e 5) ∧
      (d.start.perstRel = true → ∃ e, exec .pkgRstctlWarm ⟨d, q⟩ = .next ⟨e, q⟩ ∧ warm e 3) ∧
      (1000 * d.st.lossms ≤ d.start.downUs + 100 → ∃ e, exec (.linkSample false) ⟨d, q⟩ = .next ⟨e, q⟩ ∧ e.start.linkUp = false ∧ warm e 6)) ∧
    (ready → d.start.downUs + 100 < 1000 * d.st.lossms →
      exec (.linkSample false) ⟨d, q⟩ = .next ⟨{ d with start := { d.start with linkUp := false, downUs := d.start.downUs + 100 } }, q⟩) ∧
    (d.start.stage ≠ .keys → exec (.linkSample true) ⟨d, q⟩ = .next ⟨{ d with start := { d.start with linkUp := true, downUs := 0 } }, q⟩ ∧
      exec .perstNReleased ⟨d, q⟩ = .next ⟨{ d with start := { d.start with perstRel := true } }, q⟩) ∧
    (d.start.stage = .keys → d.pkg.cause ≠ 6 ∨ d.start.linkUp = true → ∃ e, exec .perstNReleased ⟨d, q⟩ = .next ⟨e, q⟩ ∧ e.start.stage = .ready ∧ e.pkg.ready = true ∧
      e.start.perstRel = true ∧ e.start.bar2log = d.st.bar2log ∧ e.parts = d.parts) ∧
    (¬ready → ∃ e, exec .hotReset ⟨d, q⟩ = .next ⟨e, q⟩ ∧ e = d) ∧
    (∀ (mv : Int) (us : Nat),
      (80000 < mv ∨ (75000 < mv ∧ 1000 < us) ∨ mv < -60000 → exec (.inputOutOfRange mv us) ⟨d, q⟩ = .fault .beyondAbsoluteMaximum) ∧
      (40000 ≤ mv → mv ≤ 60000 → exec (.inputOutOfRange mv us) ⟨d, q⟩ = .next ⟨d, q⟩) ∧
      (-60000 ≤ mv → mv < 30000 → 100 ≤ us → ∃ e, exec (.inputOutOfRange mv us) ⟨d, q⟩ = .next ⟨e, q⟩ ∧ e.start.stage = .off ∧ e.start.vin = false ∧ e.mem.dram = []) ∧
      ((30000 ≤ mv ∧ mv < 39000) ∨ (61000 < mv ∧ mv ≤ 75000) → 100 < us → d.pwr.rails = true → d.pwr.q = 0 → ready →
        ∃ e, exec (.inputOutOfRange mv us) ⟨d, q⟩ = .next ⟨e, q⟩ ∧ e.start.vin = false ∧ e.pwr.rails = false ∧ e.pwr.q = 3 ∧ e.pwr.qcause = 6 ∧ e.start.stage = .aon)) ∧
    (∀ c : Byte, d.start.stage ≠ .off → d.start.stage ≠ .loaded → exec (.tapInstruction c) ⟨d, q⟩ =
      .next ⟨Dev.emit { d with start := { d.start with tap := d.tapCode c.toNat } } (.tap (BitVec.ofNat 8 (d.tapCode c.toNat))), q⟩) ∧
    (d.start.stage = .off → ∀ c : Byte, exec (.tapInstruction c) ⟨d, q⟩ = .next ⟨d, q⟩)

/-- R11, R32, R33, R307, R311, R315, R415 to R423: a cold start runs when power, resets and the cause of a quench allow it, takes the primary slot's image or the factory image, and raises the rails where coolant flows; self-test assigns spares or stops the start; failed sites are absent after memory training; the end of fabric training makes keys and partitions, and the package is ready once PERST_N is released. Which spare replaces which failed unit is the model's reading (log 132); where it says that nothing changes because the event cannot happen then, that is the model's choice (log 13). -/
def Obligations.StartUpReachesReadiness : Prop :=
  ∀ (d : Dev) (q : List Instr),
    (d.start.stage = .aon → d.start.pwrGood = true → d.start.rstRel = true → d.start.vin = true → d.quenchOver = true →
      let cause := if d.pwr.q = 3 then 0x13 else d.start.cause
      ∃ e, exec .coldStart ⟨d, q⟩ = .next ⟨e, q⟩ ∧
        (d.pickFw = none → e.start.stage = .halted ∧ e.pwr.rails = false) ∧
        (∀ x, d.pickFw = some x →
          e.pkg.cause = cause ∧ e.pwr.q = 0 ∧ e.un = Units.none_ ∧ e.start.bar2log = 21 ∧ e.start.slot = d.start.straps % 64 ∧
          (∀ st, d.checkSlot d.flash.primary = .ok st → e.img.st = st ∧ e.img.src = (if d.flash.primary then 1 else 0) ∧ e.pwr.cap = st.cap ∧ e.pwr.slope = st.slope ∧
            e.fab.pkgid = (if st.pkgid = 0xFFFF then (st.chbase + d.start.straps % 64) % 65536 else st.pkgid) ∧ e.mem.lockw = st.lockw) ∧
          (∀ r, d.checkSlot d.flash.primary = .error r → e.img.st = factory d.var ∧ e.img.src = 2 ∧ e.img.reason = r.reason ∧ e.pkg.err.testBit 2 = true) ∧
          (d.start.coolant = false → e.start.stage = .loaded ∧ e.pwr.rails = d.pwr.rails) ∧
          (d.start.coolant = true → d.start.tap = 0xFE → e.start.stage = .test ∧ e.pwr.rails = true))) ∧
    (d.start.stage ≠ .aon ∨ d.start.pwrGood = false ∨ d.start.rstRel = false ∨ d.start.vin = false ∨ d.quenchOver = false → exec .coldStart ⟨d, q⟩ = .next ⟨d, q⟩) ∧
    (∀ f : List TestFail, d.start.stage = .test → d.pwr.q = 0 →
      (TestFail.mortar ∈ f → ∃ e, exec (.selfTestComplete f) ⟨d, q⟩ = .next ⟨e, q⟩ ∧ e.start.stage = .halted ∧ e.pwr.rails = false) ∧
      (TestFail.mortar ∉ f → (unitsAfter d f).lb ≠ [] →
        exec (.selfTestComplete f) ⟨d, q⟩ = .next ⟨{ d with un := unitsAfter d f, start := { d.start with stage := .memory, failures := f }, pkg := { d.pkg with stfail := min f.length 65535 } }, q⟩)) ∧
    (∀ f : List (Bool × Nat), d.start.stage = .memory → d.pwr.q = 0 → ∃ e, exec (.memoryTrainingComplete f) ⟨d, q⟩ = .next ⟨e, q⟩ ∧ e.start.stage = .fabric ∧
      (∀ s < 24, e.siteIn (false, s) = (d.var.hasF s && !f.contains (false, s))) ∧ (∀ s < 40, e.siteIn (true, s) = (d.var.hasD s && !f.contains (true, s))) ∧
      e.un.brick = d.un.brick ∧ e.un.tiles = d.un.tiles) ∧
    (∀ t, d.start.stage = .fabric ∨ d.start.stage = .warm → d.pwr.q = 0 → d.fab.links = [] → d.keys = [] → d.parts = [] → ∃ e, exec (.fabricTrainingEnd [] t) ⟨d, q⟩ = .next ⟨e, q⟩ ∧
      (d.start.perstRel = false → e.start.stage = .keys) ∧
      (d.start.perstRel = true → d.pkg.cause ≠ 6 → e.start.stage = .ready ∧ e.pkg.ready = true) ∧
      (∀ k < 33, SMap.get 0 e.keys k = d.nextKey + k) ∧ e.nextKey = d.nextKey + 33 ∧
      (∀ n < 32, d.st.en n = false → (e.part n).st = 0) ∧
      (∀ n < 32, d.st.en n = true → (e.part n).st = 1 ∨ ((e.part n).st = 3 ∧ (e.part n).reason = 4 ∧ (e.part n).short = true)) ∧
      (d.start.stage = .fabric → e.pkg.capGen = 1 ∧ ∀ x, t = some x → e.start.t0 = (d.now : Int) - x)) ∧
    (d.start.stage ≠ .test → ∀ f, exec (.selfTestComplete f) ⟨d, q⟩ = .next ⟨d, q⟩) ∧ (d.start.stage ≠ .memory → ∀ f, exec (.memoryTrainingComplete f) ⟨d, q⟩ = .next ⟨d, q⟩)

/-! ### The fabric (R359, R361 to R370, R373, R374, R376, R378, R380, R381) -/

/-- R367 to R369, R373, R374, R376: a packet that is next in its stream acts: a READ is answered with the bytes it reads, a WRITE and an AMO with their effect, each refused where no partition of its job is granted the place; a CREDREQ asks its window; a RESP or CREDGNT goes to what waits for it; barrier and payload packets go to their context. One acted on before changes nothing. What OPINFO and the data of each kind hold is the model's layout (log 30), and the answer to a malformed request its reading (log 116). -/
def Obligations.PacketsActInTheirStream : Prop :=
  ∀ (d : Dev) (p : Packet) (q : List Instr),
    let h := d.withPacket p
    let a := p.addr.toNat
    let n := p.data.length
    let req (o : Nat) : Req := ⟨portFabric, o, ⟨none, some o⟩⟩
    (d.inTurn 1 p →
      (256 < p.opinfo.toNat ∨ h.remoteOwner p a p.opinfo.toNat = none → exec (.readPkt p) ⟨d, q⟩ = .next ⟨(h.answer p 0x11 []).acted p, q⟩) ∧
      (∀ o, p.opinfo.toNat ≤ 256 → h.remoteOwner p a p.opinfo.toNat = some o → h.lit a = true → touchesCredit [(.loc a, p.opinfo.toNat)] = false → h.bad a p.opinfo.toNat = none →
        let r := h.read (req o) a p.opinfo.toNat
        exec (.readPkt p) ⟨d, q⟩ = .next ⟨(r.1.answer p 0 r.2).acted p, q⟩)) ∧
    (d.inTurn 2 p → p.opinfo.getLsbD 63 = false →
      (h.remoteOwner p a n = none → exec (.writePkt p) ⟨d, q⟩ = .next ⟨(h.answer p 0x11 []).acted p, q⟩) ∧
      (∀ o, h.remoteOwner p a n = some o → h.copying o = false → h.lit a = true → touchesCredit [(.loc a, n)] = false →
        (∀ k, h.winCovers a n = some k → exec (.writePkt p) ⟨d, q⟩ = .next ⟨((h.badWr k).answer p 0x11 []).acted p, q⟩) ∧
        (h.winCovers a n = none → h.badEdge a n = none → exec (.writePkt p) ⟨d, q⟩ = .next ⟨((h.write (req o) a p.data).answer p 0 []).acted p, q⟩))) ∧
    (d.inTurn 3 p →
      let op := (nthD 0 p.data 0).toNat
      let size := (nthD 0 p.data 1).toNat
      let w := 2 ^ size
      ((9 < op ∧ op ≠ amoRead) ∨ size < 2 ∨ 3 < size ∨ a % w ≠ 0 ∨ h.remoteOwner p a w = none →
        exec (.amoPacket p) ⟨d, q⟩ = .next ⟨(h.answer p 0x11 []).acted p, q⟩) ∧
      (∀ o, op ≤ 9 → 2 ≤ size → size ≤ 3 → a % w = 0 → h.remoteOwner p a w = some o → h.copying o = false → h.lit a = true → inCreditBlock a w = false →
        h.winCovers a w = none → h.bad a w = none →
        let r := h.farAmo (req o) (.loc a) w (fun old => amoNew op (8 * w) old p.opinfo.toNat (bfld p.data 2 63 0)) none
        exec (.amoPacket p) ⟨d, q⟩ = .next ⟨(r.1.answer p 0 (bytesOf w r.2)).acted p, q⟩)) ∧
    (d.inTurn 5 p →
      let i := (p.opinfo.extractLsb' 0 3).toNat
      let m := (p.opinfo.extractLsb' 32 32).toNat
      (m = 0 ∨ 65536 < m ∨ h.remoteOwner p a 1 = none → exec (.credreq p) ⟨d, q⟩ = .next ⟨(h.answer p 0x11 []).acted p, q⟩) ∧
      (∀ o k, 1 ≤ m → m ≤ 65536 → h.remoteOwner p a 1 = some o →
        ((∃ b t x, place a = .store b t x ∧ k = tileWin (tKey b t) i) ∨ ∃ x, place a = .yard x ∧ k = yardWin (x / 2 ^ 24) i) →
        ((d.win k).en = true → granules m ≤ (d.win k).len →
          exec (.credreq p) ⟨d, q⟩ = .next ⟨(h.putWin k { d.win k with queue := (d.win k).queue ++ [⟨.remote p.src p.tid, m, [], 0, false⟩] }).acted p, q⟩) ∧
        ((d.win k).en = false ∨ (d.win k).len < granules m → exec (.credreq p) ⟨d, q⟩ = .next ⟨(h.answer p 0x11 []).acted p, q⟩))) ∧
    (let asks (w : Await) : Prop := d.fab.waits.find? (fun y => y.tid == p.tid.toNat && y.pkg == p.src.toNat) = some w
     let x (w : Await) : Dev := { h with fab := { h.fab with waits := h.fab.waits.erase w } }
     let nobody := d.fab.waits.find? (fun y => y.tid == p.tid.toNat && y.pkg == p.src.toNat) = none
     (d.inTurn 4 p → (nobody → exec (.respPkt p) ⟨d, q⟩ = .next ⟨h.acted p, q⟩) ∧ ∀ w, asks w →
       (∀ c row off len, w.who = .rowRead c row off len → exec (.respPkt p) ⟨d, q⟩ =
         .next ⟨(if p.opinfo.toNat = 0 then (x w).rowBytes c row off p.data else (x w).rowRefused c row p.opinfo.toNat).acted p, q⟩) ∧
       (∀ c row, w.who = .rowWrite c row → exec (.respPkt p) ⟨d, q⟩ =
         .next ⟨(if p.opinfo.toNat = 0 then (x w).rowAnswered c row else (x w).rowRefused c row p.opinfo.toNat).acted p, q⟩) ∧
       (∀ c, w.who = .sync c → p.opinfo.toNat = 0 → exec (.respPkt p) ⟨d, q⟩ = .next ⟨((x w).syncResp c (leNat p.data)).acted p, q⟩) ∧
       (∀ ag dst len va pa, w.who = .agent ag dst len va pa → exec (.respPkt p) ⟨d, q⟩ =
         .next ⟨((x w).agentResp ag dst len va pa p.opinfo.toNat p.data).acted p, q⟩)) ∧
     (d.inTurn 6 p → (nobody → exec (.credgnt p) ⟨d, q⟩ = .next ⟨h.acted p, q⟩) ∧
       ∀ w c row, asks w → w.who = .credit c row → exec (.credgnt p) ⟨d, q⟩ = .next ⟨((x w).rowGranted c row p.src.toNat p.tid).acted p, q⟩)) ∧
    (d.inTurn 8 p → exec (.barArrive p) ⟨d, q⟩ = .next ⟨((h.arrivePkt p).barRetry).acted p, q⟩) ∧
    (d.inTurn 9 p → exec (.barRelease p) ⟨d, q⟩ = .next ⟨(h.releasePkt p).acted p, q⟩ ∧
      ∀ x, p.data = [0, 0] → d.ctxAt 0 p.jobtag.toNat (p.opinfo.extractLsb' 48 16).toNat (p.opinfo.extractLsb' 32 16).toNat = some x → x.blen = 0 →
        d.fab.barWait = [] → d.fab.barPkt = [] → x.cmds.Nodup → (∀ u ∈ x.cmds, ∃ z, d.cmd u = some z ∧ z.phase = .arrived ∧ z.op = 0x30) →
        ∃ e, exec (.barRelease p) ⟨d, q⟩ = .next ⟨e, q⟩ ∧ (∀ u ∈ x.cmds, ∃ z, e.cmd u = some z ∧ z.phase = .done ∧ z.status = 0) ∧ e.fab.ctxs = d.fab.ctxs.filter fun y => y ≠ x) ∧
    (d.inTurn 10 p → exec (.bcast p) ⟨d, q⟩ = .next ⟨(h.bcastPkt p).acted p, q⟩) ∧
    (let old := p.dst.toNat = d.fab.pkgid ∧ 32768 ≤ (p.sseq.toNat + 65536 - SMap.get 0 d.fab.sin (streamKey p)) % 65536
     old → (p.kind.toNat = 1 → exec (.readPkt p) ⟨d, q⟩ = .next ⟨d, q⟩) ∧ (p.kind.toNat = 2 → exec (.writePkt p) ⟨d, q⟩ = .next ⟨d, q⟩) ∧
       (p.kind.toNat = 3 → exec (.amoPacket p) ⟨d, q⟩ = .next ⟨d, q⟩) ∧ (p.kind.toNat = 4 → exec (.respPkt p) ⟨d, q⟩ = .next ⟨d, q⟩) ∧
       (p.kind.toNat = 8 → exec (.barArrive p) ⟨d, q⟩ = .next ⟨d, q⟩) ∧ (p.kind.toNat = 18 → exec (.jobreset p) ⟨d, q⟩ = .next ⟨d, q⟩))

/-- R359, R361 to R364, R366, R370, R378, R380, R381: a flit with a wrong CRC or out of order is refused with NAK; links go down and train again, at SEQ 0; a lane that fails leaves its link, and takes it down when it was the last; TIME gives the offset from the master and locks after eight within 10 ns; DEPART and its time-out end what waits for the package; JOBRESET and FAB_JOBRST reset the partitions of a job; ROUTE replaces what a switch advertises. The layouts of TIME, DEPART, JOBRESET and ROUTE are the model's (log 30), its readings on links are logs 112 to 114 and 118; where it says that nothing changes because the event cannot happen then, that is the model's choice (log 13). -/
def Obligations.LinksAndNeighboursAct : Prop :=
  ∀ (d : Dev) (p : Packet) (q : List Instr),
    (∀ (r : LinkRef) (l : Link) (f : List Byte), d.link r = some l → d.fabUp = true →
      (l.up = true → flitOk f = false → ∃ e, exec (.flitReceive r f) ⟨d, q⟩ = .next ⟨e, q⟩ ∧ e.out = d.out ++ [.control r ((l.rx + 2 ^ 14 - 1) % 2 ^ 14) true 0 0] ∧
        (e.port r.port.val).crcerr = min 65535 ((d.port r.port.val).crcerr + 1) ∧ e.fab.links = d.fab.links) ∧
      (l.up = true → flitOk f = true → bfld f 0 34 33 = 0 → bfld f 0 63 50 ≠ l.rx →
        exec (.flitReceive r f) ⟨d, q⟩ = .next ⟨d.emit (.control r ((l.rx + 2 ^ 14 - 1) % 2 ^ 14) true 0 0), q⟩) ∧
      (l.up = false → exec (.flitReceive r f) ⟨d, q⟩ = .next ⟨d, q⟩) ∧
      (l.up = true → ∃ e, exec (.linkDown r) ⟨d, q⟩ = .next ⟨e, q⟩ ∧ (∃ x, e.link r = some x ∧ x.up = false) ∧
        (e.port r.port.val).downs = min 65535 ((d.port r.port.val).downs + 1)) ∧
      (l.up = false → exec (.linkDown r) ⟨d, q⟩ = .next ⟨d, q⟩) ∧
      (l.up = true → ∀ ls, exec (.linkRetrain r ls) ⟨d, q⟩ = .next ⟨d, q⟩) ∧
      (l.up = false → ∀ i : LaneInfo, i.port = r.port → i.ppkg = r.ppkg → i.pport = r.pport → d.portIn r.port.val = true → d.fab.noid = false →
        i.isSwitch = true ∨ sameChassis i.ppkg.toNat d.fab.pkgid = true →
        ∃ e x, exec (.linkRetrain r [i]) ⟨d, q⟩ = .next ⟨e, q⟩ ∧ e.link r = some x ∧ x.up = true ∧ x.rx = 0 ∧ (l.outq = [] → x.tx = 0 ∧ x.replay = []))) ∧
    (∀ (port : Fin 36) (lane : Fin 8),
      ((d.laneAt port.val lane.val).up = false → exec (.laneFailure port lane) ⟨d, q⟩ = .next ⟨d, q⟩) ∧
      ((d.laneAt port.val lane.val).up = true → ∃ e, exec (.laneFailure port lane) ⟨d, q⟩ = .next ⟨e, q⟩ ∧ (e.laneAt port.val lane.val).up = false ∧
        ∀ r l, d.link r = some l → r.port = port → d.lanesOf r = [lane.val] → ∃ x, e.link r = some x ∧ x.up = false)) ∧
    (d.reaches 16 p → (p.opinfo.extractLsb' 0 2).toNat = 2 →
      let m := Dev.settleMaster { d with fab := { d.fab with
        tbs := if p.opinfo.getLsbD 63 then p.src.toNat :: d.fab.tbs.filter (· ≠ p.src.toNat) else d.fab.tbs.filter (· ≠ p.src.toNat) } }
      let t (i : Nat) : Int := bfld p.data (8 * i) 63 0
      let off := ((t 0 - t 1) + ((d.time : Int) - t 2)) / 2
      (m.fab.master = false → m.fab.tbm = p.src.toNat →
        ∃ e, exec (.timePkt p) ⟨d, q⟩ = .next ⟨e, q⟩ ∧ e.fab.offset = off ∧ e.fab.offs = (off :: m.fab.offs).take 8 ∧
          (e.fab.locked = true ↔ e.fab.offs.length = 8 ∧ ∀ x ∈ e.fab.offs, -10 ≤ x ∧ x ≤ 10)) ∧
      (m.fab.master = true ∨ m.fab.tbm ≠ p.src.toNat → exec (.timePkt p) ⟨d, q⟩ = .next ⟨m, q⟩)) ∧
    (let lost (e : Dev) (g : Nat) : Prop := g ∈ e.fab.gone ∧ (∀ w ∈ e.fab.waits, w.pkg ≠ g) ∧ (∀ x ∈ e.fab.held, x.src.toNat ≠ g) ∧
       ∀ w ∈ d.fab.waits, w.pkg = g → ∀ c row, w.who = .rowWrite c row → ∀ z, d.cmd c = some z → z.open_ = true → ∃ y, e.cmd c = some y ∧ y.phase = .done
     (d.reaches 17 p →
       let g := (p.opinfo.extractLsb' 0 16).toNat
       (g ≠ d.fab.pkgid → d.fab.gone.contains g = false → ∃ e, exec (.depart p) ⟨d, q⟩ = .next ⟨e, q⟩ ∧ lost e g) ∧
       (g = d.fab.pkgid ∨ d.fab.gone.contains g = true → exec (.depart p) ⟨d, q⟩ = .next ⟨d, q⟩)) ∧
     (∀ g : BitVec 16,
       let ls := d.fab.links.filter fun l => l.ref.ppkg.toNat == g.toNat && !d.linkIsSwitch l.ref
       (d.live = true → ls ≠ [] → (∀ l ∈ ls, l.up = false) → d.fab.gone.contains g.toNat = false →
         ∃ e, exec (.departureTimeout g) ⟨d, q⟩ = .next ⟨e, q⟩ ∧ lost e g.toNat) ∧
       ((∃ l ∈ ls, l.up = true) → exec (.departureTimeout g) ⟨d, q⟩ = .next ⟨d, q⟩))) ∧
    (let hit (n tag : Nat) : Prop := d.st.jobtag n = tag ∧ ((d.part n).st = 1 ∨ (d.part n).st = 3)
     (d.inTurn 18 p → p.jobtag.toNat ≠ 0 → ∃ e, exec (.jobreset p) ⟨d, q⟩ = .next ⟨e, q⟩ ∧
       ∀ n < 32, (hit n p.jobtag.toNat → (e.part n).st = 2 ∧ (e.part n).reason = (p.opinfo.extractLsb' 0 8).toNat) ∧
         (d.st.jobtag n ≠ p.jobtag.toNat → (e.part n).st = (d.part n).st)) ∧
     (d.answers = true → ∀ v : Word,
       let scope := (v.extractLsb' 56 2).toNat
       let tag := (v.extractLsb' 0 16).toNat
       let set_ : Dev := { d with fab := { d.fab with jscope := scope, jtag := tag } }
       (d.fab.jgo = true → exec (.fabJobrst v) ⟨d, q⟩ = .next ⟨d, q⟩) ∧
       (d.fab.jgo = false → v.getLsbD 63 = false → exec (.fabJobrst v) ⟨d, q⟩ = .next ⟨set_, q⟩) ∧
       (d.fab.jgo = false → v.getLsbD 63 = true → scope = 3 ∨ tag = 0 → exec (.fabJobrst v) ⟨d, q⟩ = .next ⟨{ set_ with fab := { set_.fab with jerr := true } }, q⟩) ∧
       (d.fab.jgo = false → v.getLsbD 63 = true → scope = 0 → tag ≠ 0 → ∃ e, exec (.fabJobrst v) ⟨d, q⟩ = .next ⟨e, q⟩ ∧ e.fab.jerr = false ∧ e.fab.jtag = tag ∧
         (∀ n < 32, hit n tag → (e.part n).st = 2 ∧ (e.part n).reason = 1) ∧ ((∃ n < 32, hit n tag) → e.fab.jgo = true) ∧
         ((∀ n < 32, d.st.jobtag n ≠ tag) → e.fab.jgo = false)))) ∧
    (d.reaches 19 p → d.fab.waits = [] → d.fab.ctxs = [] → exec (.route p) ⟨d, q⟩ =
      .next ⟨{ d with fab := { d.fab with links := d.fab.links.map fun (l : Link) => if l.ref.ppkg = p.src && d.linkIsSwitch l.ref then { l with routes := routeIds p.data } else l } }, q⟩)

/-- R361, R365 and the packet formats: a packet of at most 256 bytes of data reads back whole from its bytes and from the payloads of its flits; a flit that was made is accepted, and its fields and its payload read back; one that arrives at the expected SEQ on a link that is up hands its packet on. The places of a flit's fields are log 30. -/
def Obligations.PacketsAndFlitsReadBack : Prop :=
  (∀ p : Packet, p.data.length ≤ 256 → packetOf (pktBytes p) = p ∧ packetLen (pktBytes p) = (pktBytes p).length ∧
    packetOf ((payloads p).map (padTo 240)).flatten = p ∧ ∀ b ∈ payloads p, b.length ≤ 240) ∧
  (∀ (seq ack typ : Nat) (b : List Byte), typ < 4 → b.length ≤ 240 →
    let f := mkFlit seq ack typ b
    flitOk f = true ∧ bfld f 0 63 50 = seq % 2 ^ 14 ∧ bfld f 0 49 36 = ack % 2 ^ 14 ∧ bfld f 0 34 33 = typ ∧ (f.drop 8).take 240 = padTo 240 b) ∧
  (∀ (d : Dev) (r : LinkRef) (l : Link) (p : Packet) (ack : Nat) (q : List Instr), d.fabUp = true → d.link r = some l → l.up = true → l.part = [] → l.rx < 2 ^ 14 →
    p.data.length ≤ 208 →
    let f := mkFlit l.rx ack 0 (pktBytes p)
    exec (.flitReceive r f) ⟨d, q⟩ = .next
      ⟨((((d.setLink r fun l => { l with rx := (l.rx + 1) % 2 ^ 14, part := [] }).emit (.control r l.rx false p.vc.toNat 1)).flitFields r f)).arrive p, q⟩)

/-! ### Exceptions, debug, register accesses, reset (chapters 00, 05, 13, 15) -/

/-- R161, R163, R176, R178, R179: on an Anvil core an undefined function traps ILLEGAL, a register above its level or TRET and WFI at PL0 trap PRIV, both with the instruction word, and an unaligned load or store traps MISALIGNED with the address: the trap saves the pc, CPL and IE, and goes on at ASR_TVEC1 at level 1. On a Smith core an undefined function and an unaligned load end the task with DETECTED_ERROR, and a load at a tile-local address beyond the store ends it with PERMISSION_FAULT. That an unassigned system register is ILLEGAL is the model's reading (log 47), and a reserved bit's outcome log 56. -/
def Obligations.ExceptionsTrapOrEndTheTask : Prop :=
  (∀ (c : Fin 128) (d : Dev) (q : List Instr),
    let a := Agent.anvil c
    let y := d.core c.val
    let traps (i : Instr) (cause : Nat) (tval : Word) : Prop :=
      ∃ e, exec i ⟨d, q⟩ = .next ⟨e, q⟩ ∧ e.core c.val = y.trapped y.pc cause tval ∧ (∀ k, k ≠ c.val → e.core k = d.core k) ∧ ∀ k, e.tile k = d.tile k
    d.executes a 4 [] →
      (∀ (rd rs1 rs2 : BitVec 5) (fn : BitVec 11), (intReg fn.toNat rs2.toNat 0 0).isSome = false →
        traps (.intRegOp a rd rs1 rs2 fn) 0x00 ((1#6 ++ rd ++ rs1 ++ rs2 ++ fn).setWidth 64)) ∧
      (∀ (rd : BitVec 5) (reg : BitVec 12), pl1Reg reg.toNat = false → ¬ (0x100 ≤ reg.toNat ∧ reg.toNat ≤ 0x1FF ∧ y.cpl < 2) →
        traps (.srr a rd 0 reg) 0x00 ((0x1D#6 ++ rd ++ 0#5 ++ 0#4 ++ reg).setWidth 64)) ∧
      (∀ (rd rs1 : BitVec 5) (reg : BitVec 12),
        (0x100 ≤ reg.toNat ∧ reg.toNat ≤ 0x1FF ∧ y.cpl < 2) ∨ (y.cpl = 0 ∧ pl1Reg reg.toNat = true ∧ pl0Reg reg.toNat = false) →
        traps (.srw a rd rs1 reg) 0x01 ((0x1D#6 ++ rd ++ rs1 ++ 1#4 ++ reg).setWidth 64)) ∧
      (y.cpl = 0 → traps (.tret a 0 0 0) 0x01 0x74005000 ∧ traps (.wfi a 0 0 0) 0x01 0x74006000) ∧
      (∀ (rd rs1 : BitVec 5) (size : BitVec 3) (off : BitVec 11),
        let va := y.rx rs1.toNat + off.signExtend 64
        va.toNat % 2 ^ (size.toNat % 4) ≠ 0 →
        (size ≠ 7#3 → traps (.ld a rd rs1 size 0 off) 0x02 va) ∧ (size.toNat < 4 → traps (.st a rd rs1 size 0 off) 0x02 va))) ∧
  (∀ (t : TileRef) (d : Dev) (q : List Instr),
    let a := Agent.smith t
    let y := d.tile t.key
    let ends (i : Instr) (f : TFin) : Prop :=
      ∃ e, exec i ⟨d, q⟩ = .next ⟨e, q⟩ ∧ e.tile t.key = { y with fin := some f } ∧ (∀ k, k ≠ t.key → e.tile k = d.tile k) ∧ (∀ k, e.core k = d.core k) ∧ e.mem = d.mem
    d.agentReady a = true → d.fetchStop a 4 = none →
      (∀ (rd rs1 rs2 : BitVec 5) (fn : BitVec 11), (intReg fn.toNat rs2.toNat 0 0).isSome = false →
        ends (.intRegOp a rd rs1 rs2 fn) ⟨0x20, 1, 0, 0, 0, (1#6 ++ rd ++ rs1 ++ rs2 ++ fn).toNat, y.pc⟩) ∧
      (∀ (rd rs1 : BitVec 5) (size : BitVec 3) (off : BitVec 11),
        let va := d.reg a 0 false rs1.toNat + off.signExtend 64
        d.reservedReg a [rd.toNat, rs1.toNat] = false → d.unitsOpen a = false → size ≠ 7#3 →
        (va.toNat % 2 ^ (size.toNat % 4) ≠ 0 → ends (.ld a rd rs1 size 1 off) ⟨0x20, 2, 0, va, 0, 0, y.pc⟩) ∧
        (va.toNat % 2 ^ (size.toNat % 4) = 0 → 0x80000 ≤ va.toNat → ends (.ld a rd rs1 size 1 off) ⟨0x11, 9, 0, va, 0, 0, y.pc⟩)))

/-- R462, R468, R469: a DBG_FRCFG write sets base, depth and enable, and a 1 in FREN starts the ring anew; a DBG_TRCTL write sets its fields, takes EN only with TRACEEN and a buffer in the partition's Yard units, and else sets DENIED; GO starts a capture, is refused at shed level 3 and ignored while one runs; HANGMS starts one after its silence; a capture that completes clears GO and raises the hang record event. That a capture latches its entries at its start, and that EN is denied only when set, are the model's choices (logs 123 and 125); where it says that nothing changes because the event cannot happen then, that is the model's choice (log 13). -/
def Obligations.DebugRegistersActAndCapturesComplete : Prop :=
  ∀ (n : Fin 32) (d : Dev) (q : List Instr),
    let p := d.part n.val
    let g := p.d
    let sets (i : Instr) (h : Dbg) : Prop :=
      ∃ e, exec i ⟨d, q⟩ = .next ⟨e, q⟩ ∧ e = { d with parts := e.parts } ∧ e.part n.val = { p with d := h } ∧ ∀ m, m ≠ n.val → e.part m = d.part m
    (d.answers = true →
      (∀ v : Word,
        let h := { g with frbase := (v.extractLsb' 12 52).setWidth 64, frlog := (v.extractLsb' 4 4).toNat, fren := v.getLsbD 0 }
        sets (.dbgFrcfgWrite n v) (if v.getLsbD 0 then { h with head := 0, tail := 0, phase := true } else h)) ∧
      (∀ v : Word,
        let h := { g with denied := g.denied && !v.getLsbD 62, operf := (v.extractLsb' 0 16).toNat
                          mode := if g.tren then g.mode else v.getLsbD 61, src := if g.tren then g.src else (v.extractLsb' 59 2).toNat }
        let ok : Prop := d.st.traceen n.val = true ∧ g.trbase + g.trlen ≤ 2 ^ 20 ∧
          ∀ o, o < g.trlen → d.st.yown ((g.trbase + o) / 4096) = n.val
        (v.getLsbD 63 = false → sets (.dbgTrctlWrite n v) { h with tren := false }) ∧
        (v.getLsbD 63 = true → d.st.traceen n.val = false → sets (.dbgTrctlWrite n v) { h with denied := true }) ∧
        (v.getLsbD 63 = true → 0 < g.trlen → ¬ ok → sets (.dbgTrctlWrite n v) { h with denied := true }) ∧
        (v.getLsbD 63 = true → 0 < g.trlen → ok → g.tren = true ∨ (d.tiles = [] ∧ ∀ c ∈ d.coresOf n.val, (d.core c).run = false) →
          sets (.dbgTrctlWrite n v) { h with tren := true })) ∧
      (g.hgo = false → g.cap = none →
        (3 ≤ d.pkg.level → sets (.dbgHgctlGo n) { g with refused := true }) ∧
        (d.pkg.level < 3 →
          sets (.dbgHgctlGo n) { g with refused := false, hgo := true
                                        cap := some (d.time, false, if d.st.hang then d.snapEntries n.val else d.ringEntries n.val) })) ∧
      (g.hgo = true ∨ g.cap.isSome = true → exec (.dbgHgctlGo n) ⟨d, q⟩ = .next ⟨d, q⟩)) ∧
    (d.live = true → g.hangms ≠ 0 → (∃ c ∈ d.cmds, c.part = n.val ∧ c.open_ = true) → g.cap = none →
      (d.now < g.last + 1000000 * g.hangms → exec (.hangAutoCapture n) ⟨d, q⟩ = .next ⟨d, q⟩) ∧
      (g.last + 1000000 * g.hangms ≤ d.now →
        (3 ≤ d.pkg.level → sets (.hangAutoCapture n) { g with refused := true, hgo := false }) ∧
        (d.pkg.level < 3 →
          sets (.hangAutoCapture n) { g with cap := some (d.time, true, if d.st.hang then d.snapEntries n.val else d.ringEntries n.val) }))) ∧
    (d.live = true → d.bell.failedAt = none → g.cap.isSome = true →
      ∃ e, exec (.captureComplete n) ⟨d, q⟩ = .next ⟨e, q⟩ ∧ (e.part n.val).d.cap = none ∧ (e.part n.val).d.hgo = false ∧
        (e.part n.val).pend.testBit 4 = true)

/-- R13, R14, R335, R482: an access of another size or alignment, or at an offset of an unprivileged view beyond 1 MiB or in the IMG or MEM block, has no effect but that it is counted and the first is captured; shown on PKG registers and PART_AROOT, a write changes a register's fields by their access types, a 32-bit one only its half, and read-only registers ignore it. What an access of another size or of a part of a view does to the count is read as log 127 says. -/
def Obligations.RegisterAccessesActOrAreCounted : Prop :=
  ∀ (d : Dev) (q : List Instr) (v : Word), d.answers = true →
    let count : Nat := min 0xFFFF (d.pkg.badcnt + 1)
    let bad (view : View) (off : BitVec 26) (write : Bool) (len : Nat) : Prop :=
      ∃ e, exec (.registerAccessError view off write len) ⟨d, q⟩ = .next ⟨e, q⟩ ∧ e = { d with pkg := e.pkg, out := e.out, vecs := e.vecs } ∧
        e.pkg.badcnt = count ∧ e.pkg.err.testBit 0 = true ∧
        (d.pkg.err.testBit 0 = true → e = { d with pkg := { d.pkg with badcnt := count } }) ∧
        (d.pkg.err.testBit 0 = false → e.pkg.errAddr.getLsbD 63 = true ∧ e.pkg.errAddr.getLsbD 62 = write ∧ e.pkg.errAddr.extractLsb' 0 26 = off ∧
          (e.pkg.errAddr.extractLsb' 53 6).toNat = match view with | .fn f => f.val | .space _ => 63)
    let gives (off : BitVec 26) (half : Option Bool) (e : Dev) : Prop := exec (.registerWrite (.fn 0) off half v) ⟨d, q⟩ = .next ⟨e, q⟩
    (∀ view off write len, ¬ ((len = 4 ∨ len = 8) ∧ off.toNat % len = 0) → bad view off write len) ∧
    (∀ (f : Fin 33) off write len, f.val ≠ 0 → (0x100000 ≤ off.toNat ∨ off.toNat / 0x10000 = 1 ∨ off.toNat / 0x10000 = 10) → bad (.fn f) off write len) ∧
    gives 0x0000000 none d ∧ gives 0x0000020 none d ∧ gives 0x0000028 none d ∧
    gives 0x0000100 none { d with pkg := { d.pkg with intSum := d.pkg.intSum &&& (2 ^ 64 - 1 - (v.extractLsb' 0 8).toNat) } } ∧
    gives 0x0000108 none { d with pkg := { d.pkg with intEn := (v.extractLsb' 0 8).toNat } } ∧
    gives 0x0000110 none { d with pkg := { d.pkg with err := d.pkg.err &&& (2 ^ 64 - 1 - (v.extractLsb' 0 7).toNat), badcnt := (v.extractLsb' 48 16).toNat } } ∧
    (d.pkg.err < 2 ^ 7 → gives 0x0000110 (some true) { d with pkg := { d.pkg with badcnt := (v.extractLsb' 48 16).toNat } }) ∧
    (d.pkg.intEn < 2 ^ 8 → gives 0x0000108 (some true) d) ∧
    (∀ n : Fin 32, (d.part n.val).st ≠ 0 →
      ∃ e, exec (.registerWrite (.space none) (BitVec.ofNat 26 (0x200028 + 0x10000 * n.val)) none v) ⟨d, q⟩ = .next ⟨e, q⟩ ∧
        e = { d with parts := e.parts } ∧ e.part n.val = { d.part n.val with aroot := v } ∧ ∀ m, m ≠ n.val → e.part m = d.part m)

/-- R200, R296, R297, R304, R305, R437, Tables 5.14, 6.4, 10.10, 15.6: the state right after reset has no waiting command, and these hold what the spec gives for reset: pins at their open state, flash as manufactured, partitions ABSENT, queue and debug fields, core registers, and the fixed credit windows of a tile. That the state right after reset is the package before its first power-up, as manufactured and with its pins open, is the model's choice (log 16). -/
def Obligations.ResetHoldsTheValuesOfTheSpec : Prop :=
  let s := State.reset
  let d := s.dev
  s.pending = [] ∧ s.pendingWf ∧ d.mem.wf ∧
  (d.start.pwrGood = false ∧ d.start.coolant = false ∧ d.start.rstRel = true ∧ d.start.perstRel = false ∧ d.start.straps = 63 ∧ d.pkg.ready = false) ∧
  (d.flash.slotA = [] ∧ d.flash.slotB = [] ∧ d.flash.boot0.2.2 = false ∧ d.flash.boot1.2.2 = false ∧ d.flash.key = none ∧ d.flash.floor = 0) ∧
  (d.pkg.intSum = 0 ∧ d.pkg.intEn = 0 ∧ d.pkg.err = 0 ∧ d.pkg.badcnt = 0 ∧ d.pkg.errAddr = 0) ∧
  (∀ n, (d.part n).st = 0 ∧ (d.part n).pend = 0 ∧ (d.part n).d.fren = false ∧ (d.part n).d.frlog = 4 ∧ (d.part n).d.operf = 0xFFFF ∧ (d.part n).x.parkms = 1000) ∧
  (∀ k, (d.queue k).en = false ∧ (d.queue k).sqhead = 0 ∧ (d.queue k).cqtail = 0 ∧ (d.queue k).phase = true ∧ (d.queue k).baddb = false) ∧
  (∀ c, (d.core c).run = false ∧ (d.core c).ven = true ∧ (d.core c).fen = true ∧ (d.core c).sum = false ∧ (d.core c).ie = false ∧
    (d.core c).tcmp = BitVec.allOnes 64 ∧ (d.core c).ien = 0 ∧ (d.core c).ipend = 0) ∧
  (d.mem.streamThr = 64 ∧ d.mem.lockw = 0 ∧ d.mem.amode = 0 ∧ d.pwr.cap = 100) ∧
  (∀ k, k < 4 → (d.win k).en = true ∧ (d.win k).base = 0 ∧ (d.win k).len = 96)

/-- Every step takes the front command off the queue and leaves the rest in its order, each still within the limits of its row; an empty queue stays empty while one nanosecond passes (the model's idle step, log 1). The idle step is the model's choice (log 1), and so is the queue (log 14). -/
def Obligations.StepsTakeTheQueueInOrder : Prop :=
  ∀ (s s' : State), step s = .next s' →
    s'.pending = s.pending.tail ∧ (s.pendingWf → s'.pendingWf) ∧ (s.pending = [] → s'.dev.now = s.dev.now + 1 ∧ s'.dev.mem = s.dev.mem ∧ s'.dev.flash = s.dev.flash)

/-- R304, R305: no step lowers the rollback floor or takes the verifying key away, and only a key install changes the key; a change of a key asks for a signature that verifies under it. That the signature is over the 32 bytes of the new key is the model's choice (log 5). -/
def Obligations.SealedFlashIsKept : Prop :=
  ∀ (s s' : State), step s = .next s' →
    s.dev.flash.floor ≤ s'.dev.flash.floor ∧
    (∀ k, s.dev.flash.key = some k → s'.dev.flash.key ≠ none ∧
      (s'.dev.flash.key ≠ some k → ∃ h n sig, s.pending.head? = some (.keyInstall h n sig) ∧ s'.dev.flash.key = some n ∧
        Config.ed25519Verifies k (bytesOf 32 n.toNat) sig = true)) ∧
    (s'.dev.flash.key ≠ s.dev.flash.key → ∃ h n sig, s.pending.head? = some (.keyInstall h n sig))
end

