-- ==== Sys2Proof/Laws/Table.lean ====
section
/-! SUPPORT. Laws/Table.lean: sparse tables: reads after writes, and the canonical form that every write keeps. -/

namespace Sys2Proof.Machine

open Sys2Proof

variable {α : Type}

@[simp] theorem SMap.get_nil (d : α) (k : Nat) : SMap.get d [] k = d := rfl
@[simp] theorem SMap.get_cons (d : α) (j k : Nat) (v : α) (m : SMap α) :
    SMap.get d ((j, v) :: m) k = if j = k then v else SMap.get d m k := rfl

/-! ### Reads after writes -/

theorem SMap.get_del_self (d : α) (m : SMap α) (k : Nat) : SMap.get d (SMap.del m k) k = d := by
  induction m with
  | nil => rfl
  | cons e m ih =>
    obtain ⟨j, v⟩ := e
    by_cases h : j = k <;> simp [SMap.del, h, ih]

theorem SMap.get_del_ne (d : α) (m : SMap α) {k j : Nat} (h : j ≠ k) : SMap.get d (SMap.del m k) j = SMap.get d m j := by
  induction m with
  | nil => rfl
  | cons e m ih =>
    obtain ⟨i, v⟩ := e
    by_cases hi : i = k
    · subst hi; simp [SMap.del, ih, h.symm]
    · simp [SMap.del, hi, ih]

theorem SMap.del_lacks (m : SMap α) (k : Nat) : ∀ e ∈ SMap.del m k, e.1 ≠ k := by
  induction m with
  | nil => simp [SMap.del]
  | cons e m ih =>
    obtain ⟨j, v⟩ := e
    by_cases h : j = k
    · simpa [SMap.del, h] using ih
    · simpa [SMap.del, h] using ih

theorem SMap.get_ins_self (d : α) (m : SMap α) (k : Nat) (v : α) (h : ∀ e ∈ m, e.1 ≠ k) : SMap.get d (SMap.ins m k v) k = v := by
  induction m with
  | nil => simp [SMap.ins]
  | cons e m ih =>
    obtain ⟨j, w⟩ := e
    have hj : j ≠ k := h (j, w) (by simp)
    by_cases hk : k < j
    · simp [SMap.ins, hk]
    · simpa [SMap.ins, hk, hj] using ih fun e he => h e (by simp [he])

theorem SMap.get_ins_ne (d : α) (m : SMap α) {k j : Nat} (v : α) (h : j ≠ k) : SMap.get d (SMap.ins m k v) j = SMap.get d m j := by
  induction m with
  | nil => simp [SMap.ins, h.symm]
  | cons e m ih =>
    obtain ⟨i, w⟩ := e
    by_cases hk : k < i
    · simp [SMap.ins, hk, h.symm]
    · simp [SMap.ins, hk, ih]

/-- A read of the key just written gives the value written. -/
@[simp] theorem SMap.get_put_self [DecidableEq α] (d : α) (m : SMap α) (k : Nat) (v : α) : SMap.get d (SMap.put d m k v) k = v := by
  unfold SMap.put
  split
  · rw [SMap.get_del_self]; exact (by assumption : v = d).symm
  · exact SMap.get_ins_self d _ k v (SMap.del_lacks m k)

/-- A write leaves every other key alone, whatever an unlisted key reads as there. -/
theorem SMap.get_put_other [DecidableEq α] (d e : α) (m : SMap α) {k j : Nat} (v : α) (h : j ≠ k) :
    SMap.get e (SMap.put d m k v) j = SMap.get e m j := by
  unfold SMap.put
  split
  · exact SMap.get_del_ne e m h
  · rw [SMap.get_ins_ne e _ v h, SMap.get_del_ne e m h]

/-- A write leaves every other key alone. -/
theorem SMap.get_put_ne [DecidableEq α] (d : α) (m : SMap α) {k j : Nat} (v : α) (h : j ≠ k) :
    SMap.get d (SMap.put d m k v) j = SMap.get d m j := SMap.get_put_other d d m v h

theorem SMap.get_put [DecidableEq α] (d : α) (m : SMap α) (k j : Nat) (v : α) :
    SMap.get d (SMap.put d m k v) j = if j = k then v else SMap.get d m j := by
  by_cases h : j = k
  · subst h; simp
  · simp [h, SMap.get_put_ne d m v h]

@[simp] theorem SMap.get_upd_self [DecidableEq α] (d : α) (m : SMap α) (k : Nat) (f : α → α) :
    SMap.get d (SMap.upd d m k f) k = f (SMap.get d m k) := SMap.get_put_self d m k _

theorem SMap.get_upd_ne [DecidableEq α] (d : α) (m : SMap α) {k j : Nat} (f : α → α) (h : j ≠ k) :
    SMap.get d (SMap.upd d m k f) j = SMap.get d m j := SMap.get_put_ne d m _ h

theorem SMap.get_upd [DecidableEq α] (d : α) (m : SMap α) (k j : Nat) (f : α → α) :
    SMap.get d (SMap.upd d m k f) j = if j = k then f (SMap.get d m k) else SMap.get d m j := SMap.get_put d m k j _

/-! ### A write over a write -/

theorem SMap.del_ins (m : SMap α) (k : Nat) (v : α) (h : ∀ e ∈ m, e.1 ≠ k) : SMap.del (SMap.ins m k v) k = m := by
  have hd : ∀ m : SMap α, (∀ e ∈ m, e.1 ≠ k) → SMap.del m k = m := by
    intro m hm
    induction m with
    | nil => rfl
    | cons e m ih =>
      obtain ⟨j, w⟩ := e
      have hj : j ≠ k := hm (j, w) (by simp)
      simp [SMap.del, hj, ih fun e he => hm e (by simp [he])]
  induction m with
  | nil => simp [SMap.ins, SMap.del]
  | cons e m ih =>
    obtain ⟨j, w⟩ := e
    have hj : j ≠ k := h (j, w) (by simp)
    by_cases hk : k < j
    · simp [SMap.ins, hk, SMap.del, hj, hd m fun e he => h e (by simp [he])]
    · simp [SMap.ins, hk, SMap.del, hj, ih fun e he => h e (by simp [he])]

theorem SMap.del_del (m : SMap α) (k : Nat) : SMap.del (SMap.del m k) k = SMap.del m k := by
  induction m with
  | nil => rfl
  | cons e m ih =>
    obtain ⟨j, w⟩ := e
    by_cases hj : j = k <;> simp [SMap.del, hj, ih]

theorem SMap.del_put [DecidableEq α] (d : α) (m : SMap α) (k : Nat) (v : α) : SMap.del (SMap.put d m k v) k = SMap.del m k := by
  unfold SMap.put
  split
  · exact SMap.del_del m k
  · exact SMap.del_ins _ k v (SMap.del_lacks m k)

@[simp] theorem SMap.put_put [DecidableEq α] (d : α) (m : SMap α) (k : Nat) (v w : α) :
    SMap.put d (SMap.put d m k v) k w = SMap.put d m k w := by
  have h := SMap.del_put d m k v
  revert h
  generalize SMap.put d m k v = t
  intro h
  simp [SMap.put, h]

@[simp] theorem SMap.upd_upd [DecidableEq α] (d : α) (m : SMap α) (k : Nat) (f g : α → α) :
    SMap.upd d (SMap.upd d m k f) k g = SMap.upd d m k fun x => g (f x) := by
  simp [SMap.upd]

/-! ### The canonical form -/

theorem SMap.above_trans {i j : Nat} (h : i < j) {m : SMap α} (ha : SMap.above j m) : SMap.above i m := by
  cases m with
  | nil => trivial
  | cons e m => exact ⟨lt_trans h ha.1, by
      have := ha.2
      induction m with
      | nil => trivial
      | cons e' m ih => exact ⟨lt_trans h this.1, ih ⟨ha.1, this.2⟩ this.2⟩⟩

theorem SMap.above_del {i : Nat} {m : SMap α} (k : Nat) (h : SMap.above i m) : SMap.above i (SMap.del m k) := by
  induction m with
  | nil => trivial
  | cons e m ih =>
    obtain ⟨j, v⟩ := e
    by_cases hj : j = k
    · simpa [SMap.del, hj] using ih h.2
    · simpa [SMap.del, hj] using ⟨h.1, ih h.2⟩

theorem SMap.wf_del {d : α} {m : SMap α} (k : Nat) (h : SMap.wf d m) : SMap.wf d (SMap.del m k) := by
  induction m with
  | nil => trivial
  | cons e m ih =>
    obtain ⟨j, v⟩ := e
    by_cases hj : j = k
    · simpa [SMap.del, hj] using ih h.2.2
    · simpa [SMap.del, hj] using ⟨h.1, SMap.above_del k h.2.1, ih h.2.2⟩

theorem SMap.above_ins {i k : Nat} {v : α} {m : SMap α} (hi : i < k) (h : SMap.above i m) : SMap.above i (SMap.ins m k v) := by
  induction m with
  | nil => exact ⟨hi, trivial⟩
  | cons e m ih =>
    obtain ⟨j, w⟩ := e
    by_cases hk : k < j
    · simpa [SMap.ins, hk] using ⟨hi, h.1, h.2⟩
    · simpa [SMap.ins, hk] using ⟨h.1, ih h.2⟩

theorem SMap.wf_ins {d v : α} (hv : v ≠ d) {k : Nat} {m : SMap α} (hl : ∀ e ∈ m, e.1 ≠ k) (h : SMap.wf d m) :
    SMap.wf d (SMap.ins m k v) := by
  induction m with
  | nil => exact ⟨hv, trivial, trivial⟩
  | cons e m ih =>
    obtain ⟨j, w⟩ := e
    by_cases hk : k < j
    · simpa [SMap.ins, hk] using ⟨hv, ⟨hk, SMap.above_trans hk h.2.1⟩, h.1, h.2.1, h.2.2⟩
    · have hj : j ≠ k := hl (j, w) (by simp)
      have hjk : j < k := by omega
      simpa [SMap.ins, hk] using ⟨h.1, SMap.above_ins hjk h.2.1, ih (fun e he => hl e (by simp [he])) h.2.2⟩

/-- A write keeps the canonical form. -/
theorem SMap.wf_put [DecidableEq α] {d : α} {m : SMap α} (k : Nat) (v : α) (h : SMap.wf d m) : SMap.wf d (SMap.put d m k v) := by
  unfold SMap.put
  split
  · exact SMap.wf_del k h
  · exact SMap.wf_ins (by assumption) (SMap.del_lacks m k) (SMap.wf_del k h)

theorem SMap.wf_upd [DecidableEq α] {d : α} {m : SMap α} (k : Nat) (f : α → α) (h : SMap.wf d m) : SMap.wf d (SMap.upd d m k f) :=
  SMap.wf_put k _ h

theorem SMap.above_drop {i : Nat} {m : SMap α} (p : Nat → Bool) (h : SMap.above i m) : SMap.above i (SMap.drop p m) := by
  induction m with
  | nil => trivial
  | cons e m ih =>
    obtain ⟨j, v⟩ := e
    by_cases hj : p j
    · simpa [SMap.drop, hj] using ih h.2
    · simpa [SMap.drop, hj] using ⟨h.1, ih h.2⟩

theorem SMap.wf_drop {d : α} {m : SMap α} (p : Nat → Bool) (h : SMap.wf d m) : SMap.wf d (SMap.drop p m) := by
  induction m with
  | nil => trivial
  | cons e m ih =>
    obtain ⟨j, v⟩ := e
    by_cases hj : p j
    · simpa [SMap.drop, hj] using ih h.2.2
    · simpa [SMap.drop, hj] using ⟨h.1, SMap.above_drop p h.2.1, ih h.2.2⟩

/-- Two canonical tables that read the same are the same. -/
theorem SMap.get_of_above (d : α) {i : Nat} {m : SMap α} (h : SMap.above i m) : SMap.get d m i = d := by
  induction m with
  | nil => rfl
  | cons e m ih =>
    obtain ⟨j, v⟩ := e
    have : j ≠ i := by have := h.1; omega
    simp [this, ih h.2]

/-! ### Runs of bytes -/

@[simp] theorem SMap.length_bytes (d : Byte) (m : SMap Byte) (a n : Nat) : (SMap.bytes d m a n).length = n := by
  induction n generalizing a with
  | zero => rfl
  | succ n ih => simp [SMap.bytes, ih]

theorem SMap.wf_putBytes {d : Byte} {m : SMap Byte} (a : Nat) (bs : List Byte) (h : SMap.wf d m) : SMap.wf d (SMap.putBytes d m a bs) := by
  induction bs generalizing m a with
  | nil => exact h
  | cons b bs ih => exact ih (a + 1) (SMap.wf_put a b h)

/-- A run of bytes written leaves every address outside it alone. -/
theorem SMap.get_putBytes_out (d : Byte) (m : SMap Byte) (a : Nat) (bs : List Byte) {k : Nat} (h : k < a ∨ a + bs.length ≤ k) :
    SMap.get d (SMap.putBytes d m a bs) k = SMap.get d m k := by
  induction bs generalizing m a with
  | nil => rfl
  | cons b bs ih =>
    have hl : (b :: bs).length = bs.length + 1 := rfl
    rw [SMap.putBytes, ih _ (a + 1) (by omega), SMap.get_put_ne _ _ _ (by omega)]

/-- A run of bytes reads back as written. -/
theorem SMap.bytes_putBytes (d : Byte) (m : SMap Byte) (a : Nat) (bs : List Byte) :
    SMap.bytes d (SMap.putBytes d m a bs) a bs.length = bs := by
  induction bs generalizing m a with
  | nil => rfl
  | cons b bs ih =>
    simp only [List.length_cons, SMap.bytes, SMap.putBytes]
    rw [ih, SMap.get_putBytes_out _ _ _ _ (by omega), SMap.get_put_self]

end Sys2Proof.Machine
end

