-- ==== Sys2Proof/Laws/State.lean ====
section
/-! SUPPORT. Laws/State.lean: one lemma per field per update of the package, and what each accessor reads after each update. -/

namespace Sys2Proof.Machine

open Sys2Proof

/-! ### setPart -/

@[simp] theorem Dev.setPart_var (d : Dev) (n : Nat) (f : Part → Part) : (d.setPart n f).var = d.var := rfl
@[simp] theorem Dev.setPart_now (d : Dev) (n : Nat) (f : Part → Part) : (d.setPart n f).now = d.now := rfl
@[simp] theorem Dev.setPart_fi (d : Dev) (n : Nat) (f : Part → Part) : (d.setPart n f).fi = d.fi := rfl
@[simp] theorem Dev.setPart_start (d : Dev) (n : Nat) (f : Part → Part) : (d.setPart n f).start = d.start := rfl
@[simp] theorem Dev.setPart_pkg (d : Dev) (n : Nat) (f : Part → Part) : (d.setPart n f).pkg = d.pkg := rfl
@[simp] theorem Dev.setPart_un (d : Dev) (n : Nat) (f : Part → Part) : (d.setPart n f).un = d.un := rfl
@[simp] theorem Dev.setPart_img (d : Dev) (n : Nat) (f : Part → Part) : (d.setPart n f).img = d.img := rfl
@[simp] theorem Dev.setPart_flash (d : Dev) (n : Nat) (f : Part → Part) : (d.setPart n f).flash = d.flash := rfl
@[simp] theorem Dev.setPart_fab (d : Dev) (n : Nat) (f : Part → Part) : (d.setPart n f).fab = d.fab := rfl
@[simp] theorem Dev.setPart_pwr (d : Dev) (n : Nat) (f : Part → Part) : (d.setPart n f).pwr = d.pwr := rfl
@[simp] theorem Dev.setPart_bell (d : Dev) (n : Nat) (f : Part → Part) : (d.setPart n f).bell = d.bell := rfl
@[simp] theorem Dev.setPart_mem (d : Dev) (n : Nat) (f : Part → Part) : (d.setPart n f).mem = d.mem := rfl
@[simp] theorem Dev.setPart_tiles (d : Dev) (n : Nat) (f : Part → Part) : (d.setPart n f).tiles = d.tiles := rfl
@[simp] theorem Dev.setPart_wins (d : Dev) (n : Nat) (f : Part → Part) : (d.setPart n f).wins = d.wins := rfl
@[simp] theorem Dev.setPart_ingr (d : Dev) (n : Nat) (f : Part → Part) : (d.setPart n f).ingr = d.ingr := rfl
@[simp] theorem Dev.setPart_cores (d : Dev) (n : Nat) (f : Part → Part) : (d.setPart n f).cores = d.cores := rfl
@[simp] theorem Dev.setPart_tng (d : Dev) (n : Nat) (f : Part → Part) : (d.setPart n f).tng = d.tng := rfl
@[simp] theorem Dev.setPart_tongs (d : Dev) (n : Nat) (f : Part → Part) : (d.setPart n f).tongs = d.tongs := rfl
@[simp] theorem Dev.setPart_keys (d : Dev) (n : Nat) (f : Part → Part) : (d.setPart n f).keys = d.keys := rfl
@[simp] theorem Dev.setPart_nextKey (d : Dev) (n : Nat) (f : Part → Part) : (d.setPart n f).nextKey = d.nextKey := rfl
@[simp] theorem Dev.setPart_queues (d : Dev) (n : Nat) (f : Part → Part) : (d.setPart n f).queues = d.queues := rfl
@[simp] theorem Dev.setPart_cmds (d : Dev) (n : Nat) (f : Part → Part) : (d.setPart n f).cmds = d.cmds := rfl
@[simp] theorem Dev.setPart_vecs (d : Dev) (n : Nat) (f : Part → Part) : (d.setPart n f).vecs = d.vecs := rfl
@[simp] theorem Dev.setPart_cntQ (d : Dev) (n : Nat) (f : Part → Part) : (d.setPart n f).cntQ = d.cntQ := rfl
@[simp] theorem Dev.setPart_cntP (d : Dev) (n : Nat) (f : Part → Part) : (d.setPart n f).cntP = d.cntP := rfl
@[simp] theorem Dev.setPart_rem (d : Dev) (n : Nat) (f : Part → Part) : (d.setPart n f).rem = d.rem := rfl
@[simp] theorem Dev.setPart_hang (d : Dev) (n : Nat) (f : Part → Part) : (d.setPart n f).hang = d.hang := rfl
@[simp] theorem Dev.setPart_trace (d : Dev) (n : Nat) (f : Part → Part) : (d.setPart n f).trace = d.trace := rfl
@[simp] theorem Dev.setPart_qstrokes (d : Dev) (n : Nat) (f : Part → Part) : (d.setPart n f).qstrokes = d.qstrokes := rfl
@[simp] theorem Dev.setPart_corr (d : Dev) (n : Nat) (f : Part → Part) : (d.setPart n f).corr = d.corr := rfl
@[simp] theorem Dev.setPart_uncorr (d : Dev) (n : Nat) (f : Part → Part) : (d.setPart n f).uncorr = d.uncorr := rfl
@[simp] theorem Dev.setPart_out (d : Dev) (n : Nat) (f : Part → Part) : (d.setPart n f).out = d.out := rfl

@[simp] theorem Dev.queue_setPart (d : Dev) (n : Nat) (f : Part → Part) (j : Nat) : (d.setPart n f).queue j = d.queue j := rfl
@[simp] theorem Dev.tile_setPart (d : Dev) (n : Nat) (f : Part → Part) (j : Nat) : (d.setPart n f).tile j = d.tile j := rfl
@[simp] theorem Dev.core_setPart (d : Dev) (n : Nat) (f : Part → Part) (j : Nat) : (d.setPart n f).core j = d.core j := rfl
@[simp] theorem Dev.serving_setPart (d : Dev) (n : Nat) (f : Part → Part) (j : Nat) : (d.setPart n f).serving j = d.serving j := rfl
@[simp] theorem Dev.brick_setPart (d : Dev) (n : Nat) (f : Part → Part) (j : Nat) : (d.setPart n f).brick j = d.brick j := rfl
@[simp] theorem Dev.win_setPart (d : Dev) (n : Nat) (f : Part → Part) (j : Nat) : (d.setPart n f).win j = d.win j := rfl
@[simp] theorem Dev.cmd_setPart (d : Dev) (n : Nat) (f : Part → Part) (r : CmdRef) : (d.setPart n f).cmd r = d.cmd r := rfl

/-! ### setQueue -/

@[simp] theorem Dev.setQueue_var (d : Dev) (k : Nat) (f : Queue → Queue) : (d.setQueue k f).var = d.var := rfl
@[simp] theorem Dev.setQueue_now (d : Dev) (k : Nat) (f : Queue → Queue) : (d.setQueue k f).now = d.now := rfl
@[simp] theorem Dev.setQueue_fi (d : Dev) (k : Nat) (f : Queue → Queue) : (d.setQueue k f).fi = d.fi := rfl
@[simp] theorem Dev.setQueue_start (d : Dev) (k : Nat) (f : Queue → Queue) : (d.setQueue k f).start = d.start := rfl
@[simp] theorem Dev.setQueue_pkg (d : Dev) (k : Nat) (f : Queue → Queue) : (d.setQueue k f).pkg = d.pkg := rfl
@[simp] theorem Dev.setQueue_un (d : Dev) (k : Nat) (f : Queue → Queue) : (d.setQueue k f).un = d.un := rfl
@[simp] theorem Dev.setQueue_img (d : Dev) (k : Nat) (f : Queue → Queue) : (d.setQueue k f).img = d.img := rfl
@[simp] theorem Dev.setQueue_flash (d : Dev) (k : Nat) (f : Queue → Queue) : (d.setQueue k f).flash = d.flash := rfl
@[simp] theorem Dev.setQueue_fab (d : Dev) (k : Nat) (f : Queue → Queue) : (d.setQueue k f).fab = d.fab := rfl
@[simp] theorem Dev.setQueue_pwr (d : Dev) (k : Nat) (f : Queue → Queue) : (d.setQueue k f).pwr = d.pwr := rfl
@[simp] theorem Dev.setQueue_bell (d : Dev) (k : Nat) (f : Queue → Queue) : (d.setQueue k f).bell = d.bell := rfl
@[simp] theorem Dev.setQueue_mem (d : Dev) (k : Nat) (f : Queue → Queue) : (d.setQueue k f).mem = d.mem := rfl
@[simp] theorem Dev.setQueue_tiles (d : Dev) (k : Nat) (f : Queue → Queue) : (d.setQueue k f).tiles = d.tiles := rfl
@[simp] theorem Dev.setQueue_wins (d : Dev) (k : Nat) (f : Queue → Queue) : (d.setQueue k f).wins = d.wins := rfl
@[simp] theorem Dev.setQueue_ingr (d : Dev) (k : Nat) (f : Queue → Queue) : (d.setQueue k f).ingr = d.ingr := rfl
@[simp] theorem Dev.setQueue_cores (d : Dev) (k : Nat) (f : Queue → Queue) : (d.setQueue k f).cores = d.cores := rfl
@[simp] theorem Dev.setQueue_tng (d : Dev) (k : Nat) (f : Queue → Queue) : (d.setQueue k f).tng = d.tng := rfl
@[simp] theorem Dev.setQueue_tongs (d : Dev) (k : Nat) (f : Queue → Queue) : (d.setQueue k f).tongs = d.tongs := rfl
@[simp] theorem Dev.setQueue_keys (d : Dev) (k : Nat) (f : Queue → Queue) : (d.setQueue k f).keys = d.keys := rfl
@[simp] theorem Dev.setQueue_nextKey (d : Dev) (k : Nat) (f : Queue → Queue) : (d.setQueue k f).nextKey = d.nextKey := rfl
@[simp] theorem Dev.setQueue_parts (d : Dev) (k : Nat) (f : Queue → Queue) : (d.setQueue k f).parts = d.parts := rfl
@[simp] theorem Dev.setQueue_cmds (d : Dev) (k : Nat) (f : Queue → Queue) : (d.setQueue k f).cmds = d.cmds := rfl
@[simp] theorem Dev.setQueue_vecs (d : Dev) (k : Nat) (f : Queue → Queue) : (d.setQueue k f).vecs = d.vecs := rfl
@[simp] theorem Dev.setQueue_cntQ (d : Dev) (k : Nat) (f : Queue → Queue) : (d.setQueue k f).cntQ = d.cntQ := rfl
@[simp] theorem Dev.setQueue_cntP (d : Dev) (k : Nat) (f : Queue → Queue) : (d.setQueue k f).cntP = d.cntP := rfl
@[simp] theorem Dev.setQueue_rem (d : Dev) (k : Nat) (f : Queue → Queue) : (d.setQueue k f).rem = d.rem := rfl
@[simp] theorem Dev.setQueue_hang (d : Dev) (k : Nat) (f : Queue → Queue) : (d.setQueue k f).hang = d.hang := rfl
@[simp] theorem Dev.setQueue_trace (d : Dev) (k : Nat) (f : Queue → Queue) : (d.setQueue k f).trace = d.trace := rfl
@[simp] theorem Dev.setQueue_qstrokes (d : Dev) (k : Nat) (f : Queue → Queue) : (d.setQueue k f).qstrokes = d.qstrokes := rfl
@[simp] theorem Dev.setQueue_corr (d : Dev) (k : Nat) (f : Queue → Queue) : (d.setQueue k f).corr = d.corr := rfl
@[simp] theorem Dev.setQueue_uncorr (d : Dev) (k : Nat) (f : Queue → Queue) : (d.setQueue k f).uncorr = d.uncorr := rfl
@[simp] theorem Dev.setQueue_out (d : Dev) (k : Nat) (f : Queue → Queue) : (d.setQueue k f).out = d.out := rfl

@[simp] theorem Dev.part_setQueue (d : Dev) (k : Nat) (f : Queue → Queue) (j : Nat) : (d.setQueue k f).part j = d.part j := rfl
@[simp] theorem Dev.tile_setQueue (d : Dev) (k : Nat) (f : Queue → Queue) (j : Nat) : (d.setQueue k f).tile j = d.tile j := rfl
@[simp] theorem Dev.core_setQueue (d : Dev) (k : Nat) (f : Queue → Queue) (j : Nat) : (d.setQueue k f).core j = d.core j := rfl
@[simp] theorem Dev.serving_setQueue (d : Dev) (k : Nat) (f : Queue → Queue) (j : Nat) : (d.setQueue k f).serving j = d.serving j := rfl
@[simp] theorem Dev.brick_setQueue (d : Dev) (k : Nat) (f : Queue → Queue) (j : Nat) : (d.setQueue k f).brick j = d.brick j := rfl
@[simp] theorem Dev.win_setQueue (d : Dev) (k : Nat) (f : Queue → Queue) (j : Nat) : (d.setQueue k f).win j = d.win j := rfl
@[simp] theorem Dev.cmd_setQueue (d : Dev) (k : Nat) (f : Queue → Queue) (r : CmdRef) : (d.setQueue k f).cmd r = d.cmd r := rfl

/-! ### setTile -/

@[simp] theorem Dev.setTile_var (d : Dev) (k : Nat) (f : Tile → Tile) : (d.setTile k f).var = d.var := rfl
@[simp] theorem Dev.setTile_now (d : Dev) (k : Nat) (f : Tile → Tile) : (d.setTile k f).now = d.now := rfl
@[simp] theorem Dev.setTile_fi (d : Dev) (k : Nat) (f : Tile → Tile) : (d.setTile k f).fi = d.fi := rfl
@[simp] theorem Dev.setTile_start (d : Dev) (k : Nat) (f : Tile → Tile) : (d.setTile k f).start = d.start := rfl
@[simp] theorem Dev.setTile_pkg (d : Dev) (k : Nat) (f : Tile → Tile) : (d.setTile k f).pkg = d.pkg := rfl
@[simp] theorem Dev.setTile_un (d : Dev) (k : Nat) (f : Tile → Tile) : (d.setTile k f).un = d.un := rfl
@[simp] theorem Dev.setTile_img (d : Dev) (k : Nat) (f : Tile → Tile) : (d.setTile k f).img = d.img := rfl
@[simp] theorem Dev.setTile_flash (d : Dev) (k : Nat) (f : Tile → Tile) : (d.setTile k f).flash = d.flash := rfl
@[simp] theorem Dev.setTile_fab (d : Dev) (k : Nat) (f : Tile → Tile) : (d.setTile k f).fab = d.fab := rfl
@[simp] theorem Dev.setTile_pwr (d : Dev) (k : Nat) (f : Tile → Tile) : (d.setTile k f).pwr = d.pwr := rfl
@[simp] theorem Dev.setTile_bell (d : Dev) (k : Nat) (f : Tile → Tile) : (d.setTile k f).bell = d.bell := rfl
@[simp] theorem Dev.setTile_mem (d : Dev) (k : Nat) (f : Tile → Tile) : (d.setTile k f).mem = d.mem := rfl
@[simp] theorem Dev.setTile_wins (d : Dev) (k : Nat) (f : Tile → Tile) : (d.setTile k f).wins = d.wins := rfl
@[simp] theorem Dev.setTile_ingr (d : Dev) (k : Nat) (f : Tile → Tile) : (d.setTile k f).ingr = d.ingr := rfl
@[simp] theorem Dev.setTile_cores (d : Dev) (k : Nat) (f : Tile → Tile) : (d.setTile k f).cores = d.cores := rfl
@[simp] theorem Dev.setTile_tng (d : Dev) (k : Nat) (f : Tile → Tile) : (d.setTile k f).tng = d.tng := rfl
@[simp] theorem Dev.setTile_tongs (d : Dev) (k : Nat) (f : Tile → Tile) : (d.setTile k f).tongs = d.tongs := rfl
@[simp] theorem Dev.setTile_keys (d : Dev) (k : Nat) (f : Tile → Tile) : (d.setTile k f).keys = d.keys := rfl
@[simp] theorem Dev.setTile_nextKey (d : Dev) (k : Nat) (f : Tile → Tile) : (d.setTile k f).nextKey = d.nextKey := rfl
@[simp] theorem Dev.setTile_parts (d : Dev) (k : Nat) (f : Tile → Tile) : (d.setTile k f).parts = d.parts := rfl
@[simp] theorem Dev.setTile_queues (d : Dev) (k : Nat) (f : Tile → Tile) : (d.setTile k f).queues = d.queues := rfl
@[simp] theorem Dev.setTile_cmds (d : Dev) (k : Nat) (f : Tile → Tile) : (d.setTile k f).cmds = d.cmds := rfl
@[simp] theorem Dev.setTile_vecs (d : Dev) (k : Nat) (f : Tile → Tile) : (d.setTile k f).vecs = d.vecs := rfl
@[simp] theorem Dev.setTile_cntQ (d : Dev) (k : Nat) (f : Tile → Tile) : (d.setTile k f).cntQ = d.cntQ := rfl
@[simp] theorem Dev.setTile_cntP (d : Dev) (k : Nat) (f : Tile → Tile) : (d.setTile k f).cntP = d.cntP := rfl
@[simp] theorem Dev.setTile_rem (d : Dev) (k : Nat) (f : Tile → Tile) : (d.setTile k f).rem = d.rem := rfl
@[simp] theorem Dev.setTile_hang (d : Dev) (k : Nat) (f : Tile → Tile) : (d.setTile k f).hang = d.hang := rfl
@[simp] theorem Dev.setTile_trace (d : Dev) (k : Nat) (f : Tile → Tile) : (d.setTile k f).trace = d.trace := rfl
@[simp] theorem Dev.setTile_qstrokes (d : Dev) (k : Nat) (f : Tile → Tile) : (d.setTile k f).qstrokes = d.qstrokes := rfl
@[simp] theorem Dev.setTile_corr (d : Dev) (k : Nat) (f : Tile → Tile) : (d.setTile k f).corr = d.corr := rfl
@[simp] theorem Dev.setTile_uncorr (d : Dev) (k : Nat) (f : Tile → Tile) : (d.setTile k f).uncorr = d.uncorr := rfl
@[simp] theorem Dev.setTile_out (d : Dev) (k : Nat) (f : Tile → Tile) : (d.setTile k f).out = d.out := rfl

@[simp] theorem Dev.part_setTile (d : Dev) (k : Nat) (f : Tile → Tile) (j : Nat) : (d.setTile k f).part j = d.part j := rfl
@[simp] theorem Dev.queue_setTile (d : Dev) (k : Nat) (f : Tile → Tile) (j : Nat) : (d.setTile k f).queue j = d.queue j := rfl
@[simp] theorem Dev.core_setTile (d : Dev) (k : Nat) (f : Tile → Tile) (j : Nat) : (d.setTile k f).core j = d.core j := rfl
@[simp] theorem Dev.serving_setTile (d : Dev) (k : Nat) (f : Tile → Tile) (j : Nat) : (d.setTile k f).serving j = d.serving j := rfl
@[simp] theorem Dev.brick_setTile (d : Dev) (k : Nat) (f : Tile → Tile) (j : Nat) : (d.setTile k f).brick j = d.brick j := rfl
@[simp] theorem Dev.win_setTile (d : Dev) (k : Nat) (f : Tile → Tile) (j : Nat) : (d.setTile k f).win j = d.win j := rfl
@[simp] theorem Dev.cmd_setTile (d : Dev) (k : Nat) (f : Tile → Tile) (r : CmdRef) : (d.setTile k f).cmd r = d.cmd r := rfl

/-! ### setCore -/

@[simp] theorem Dev.setCore_var (d : Dev) (c : Nat) (f : Core → Core) : (d.setCore c f).var = d.var := rfl
@[simp] theorem Dev.setCore_now (d : Dev) (c : Nat) (f : Core → Core) : (d.setCore c f).now = d.now := rfl
@[simp] theorem Dev.setCore_fi (d : Dev) (c : Nat) (f : Core → Core) : (d.setCore c f).fi = d.fi := rfl
@[simp] theorem Dev.setCore_start (d : Dev) (c : Nat) (f : Core → Core) : (d.setCore c f).start = d.start := rfl
@[simp] theorem Dev.setCore_pkg (d : Dev) (c : Nat) (f : Core → Core) : (d.setCore c f).pkg = d.pkg := rfl
@[simp] theorem Dev.setCore_un (d : Dev) (c : Nat) (f : Core → Core) : (d.setCore c f).un = d.un := rfl
@[simp] theorem Dev.setCore_img (d : Dev) (c : Nat) (f : Core → Core) : (d.setCore c f).img = d.img := rfl
@[simp] theorem Dev.setCore_flash (d : Dev) (c : Nat) (f : Core → Core) : (d.setCore c f).flash = d.flash := rfl
@[simp] theorem Dev.setCore_fab (d : Dev) (c : Nat) (f : Core → Core) : (d.setCore c f).fab = d.fab := rfl
@[simp] theorem Dev.setCore_pwr (d : Dev) (c : Nat) (f : Core → Core) : (d.setCore c f).pwr = d.pwr := rfl
@[simp] theorem Dev.setCore_bell (d : Dev) (c : Nat) (f : Core → Core) : (d.setCore c f).bell = d.bell := rfl
@[simp] theorem Dev.setCore_mem (d : Dev) (c : Nat) (f : Core → Core) : (d.setCore c f).mem = d.mem := rfl
@[simp] theorem Dev.setCore_tiles (d : Dev) (c : Nat) (f : Core → Core) : (d.setCore c f).tiles = d.tiles := rfl
@[simp] theorem Dev.setCore_wins (d : Dev) (c : Nat) (f : Core → Core) : (d.setCore c f).wins = d.wins := rfl
@[simp] theorem Dev.setCore_ingr (d : Dev) (c : Nat) (f : Core → Core) : (d.setCore c f).ingr = d.ingr := rfl
@[simp] theorem Dev.setCore_tng (d : Dev) (c : Nat) (f : Core → Core) : (d.setCore c f).tng = d.tng := rfl
@[simp] theorem Dev.setCore_tongs (d : Dev) (c : Nat) (f : Core → Core) : (d.setCore c f).tongs = d.tongs := rfl
@[simp] theorem Dev.setCore_keys (d : Dev) (c : Nat) (f : Core → Core) : (d.setCore c f).keys = d.keys := rfl
@[simp] theorem Dev.setCore_nextKey (d : Dev) (c : Nat) (f : Core → Core) : (d.setCore c f).nextKey = d.nextKey := rfl
@[simp] theorem Dev.setCore_parts (d : Dev) (c : Nat) (f : Core → Core) : (d.setCore c f).parts = d.parts := rfl
@[simp] theorem Dev.setCore_queues (d : Dev) (c : Nat) (f : Core → Core) : (d.setCore c f).queues = d.queues := rfl
@[simp] theorem Dev.setCore_cmds (d : Dev) (c : Nat) (f : Core → Core) : (d.setCore c f).cmds = d.cmds := rfl
@[simp] theorem Dev.setCore_vecs (d : Dev) (c : Nat) (f : Core → Core) : (d.setCore c f).vecs = d.vecs := rfl
@[simp] theorem Dev.setCore_cntQ (d : Dev) (c : Nat) (f : Core → Core) : (d.setCore c f).cntQ = d.cntQ := rfl
@[simp] theorem Dev.setCore_cntP (d : Dev) (c : Nat) (f : Core → Core) : (d.setCore c f).cntP = d.cntP := rfl
@[simp] theorem Dev.setCore_rem (d : Dev) (c : Nat) (f : Core → Core) : (d.setCore c f).rem = d.rem := rfl
@[simp] theorem Dev.setCore_hang (d : Dev) (c : Nat) (f : Core → Core) : (d.setCore c f).hang = d.hang := rfl
@[simp] theorem Dev.setCore_trace (d : Dev) (c : Nat) (f : Core → Core) : (d.setCore c f).trace = d.trace := rfl
@[simp] theorem Dev.setCore_qstrokes (d : Dev) (c : Nat) (f : Core → Core) : (d.setCore c f).qstrokes = d.qstrokes := rfl
@[simp] theorem Dev.setCore_corr (d : Dev) (c : Nat) (f : Core → Core) : (d.setCore c f).corr = d.corr := rfl
@[simp] theorem Dev.setCore_uncorr (d : Dev) (c : Nat) (f : Core → Core) : (d.setCore c f).uncorr = d.uncorr := rfl
@[simp] theorem Dev.setCore_out (d : Dev) (c : Nat) (f : Core → Core) : (d.setCore c f).out = d.out := rfl

@[simp] theorem Dev.part_setCore (d : Dev) (c : Nat) (f : Core → Core) (j : Nat) : (d.setCore c f).part j = d.part j := rfl
@[simp] theorem Dev.queue_setCore (d : Dev) (c : Nat) (f : Core → Core) (j : Nat) : (d.setCore c f).queue j = d.queue j := rfl
@[simp] theorem Dev.tile_setCore (d : Dev) (c : Nat) (f : Core → Core) (j : Nat) : (d.setCore c f).tile j = d.tile j := rfl
@[simp] theorem Dev.serving_setCore (d : Dev) (c : Nat) (f : Core → Core) (j : Nat) : (d.setCore c f).serving j = d.serving j := rfl
@[simp] theorem Dev.brick_setCore (d : Dev) (c : Nat) (f : Core → Core) (j : Nat) : (d.setCore c f).brick j = d.brick j := rfl
@[simp] theorem Dev.win_setCore (d : Dev) (c : Nat) (f : Core → Core) (j : Nat) : (d.setCore c f).win j = d.win j := rfl
@[simp] theorem Dev.cmd_setCore (d : Dev) (c : Nat) (f : Core → Core) (r : CmdRef) : (d.setCore c f).cmd r = d.cmd r := rfl

/-! ### setServing -/

@[simp] theorem Dev.setServing_var (d : Dev) (n : Nat) (f : Tng → Tng) : (d.setServing n f).var = d.var := rfl
@[simp] theorem Dev.setServing_now (d : Dev) (n : Nat) (f : Tng → Tng) : (d.setServing n f).now = d.now := rfl
@[simp] theorem Dev.setServing_fi (d : Dev) (n : Nat) (f : Tng → Tng) : (d.setServing n f).fi = d.fi := rfl
@[simp] theorem Dev.setServing_start (d : Dev) (n : Nat) (f : Tng → Tng) : (d.setServing n f).start = d.start := rfl
@[simp] theorem Dev.setServing_pkg (d : Dev) (n : Nat) (f : Tng → Tng) : (d.setServing n f).pkg = d.pkg := rfl
@[simp] theorem Dev.setServing_un (d : Dev) (n : Nat) (f : Tng → Tng) : (d.setServing n f).un = d.un := rfl
@[simp] theorem Dev.setServing_img (d : Dev) (n : Nat) (f : Tng → Tng) : (d.setServing n f).img = d.img := rfl
@[simp] theorem Dev.setServing_flash (d : Dev) (n : Nat) (f : Tng → Tng) : (d.setServing n f).flash = d.flash := rfl
@[simp] theorem Dev.setServing_fab (d : Dev) (n : Nat) (f : Tng → Tng) : (d.setServing n f).fab = d.fab := rfl
@[simp] theorem Dev.setServing_pwr (d : Dev) (n : Nat) (f : Tng → Tng) : (d.setServing n f).pwr = d.pwr := rfl
@[simp] theorem Dev.setServing_bell (d : Dev) (n : Nat) (f : Tng → Tng) : (d.setServing n f).bell = d.bell := rfl
@[simp] theorem Dev.setServing_mem (d : Dev) (n : Nat) (f : Tng → Tng) : (d.setServing n f).mem = d.mem := rfl
@[simp] theorem Dev.setServing_tiles (d : Dev) (n : Nat) (f : Tng → Tng) : (d.setServing n f).tiles = d.tiles := rfl
@[simp] theorem Dev.setServing_wins (d : Dev) (n : Nat) (f : Tng → Tng) : (d.setServing n f).wins = d.wins := rfl
@[simp] theorem Dev.setServing_ingr (d : Dev) (n : Nat) (f : Tng → Tng) : (d.setServing n f).ingr = d.ingr := rfl
@[simp] theorem Dev.setServing_cores (d : Dev) (n : Nat) (f : Tng → Tng) : (d.setServing n f).cores = d.cores := rfl
@[simp] theorem Dev.setServing_tongs (d : Dev) (n : Nat) (f : Tng → Tng) : (d.setServing n f).tongs = d.tongs := rfl
@[simp] theorem Dev.setServing_keys (d : Dev) (n : Nat) (f : Tng → Tng) : (d.setServing n f).keys = d.keys := rfl
@[simp] theorem Dev.setServing_nextKey (d : Dev) (n : Nat) (f : Tng → Tng) : (d.setServing n f).nextKey = d.nextKey := rfl
@[simp] theorem Dev.setServing_parts (d : Dev) (n : Nat) (f : Tng → Tng) : (d.setServing n f).parts = d.parts := rfl
@[simp] theorem Dev.setServing_queues (d : Dev) (n : Nat) (f : Tng → Tng) : (d.setServing n f).queues = d.queues := rfl
@[simp] theorem Dev.setServing_cmds (d : Dev) (n : Nat) (f : Tng → Tng) : (d.setServing n f).cmds = d.cmds := rfl
@[simp] theorem Dev.setServing_vecs (d : Dev) (n : Nat) (f : Tng → Tng) : (d.setServing n f).vecs = d.vecs := rfl
@[simp] theorem Dev.setServing_cntQ (d : Dev) (n : Nat) (f : Tng → Tng) : (d.setServing n f).cntQ = d.cntQ := rfl
@[simp] theorem Dev.setServing_cntP (d : Dev) (n : Nat) (f : Tng → Tng) : (d.setServing n f).cntP = d.cntP := rfl
@[simp] theorem Dev.setServing_rem (d : Dev) (n : Nat) (f : Tng → Tng) : (d.setServing n f).rem = d.rem := rfl
@[simp] theorem Dev.setServing_hang (d : Dev) (n : Nat) (f : Tng → Tng) : (d.setServing n f).hang = d.hang := rfl
@[simp] theorem Dev.setServing_trace (d : Dev) (n : Nat) (f : Tng → Tng) : (d.setServing n f).trace = d.trace := rfl
@[simp] theorem Dev.setServing_qstrokes (d : Dev) (n : Nat) (f : Tng → Tng) : (d.setServing n f).qstrokes = d.qstrokes := rfl
@[simp] theorem Dev.setServing_corr (d : Dev) (n : Nat) (f : Tng → Tng) : (d.setServing n f).corr = d.corr := rfl
@[simp] theorem Dev.setServing_uncorr (d : Dev) (n : Nat) (f : Tng → Tng) : (d.setServing n f).uncorr = d.uncorr := rfl
@[simp] theorem Dev.setServing_out (d : Dev) (n : Nat) (f : Tng → Tng) : (d.setServing n f).out = d.out := rfl

@[simp] theorem Dev.part_setServing (d : Dev) (n : Nat) (f : Tng → Tng) (j : Nat) : (d.setServing n f).part j = d.part j := rfl
@[simp] theorem Dev.queue_setServing (d : Dev) (n : Nat) (f : Tng → Tng) (j : Nat) : (d.setServing n f).queue j = d.queue j := rfl
@[simp] theorem Dev.tile_setServing (d : Dev) (n : Nat) (f : Tng → Tng) (j : Nat) : (d.setServing n f).tile j = d.tile j := rfl
@[simp] theorem Dev.core_setServing (d : Dev) (n : Nat) (f : Tng → Tng) (j : Nat) : (d.setServing n f).core j = d.core j := rfl
@[simp] theorem Dev.brick_setServing (d : Dev) (n : Nat) (f : Tng → Tng) (j : Nat) : (d.setServing n f).brick j = d.brick j := rfl
@[simp] theorem Dev.win_setServing (d : Dev) (n : Nat) (f : Tng → Tng) (j : Nat) : (d.setServing n f).win j = d.win j := rfl
@[simp] theorem Dev.cmd_setServing (d : Dev) (n : Nat) (f : Tng → Tng) (r : CmdRef) : (d.setServing n f).cmd r = d.cmd r := rfl

/-! ### setBrick -/

@[simp] theorem Dev.setBrick_var (d : Dev) (p : Nat) (f : Brick → Brick) : (d.setBrick p f).var = d.var := rfl
@[simp] theorem Dev.setBrick_now (d : Dev) (p : Nat) (f : Brick → Brick) : (d.setBrick p f).now = d.now := rfl
@[simp] theorem Dev.setBrick_fi (d : Dev) (p : Nat) (f : Brick → Brick) : (d.setBrick p f).fi = d.fi := rfl
@[simp] theorem Dev.setBrick_start (d : Dev) (p : Nat) (f : Brick → Brick) : (d.setBrick p f).start = d.start := rfl
@[simp] theorem Dev.setBrick_pkg (d : Dev) (p : Nat) (f : Brick → Brick) : (d.setBrick p f).pkg = d.pkg := rfl
@[simp] theorem Dev.setBrick_un (d : Dev) (p : Nat) (f : Brick → Brick) : (d.setBrick p f).un = d.un := rfl
@[simp] theorem Dev.setBrick_img (d : Dev) (p : Nat) (f : Brick → Brick) : (d.setBrick p f).img = d.img := rfl
@[simp] theorem Dev.setBrick_flash (d : Dev) (p : Nat) (f : Brick → Brick) : (d.setBrick p f).flash = d.flash := rfl
@[simp] theorem Dev.setBrick_fab (d : Dev) (p : Nat) (f : Brick → Brick) : (d.setBrick p f).fab = d.fab := rfl
@[simp] theorem Dev.setBrick_pwr (d : Dev) (p : Nat) (f : Brick → Brick) : (d.setBrick p f).pwr = d.pwr := rfl
@[simp] theorem Dev.setBrick_bell (d : Dev) (p : Nat) (f : Brick → Brick) : (d.setBrick p f).bell = d.bell := rfl
@[simp] theorem Dev.setBrick_mem (d : Dev) (p : Nat) (f : Brick → Brick) : (d.setBrick p f).mem = d.mem := rfl
@[simp] theorem Dev.setBrick_tiles (d : Dev) (p : Nat) (f : Brick → Brick) : (d.setBrick p f).tiles = d.tiles := rfl
@[simp] theorem Dev.setBrick_wins (d : Dev) (p : Nat) (f : Brick → Brick) : (d.setBrick p f).wins = d.wins := rfl
@[simp] theorem Dev.setBrick_ingr (d : Dev) (p : Nat) (f : Brick → Brick) : (d.setBrick p f).ingr = d.ingr := rfl
@[simp] theorem Dev.setBrick_cores (d : Dev) (p : Nat) (f : Brick → Brick) : (d.setBrick p f).cores = d.cores := rfl
@[simp] theorem Dev.setBrick_tng (d : Dev) (p : Nat) (f : Brick → Brick) : (d.setBrick p f).tng = d.tng := rfl
@[simp] theorem Dev.setBrick_keys (d : Dev) (p : Nat) (f : Brick → Brick) : (d.setBrick p f).keys = d.keys := rfl
@[simp] theorem Dev.setBrick_nextKey (d : Dev) (p : Nat) (f : Brick → Brick) : (d.setBrick p f).nextKey = d.nextKey := rfl
@[simp] theorem Dev.setBrick_parts (d : Dev) (p : Nat) (f : Brick → Brick) : (d.setBrick p f).parts = d.parts := rfl
@[simp] theorem Dev.setBrick_queues (d : Dev) (p : Nat) (f : Brick → Brick) : (d.setBrick p f).queues = d.queues := rfl
@[simp] theorem Dev.setBrick_cmds (d : Dev) (p : Nat) (f : Brick → Brick) : (d.setBrick p f).cmds = d.cmds := rfl
@[simp] theorem Dev.setBrick_vecs (d : Dev) (p : Nat) (f : Brick → Brick) : (d.setBrick p f).vecs = d.vecs := rfl
@[simp] theorem Dev.setBrick_cntQ (d : Dev) (p : Nat) (f : Brick → Brick) : (d.setBrick p f).cntQ = d.cntQ := rfl
@[simp] theorem Dev.setBrick_cntP (d : Dev) (p : Nat) (f : Brick → Brick) : (d.setBrick p f).cntP = d.cntP := rfl
@[simp] theorem Dev.setBrick_rem (d : Dev) (p : Nat) (f : Brick → Brick) : (d.setBrick p f).rem = d.rem := rfl
@[simp] theorem Dev.setBrick_hang (d : Dev) (p : Nat) (f : Brick → Brick) : (d.setBrick p f).hang = d.hang := rfl
@[simp] theorem Dev.setBrick_trace (d : Dev) (p : Nat) (f : Brick → Brick) : (d.setBrick p f).trace = d.trace := rfl
@[simp] theorem Dev.setBrick_qstrokes (d : Dev) (p : Nat) (f : Brick → Brick) : (d.setBrick p f).qstrokes = d.qstrokes := rfl
@[simp] theorem Dev.setBrick_corr (d : Dev) (p : Nat) (f : Brick → Brick) : (d.setBrick p f).corr = d.corr := rfl
@[simp] theorem Dev.setBrick_uncorr (d : Dev) (p : Nat) (f : Brick → Brick) : (d.setBrick p f).uncorr = d.uncorr := rfl
@[simp] theorem Dev.setBrick_out (d : Dev) (p : Nat) (f : Brick → Brick) : (d.setBrick p f).out = d.out := rfl

@[simp] theorem Dev.part_setBrick (d : Dev) (p : Nat) (f : Brick → Brick) (j : Nat) : (d.setBrick p f).part j = d.part j := rfl
@[simp] theorem Dev.queue_setBrick (d : Dev) (p : Nat) (f : Brick → Brick) (j : Nat) : (d.setBrick p f).queue j = d.queue j := rfl
@[simp] theorem Dev.tile_setBrick (d : Dev) (p : Nat) (f : Brick → Brick) (j : Nat) : (d.setBrick p f).tile j = d.tile j := rfl
@[simp] theorem Dev.core_setBrick (d : Dev) (p : Nat) (f : Brick → Brick) (j : Nat) : (d.setBrick p f).core j = d.core j := rfl
@[simp] theorem Dev.serving_setBrick (d : Dev) (p : Nat) (f : Brick → Brick) (j : Nat) : (d.setBrick p f).serving j = d.serving j := rfl
@[simp] theorem Dev.win_setBrick (d : Dev) (p : Nat) (f : Brick → Brick) (j : Nat) : (d.setBrick p f).win j = d.win j := rfl
@[simp] theorem Dev.cmd_setBrick (d : Dev) (p : Nat) (f : Brick → Brick) (r : CmdRef) : (d.setBrick p f).cmd r = d.cmd r := rfl

/-! ### putWin -/

@[simp] theorem Dev.putWin_var (d : Dev) (k : Nat) (w : Win) : (d.putWin k w).var = d.var := rfl
@[simp] theorem Dev.putWin_now (d : Dev) (k : Nat) (w : Win) : (d.putWin k w).now = d.now := rfl
@[simp] theorem Dev.putWin_fi (d : Dev) (k : Nat) (w : Win) : (d.putWin k w).fi = d.fi := rfl
@[simp] theorem Dev.putWin_start (d : Dev) (k : Nat) (w : Win) : (d.putWin k w).start = d.start := rfl
@[simp] theorem Dev.putWin_pkg (d : Dev) (k : Nat) (w : Win) : (d.putWin k w).pkg = d.pkg := rfl
@[simp] theorem Dev.putWin_un (d : Dev) (k : Nat) (w : Win) : (d.putWin k w).un = d.un := rfl
@[simp] theorem Dev.putWin_img (d : Dev) (k : Nat) (w : Win) : (d.putWin k w).img = d.img := rfl
@[simp] theorem Dev.putWin_flash (d : Dev) (k : Nat) (w : Win) : (d.putWin k w).flash = d.flash := rfl
@[simp] theorem Dev.putWin_fab (d : Dev) (k : Nat) (w : Win) : (d.putWin k w).fab = d.fab := rfl
@[simp] theorem Dev.putWin_pwr (d : Dev) (k : Nat) (w : Win) : (d.putWin k w).pwr = d.pwr := rfl
@[simp] theorem Dev.putWin_bell (d : Dev) (k : Nat) (w : Win) : (d.putWin k w).bell = d.bell := rfl
@[simp] theorem Dev.putWin_mem (d : Dev) (k : Nat) (w : Win) : (d.putWin k w).mem = d.mem := rfl
@[simp] theorem Dev.putWin_tiles (d : Dev) (k : Nat) (w : Win) : (d.putWin k w).tiles = d.tiles := rfl
@[simp] theorem Dev.putWin_ingr (d : Dev) (k : Nat) (w : Win) : (d.putWin k w).ingr = d.ingr := rfl
@[simp] theorem Dev.putWin_cores (d : Dev) (k : Nat) (w : Win) : (d.putWin k w).cores = d.cores := rfl
@[simp] theorem Dev.putWin_tng (d : Dev) (k : Nat) (w : Win) : (d.putWin k w).tng = d.tng := rfl
@[simp] theorem Dev.putWin_tongs (d : Dev) (k : Nat) (w : Win) : (d.putWin k w).tongs = d.tongs := rfl
@[simp] theorem Dev.putWin_keys (d : Dev) (k : Nat) (w : Win) : (d.putWin k w).keys = d.keys := rfl
@[simp] theorem Dev.putWin_nextKey (d : Dev) (k : Nat) (w : Win) : (d.putWin k w).nextKey = d.nextKey := rfl
@[simp] theorem Dev.putWin_parts (d : Dev) (k : Nat) (w : Win) : (d.putWin k w).parts = d.parts := rfl
@[simp] theorem Dev.putWin_queues (d : Dev) (k : Nat) (w : Win) : (d.putWin k w).queues = d.queues := rfl
@[simp] theorem Dev.putWin_cmds (d : Dev) (k : Nat) (w : Win) : (d.putWin k w).cmds = d.cmds := rfl
@[simp] theorem Dev.putWin_vecs (d : Dev) (k : Nat) (w : Win) : (d.putWin k w).vecs = d.vecs := rfl
@[simp] theorem Dev.putWin_cntQ (d : Dev) (k : Nat) (w : Win) : (d.putWin k w).cntQ = d.cntQ := rfl
@[simp] theorem Dev.putWin_cntP (d : Dev) (k : Nat) (w : Win) : (d.putWin k w).cntP = d.cntP := rfl
@[simp] theorem Dev.putWin_rem (d : Dev) (k : Nat) (w : Win) : (d.putWin k w).rem = d.rem := rfl
@[simp] theorem Dev.putWin_hang (d : Dev) (k : Nat) (w : Win) : (d.putWin k w).hang = d.hang := rfl
@[simp] theorem Dev.putWin_trace (d : Dev) (k : Nat) (w : Win) : (d.putWin k w).trace = d.trace := rfl
@[simp] theorem Dev.putWin_qstrokes (d : Dev) (k : Nat) (w : Win) : (d.putWin k w).qstrokes = d.qstrokes := rfl
@[simp] theorem Dev.putWin_corr (d : Dev) (k : Nat) (w : Win) : (d.putWin k w).corr = d.corr := rfl
@[simp] theorem Dev.putWin_uncorr (d : Dev) (k : Nat) (w : Win) : (d.putWin k w).uncorr = d.uncorr := rfl
@[simp] theorem Dev.putWin_out (d : Dev) (k : Nat) (w : Win) : (d.putWin k w).out = d.out := rfl

@[simp] theorem Dev.part_putWin (d : Dev) (k : Nat) (w : Win) (j : Nat) : (d.putWin k w).part j = d.part j := rfl
@[simp] theorem Dev.queue_putWin (d : Dev) (k : Nat) (w : Win) (j : Nat) : (d.putWin k w).queue j = d.queue j := rfl
@[simp] theorem Dev.tile_putWin (d : Dev) (k : Nat) (w : Win) (j : Nat) : (d.putWin k w).tile j = d.tile j := rfl
@[simp] theorem Dev.core_putWin (d : Dev) (k : Nat) (w : Win) (j : Nat) : (d.putWin k w).core j = d.core j := rfl
@[simp] theorem Dev.serving_putWin (d : Dev) (k : Nat) (w : Win) (j : Nat) : (d.putWin k w).serving j = d.serving j := rfl
@[simp] theorem Dev.brick_putWin (d : Dev) (k : Nat) (w : Win) (j : Nat) : (d.putWin k w).brick j = d.brick j := rfl
@[simp] theorem Dev.cmd_putWin (d : Dev) (k : Nat) (w : Win) (r : CmdRef) : (d.putWin k w).cmd r = d.cmd r := rfl

/-! ### emit -/

@[simp] theorem Dev.emit_var (d : Dev) (o : Out) : (d.emit o).var = d.var := rfl
@[simp] theorem Dev.emit_now (d : Dev) (o : Out) : (d.emit o).now = d.now := rfl
@[simp] theorem Dev.emit_fi (d : Dev) (o : Out) : (d.emit o).fi = d.fi := rfl
@[simp] theorem Dev.emit_start (d : Dev) (o : Out) : (d.emit o).start = d.start := rfl
@[simp] theorem Dev.emit_pkg (d : Dev) (o : Out) : (d.emit o).pkg = d.pkg := rfl
@[simp] theorem Dev.emit_un (d : Dev) (o : Out) : (d.emit o).un = d.un := rfl
@[simp] theorem Dev.emit_img (d : Dev) (o : Out) : (d.emit o).img = d.img := rfl
@[simp] theorem Dev.emit_flash (d : Dev) (o : Out) : (d.emit o).flash = d.flash := rfl
@[simp] theorem Dev.emit_fab (d : Dev) (o : Out) : (d.emit o).fab = d.fab := rfl
@[simp] theorem Dev.emit_pwr (d : Dev) (o : Out) : (d.emit o).pwr = d.pwr := rfl
@[simp] theorem Dev.emit_bell (d : Dev) (o : Out) : (d.emit o).bell = d.bell := rfl
@[simp] theorem Dev.emit_mem (d : Dev) (o : Out) : (d.emit o).mem = d.mem := rfl
@[simp] theorem Dev.emit_tiles (d : Dev) (o : Out) : (d.emit o).tiles = d.tiles := rfl
@[simp] theorem Dev.emit_wins (d : Dev) (o : Out) : (d.emit o).wins = d.wins := rfl
@[simp] theorem Dev.emit_ingr (d : Dev) (o : Out) : (d.emit o).ingr = d.ingr := rfl
@[simp] theorem Dev.emit_cores (d : Dev) (o : Out) : (d.emit o).cores = d.cores := rfl
@[simp] theorem Dev.emit_tng (d : Dev) (o : Out) : (d.emit o).tng = d.tng := rfl
@[simp] theorem Dev.emit_tongs (d : Dev) (o : Out) : (d.emit o).tongs = d.tongs := rfl
@[simp] theorem Dev.emit_keys (d : Dev) (o : Out) : (d.emit o).keys = d.keys := rfl
@[simp] theorem Dev.emit_nextKey (d : Dev) (o : Out) : (d.emit o).nextKey = d.nextKey := rfl
@[simp] theorem Dev.emit_parts (d : Dev) (o : Out) : (d.emit o).parts = d.parts := rfl
@[simp] theorem Dev.emit_queues (d : Dev) (o : Out) : (d.emit o).queues = d.queues := rfl
@[simp] theorem Dev.emit_cmds (d : Dev) (o : Out) : (d.emit o).cmds = d.cmds := rfl
@[simp] theorem Dev.emit_vecs (d : Dev) (o : Out) : (d.emit o).vecs = d.vecs := rfl
@[simp] theorem Dev.emit_cntQ (d : Dev) (o : Out) : (d.emit o).cntQ = d.cntQ := rfl
@[simp] theorem Dev.emit_cntP (d : Dev) (o : Out) : (d.emit o).cntP = d.cntP := rfl
@[simp] theorem Dev.emit_rem (d : Dev) (o : Out) : (d.emit o).rem = d.rem := rfl
@[simp] theorem Dev.emit_hang (d : Dev) (o : Out) : (d.emit o).hang = d.hang := rfl
@[simp] theorem Dev.emit_trace (d : Dev) (o : Out) : (d.emit o).trace = d.trace := rfl
@[simp] theorem Dev.emit_qstrokes (d : Dev) (o : Out) : (d.emit o).qstrokes = d.qstrokes := rfl
@[simp] theorem Dev.emit_corr (d : Dev) (o : Out) : (d.emit o).corr = d.corr := rfl
@[simp] theorem Dev.emit_uncorr (d : Dev) (o : Out) : (d.emit o).uncorr = d.uncorr := rfl

@[simp] theorem Dev.part_emit (d : Dev) (o : Out) (j : Nat) : (d.emit o).part j = d.part j := rfl
@[simp] theorem Dev.queue_emit (d : Dev) (o : Out) (j : Nat) : (d.emit o).queue j = d.queue j := rfl
@[simp] theorem Dev.tile_emit (d : Dev) (o : Out) (j : Nat) : (d.emit o).tile j = d.tile j := rfl
@[simp] theorem Dev.core_emit (d : Dev) (o : Out) (j : Nat) : (d.emit o).core j = d.core j := rfl
@[simp] theorem Dev.serving_emit (d : Dev) (o : Out) (j : Nat) : (d.emit o).serving j = d.serving j := rfl
@[simp] theorem Dev.brick_emit (d : Dev) (o : Out) (j : Nat) : (d.emit o).brick j = d.brick j := rfl
@[simp] theorem Dev.win_emit (d : Dev) (o : Out) (j : Nat) : (d.emit o).win j = d.win j := rfl
@[simp] theorem Dev.cmd_emit (d : Dev) (o : Out) (r : CmdRef) : (d.emit o).cmd r = d.cmd r := rfl

/-! ### setCmd -/

@[simp] theorem Dev.setCmd_var (d : Dev) (c : CmdRef) (f : Cmd → Cmd) : (d.setCmd c f).var = d.var := rfl
@[simp] theorem Dev.setCmd_now (d : Dev) (c : CmdRef) (f : Cmd → Cmd) : (d.setCmd c f).now = d.now := rfl
@[simp] theorem Dev.setCmd_fi (d : Dev) (c : CmdRef) (f : Cmd → Cmd) : (d.setCmd c f).fi = d.fi := rfl
@[simp] theorem Dev.setCmd_start (d : Dev) (c : CmdRef) (f : Cmd → Cmd) : (d.setCmd c f).start = d.start := rfl
@[simp] theorem Dev.setCmd_pkg (d : Dev) (c : CmdRef) (f : Cmd → Cmd) : (d.setCmd c f).pkg = d.pkg := rfl
@[simp] theorem Dev.setCmd_un (d : Dev) (c : CmdRef) (f : Cmd → Cmd) : (d.setCmd c f).un = d.un := rfl
@[simp] theorem Dev.setCmd_img (d : Dev) (c : CmdRef) (f : Cmd → Cmd) : (d.setCmd c f).img = d.img := rfl
@[simp] theorem Dev.setCmd_flash (d : Dev) (c : CmdRef) (f : Cmd → Cmd) : (d.setCmd c f).flash = d.flash := rfl
@[simp] theorem Dev.setCmd_fab (d : Dev) (c : CmdRef) (f : Cmd → Cmd) : (d.setCmd c f).fab = d.fab := rfl
@[simp] theorem Dev.setCmd_pwr (d : Dev) (c : CmdRef) (f : Cmd → Cmd) : (d.setCmd c f).pwr = d.pwr := rfl
@[simp] theorem Dev.setCmd_bell (d : Dev) (c : CmdRef) (f : Cmd → Cmd) : (d.setCmd c f).bell = d.bell := rfl
@[simp] theorem Dev.setCmd_mem (d : Dev) (c : CmdRef) (f : Cmd → Cmd) : (d.setCmd c f).mem = d.mem := rfl
@[simp] theorem Dev.setCmd_tiles (d : Dev) (c : CmdRef) (f : Cmd → Cmd) : (d.setCmd c f).tiles = d.tiles := rfl
@[simp] theorem Dev.setCmd_wins (d : Dev) (c : CmdRef) (f : Cmd → Cmd) : (d.setCmd c f).wins = d.wins := rfl
@[simp] theorem Dev.setCmd_ingr (d : Dev) (c : CmdRef) (f : Cmd → Cmd) : (d.setCmd c f).ingr = d.ingr := rfl
@[simp] theorem Dev.setCmd_cores (d : Dev) (c : CmdRef) (f : Cmd → Cmd) : (d.setCmd c f).cores = d.cores := rfl
@[simp] theorem Dev.setCmd_tng (d : Dev) (c : CmdRef) (f : Cmd → Cmd) : (d.setCmd c f).tng = d.tng := rfl
@[simp] theorem Dev.setCmd_tongs (d : Dev) (c : CmdRef) (f : Cmd → Cmd) : (d.setCmd c f).tongs = d.tongs := rfl
@[simp] theorem Dev.setCmd_keys (d : Dev) (c : CmdRef) (f : Cmd → Cmd) : (d.setCmd c f).keys = d.keys := rfl
@[simp] theorem Dev.setCmd_nextKey (d : Dev) (c : CmdRef) (f : Cmd → Cmd) : (d.setCmd c f).nextKey = d.nextKey := rfl
@[simp] theorem Dev.setCmd_parts (d : Dev) (c : CmdRef) (f : Cmd → Cmd) : (d.setCmd c f).parts = d.parts := rfl
@[simp] theorem Dev.setCmd_queues (d : Dev) (c : CmdRef) (f : Cmd → Cmd) : (d.setCmd c f).queues = d.queues := rfl
@[simp] theorem Dev.setCmd_vecs (d : Dev) (c : CmdRef) (f : Cmd → Cmd) : (d.setCmd c f).vecs = d.vecs := rfl
@[simp] theorem Dev.setCmd_cntQ (d : Dev) (c : CmdRef) (f : Cmd → Cmd) : (d.setCmd c f).cntQ = d.cntQ := rfl
@[simp] theorem Dev.setCmd_cntP (d : Dev) (c : CmdRef) (f : Cmd → Cmd) : (d.setCmd c f).cntP = d.cntP := rfl
@[simp] theorem Dev.setCmd_rem (d : Dev) (c : CmdRef) (f : Cmd → Cmd) : (d.setCmd c f).rem = d.rem := rfl
@[simp] theorem Dev.setCmd_hang (d : Dev) (c : CmdRef) (f : Cmd → Cmd) : (d.setCmd c f).hang = d.hang := rfl
@[simp] theorem Dev.setCmd_trace (d : Dev) (c : CmdRef) (f : Cmd → Cmd) : (d.setCmd c f).trace = d.trace := rfl
@[simp] theorem Dev.setCmd_qstrokes (d : Dev) (c : CmdRef) (f : Cmd → Cmd) : (d.setCmd c f).qstrokes = d.qstrokes := rfl
@[simp] theorem Dev.setCmd_corr (d : Dev) (c : CmdRef) (f : Cmd → Cmd) : (d.setCmd c f).corr = d.corr := rfl
@[simp] theorem Dev.setCmd_uncorr (d : Dev) (c : CmdRef) (f : Cmd → Cmd) : (d.setCmd c f).uncorr = d.uncorr := rfl
@[simp] theorem Dev.setCmd_out (d : Dev) (c : CmdRef) (f : Cmd → Cmd) : (d.setCmd c f).out = d.out := rfl

@[simp] theorem Dev.part_setCmd (d : Dev) (c : CmdRef) (f : Cmd → Cmd) (j : Nat) : (d.setCmd c f).part j = d.part j := rfl
@[simp] theorem Dev.queue_setCmd (d : Dev) (c : CmdRef) (f : Cmd → Cmd) (j : Nat) : (d.setCmd c f).queue j = d.queue j := rfl
@[simp] theorem Dev.tile_setCmd (d : Dev) (c : CmdRef) (f : Cmd → Cmd) (j : Nat) : (d.setCmd c f).tile j = d.tile j := rfl
@[simp] theorem Dev.core_setCmd (d : Dev) (c : CmdRef) (f : Cmd → Cmd) (j : Nat) : (d.setCmd c f).core j = d.core j := rfl
@[simp] theorem Dev.serving_setCmd (d : Dev) (c : CmdRef) (f : Cmd → Cmd) (j : Nat) : (d.setCmd c f).serving j = d.serving j := rfl
@[simp] theorem Dev.brick_setCmd (d : Dev) (c : CmdRef) (f : Cmd → Cmd) (j : Nat) : (d.setCmd c f).brick j = d.brick j := rfl
@[simp] theorem Dev.win_setCmd (d : Dev) (c : CmdRef) (f : Cmd → Cmd) (j : Nat) : (d.setCmd c f).win j = d.win j := rfl

/-! ### Reads after updates -/

theorem Dev.part_setPart (d : Dev) (n : Nat) (f : Part → Part) (j : Nat) : (d.setPart n f).part j = if j = n then f (d.part n) else d.part j :=
  SMap.get_upd _ _ _ _ _
theorem Dev.queue_setQueue (d : Dev) (k : Nat) (f : Queue → Queue) (j : Nat) : (d.setQueue k f).queue j = if j = k then f (d.queue k) else d.queue j :=
  SMap.get_upd _ _ _ _ _
theorem Dev.tile_setTile (d : Dev) (k : Nat) (f : Tile → Tile) (j : Nat) : (d.setTile k f).tile j = if j = k then f (d.tile k) else d.tile j :=
  SMap.get_upd _ _ _ _ _
theorem Dev.core_setCore (d : Dev) (c : Nat) (f : Core → Core) (j : Nat) : (d.setCore c f).core j = if j = c then f (d.core c) else d.core j :=
  SMap.get_upd _ _ _ _ _
theorem Dev.serving_setServing (d : Dev) (n : Nat) (f : Tng → Tng) (j : Nat) :
    (d.setServing n f).serving j = if j = n then f (d.serving n) else d.serving j := SMap.get_upd _ _ _ _ _
theorem Dev.brick_setBrick (d : Dev) (p : Nat) (f : Brick → Brick) (j : Nat) : (d.setBrick p f).brick j = if j = p then f (d.brick p) else d.brick j :=
  SMap.get_upd _ _ _ _ _

@[simp] theorem Dev.part_setPart_self (d : Dev) (n : Nat) (f : Part → Part) : (d.setPart n f).part n = f (d.part n) := SMap.get_upd_self _ _ _ _
@[simp] theorem Dev.queue_setQueue_self (d : Dev) (k : Nat) (f : Queue → Queue) : (d.setQueue k f).queue k = f (d.queue k) := SMap.get_upd_self _ _ _ _
@[simp] theorem Dev.tile_setTile_self (d : Dev) (k : Nat) (f : Tile → Tile) : (d.setTile k f).tile k = f (d.tile k) := SMap.get_upd_self _ _ _ _
@[simp] theorem Dev.core_setCore_self (d : Dev) (c : Nat) (f : Core → Core) : (d.setCore c f).core c = f (d.core c) := SMap.get_upd_self _ _ _ _
@[simp] theorem Dev.serving_setServing_self (d : Dev) (n : Nat) (f : Tng → Tng) : (d.setServing n f).serving n = f (d.serving n) := SMap.get_upd_self _ _ _ _
@[simp] theorem Dev.brick_setBrick_self (d : Dev) (p : Nat) (f : Brick → Brick) : (d.setBrick p f).brick p = f (d.brick p) := SMap.get_upd_self _ _ _ _
@[simp] theorem Dev.win_putWin_self (d : Dev) (k : Nat) (w : Win) : (d.putWin k w).win k = w := SMap.get_put_self _ _ _ _
theorem Dev.win_putWin_ne (d : Dev) {k j : Nat} (w : Win) (h : j ≠ k) : (d.putWin k w).win j = d.win j := SMap.get_put_other _ _ _ _ h

/-! ### An update after an update of the same entry -/

@[simp] theorem Dev.setPart_setPart (d : Dev) (n : Nat) (f g : Part → Part) : (d.setPart n f).setPart n g = d.setPart n fun x => g (f x) := by
  simp [Dev.setPart]
@[simp] theorem Dev.setQueue_setQueue (d : Dev) (k : Nat) (f g : Queue → Queue) : (d.setQueue k f).setQueue k g = d.setQueue k fun x => g (f x) := by
  simp [Dev.setQueue]
@[simp] theorem Dev.setTile_setTile (d : Dev) (k : Nat) (f g : Tile → Tile) : (d.setTile k f).setTile k g = d.setTile k fun x => g (f x) := by
  simp [Dev.setTile]
@[simp] theorem Dev.setCore_setCore (d : Dev) (c : Nat) (f g : Core → Core) : (d.setCore c f).setCore c g = d.setCore c fun x => g (f x) := by
  simp [Dev.setCore]
@[simp] theorem Dev.setServing_setServing (d : Dev) (n : Nat) (f g : Tng → Tng) :
    (d.setServing n f).setServing n g = d.setServing n fun x => g (f x) := by
  simp [Dev.setServing]
@[simp] theorem Dev.setBrick_setBrick (d : Dev) (p : Nat) (f g : Brick → Brick) : (d.setBrick p f).setBrick p g = d.setBrick p fun x => g (f x) := by
  simp [Dev.setBrick]
@[simp] theorem Dev.putWin_putWin (d : Dev) (k : Nat) (v w : Win) : (d.putWin k v).putWin k w = d.putWin k w := by
  simp [Dev.putWin]

@[simp] theorem State.act_eq (s : State) (f : Dev → Dev) : s.act f = .next { s with dev := f s.dev } := rfl

/-! ### Counts change counters alone -/

theorem Dev.count_eq (d : Dev) (a : Acct) (e n : Nat) :
    d.count a e n = { d with cntQ := (d.count a e n).cntQ, cntP := (d.count a e n).cntP } := by
  obtain ⟨c, p⟩ := a
  by_cases hn : n = 0 <;> cases c <;> cases p <;> simp [Dev.count, hn]

@[simp] theorem Dev.count_var (d : Dev) (a : Acct) (e n : Nat) : (d.count a e n).var = d.var := by rw [Dev.count_eq]
@[simp] theorem Dev.count_now (d : Dev) (a : Acct) (e n : Nat) : (d.count a e n).now = d.now := by rw [Dev.count_eq]
@[simp] theorem Dev.count_fi (d : Dev) (a : Acct) (e n : Nat) : (d.count a e n).fi = d.fi := by rw [Dev.count_eq]
@[simp] theorem Dev.count_start (d : Dev) (a : Acct) (e n : Nat) : (d.count a e n).start = d.start := by rw [Dev.count_eq]
@[simp] theorem Dev.count_pkg (d : Dev) (a : Acct) (e n : Nat) : (d.count a e n).pkg = d.pkg := by rw [Dev.count_eq]
@[simp] theorem Dev.count_un (d : Dev) (a : Acct) (e n : Nat) : (d.count a e n).un = d.un := by rw [Dev.count_eq]
@[simp] theorem Dev.count_img (d : Dev) (a : Acct) (e n : Nat) : (d.count a e n).img = d.img := by rw [Dev.count_eq]
@[simp] theorem Dev.count_flash (d : Dev) (a : Acct) (e n : Nat) : (d.count a e n).flash = d.flash := by rw [Dev.count_eq]
@[simp] theorem Dev.count_fab (d : Dev) (a : Acct) (e n : Nat) : (d.count a e n).fab = d.fab := by rw [Dev.count_eq]
@[simp] theorem Dev.count_pwr (d : Dev) (a : Acct) (e n : Nat) : (d.count a e n).pwr = d.pwr := by rw [Dev.count_eq]
@[simp] theorem Dev.count_bell (d : Dev) (a : Acct) (e n : Nat) : (d.count a e n).bell = d.bell := by rw [Dev.count_eq]
@[simp] theorem Dev.count_mem (d : Dev) (a : Acct) (e n : Nat) : (d.count a e n).mem = d.mem := by rw [Dev.count_eq]
@[simp] theorem Dev.count_tiles (d : Dev) (a : Acct) (e n : Nat) : (d.count a e n).tiles = d.tiles := by rw [Dev.count_eq]
@[simp] theorem Dev.count_wins (d : Dev) (a : Acct) (e n : Nat) : (d.count a e n).wins = d.wins := by rw [Dev.count_eq]
@[simp] theorem Dev.count_ingr (d : Dev) (a : Acct) (e n : Nat) : (d.count a e n).ingr = d.ingr := by rw [Dev.count_eq]
@[simp] theorem Dev.count_cores (d : Dev) (a : Acct) (e n : Nat) : (d.count a e n).cores = d.cores := by rw [Dev.count_eq]
@[simp] theorem Dev.count_tng (d : Dev) (a : Acct) (e n : Nat) : (d.count a e n).tng = d.tng := by rw [Dev.count_eq]
@[simp] theorem Dev.count_tongs (d : Dev) (a : Acct) (e n : Nat) : (d.count a e n).tongs = d.tongs := by rw [Dev.count_eq]
@[simp] theorem Dev.count_keys (d : Dev) (a : Acct) (e n : Nat) : (d.count a e n).keys = d.keys := by rw [Dev.count_eq]
@[simp] theorem Dev.count_nextKey (d : Dev) (a : Acct) (e n : Nat) : (d.count a e n).nextKey = d.nextKey := by rw [Dev.count_eq]
@[simp] theorem Dev.count_parts (d : Dev) (a : Acct) (e n : Nat) : (d.count a e n).parts = d.parts := by rw [Dev.count_eq]
@[simp] theorem Dev.count_queues (d : Dev) (a : Acct) (e n : Nat) : (d.count a e n).queues = d.queues := by rw [Dev.count_eq]
@[simp] theorem Dev.count_cmds (d : Dev) (a : Acct) (e n : Nat) : (d.count a e n).cmds = d.cmds := by rw [Dev.count_eq]
@[simp] theorem Dev.count_vecs (d : Dev) (a : Acct) (e n : Nat) : (d.count a e n).vecs = d.vecs := by rw [Dev.count_eq]
@[simp] theorem Dev.count_rem (d : Dev) (a : Acct) (e n : Nat) : (d.count a e n).rem = d.rem := by rw [Dev.count_eq]
@[simp] theorem Dev.count_hang (d : Dev) (a : Acct) (e n : Nat) : (d.count a e n).hang = d.hang := by rw [Dev.count_eq]
@[simp] theorem Dev.count_trace (d : Dev) (a : Acct) (e n : Nat) : (d.count a e n).trace = d.trace := by rw [Dev.count_eq]
@[simp] theorem Dev.count_qstrokes (d : Dev) (a : Acct) (e n : Nat) : (d.count a e n).qstrokes = d.qstrokes := by rw [Dev.count_eq]
@[simp] theorem Dev.count_corr (d : Dev) (a : Acct) (e n : Nat) : (d.count a e n).corr = d.corr := by rw [Dev.count_eq]
@[simp] theorem Dev.count_uncorr (d : Dev) (a : Acct) (e n : Nat) : (d.count a e n).uncorr = d.uncorr := by rw [Dev.count_eq]
@[simp] theorem Dev.count_out (d : Dev) (a : Acct) (e n : Nat) : (d.count a e n).out = d.out := by rw [Dev.count_eq]

@[simp] theorem Dev.part_count (d : Dev) (a : Acct) (e n : Nat) (j : Nat) : (d.count a e n).part j = d.part j := by
  simp [Dev.part]
@[simp] theorem Dev.queue_count (d : Dev) (a : Acct) (e n : Nat) (j : Nat) : (d.count a e n).queue j = d.queue j := by
  simp [Dev.queue]
@[simp] theorem Dev.tile_count (d : Dev) (a : Acct) (e n : Nat) (j : Nat) : (d.count a e n).tile j = d.tile j := by
  simp [Dev.tile]
@[simp] theorem Dev.core_count (d : Dev) (a : Acct) (e n : Nat) (j : Nat) : (d.count a e n).core j = d.core j := by
  simp [Dev.core]
@[simp] theorem Dev.serving_count (d : Dev) (a : Acct) (e n : Nat) (j : Nat) : (d.count a e n).serving j = d.serving j := by
  simp [Dev.serving]
@[simp] theorem Dev.brick_count (d : Dev) (a : Acct) (e n : Nat) (j : Nat) : (d.count a e n).brick j = d.brick j := by
  simp [Dev.brick]
@[simp] theorem Dev.win_count (d : Dev) (a : Acct) (e n : Nat) (j : Nat) : (d.count a e n).win j = d.win j := by
  simp [Dev.win]
@[simp] theorem Dev.cmd_count (d : Dev) (a : Acct) (e n : Nat) (r : CmdRef) : (d.count a e n).cmd r = d.cmd r := by
  simp [Dev.cmd]

/-- Counters after a count depend on the counters before it alone. -/
theorem Dev.count_congr {d e : Dev} (hq : e.cntQ = d.cntQ) (hp : e.cntP = d.cntP) (a : Acct) (v n : Nat) :
    (e.count a v n).cntQ = (d.count a v n).cntQ ∧ (e.count a v n).cntP = (d.count a v n).cntP := by
  obtain ⟨c, p⟩ := a
  by_cases hn : n = 0 <;> cases c <;> cases p <;> simp [Dev.count, hn, hq, hp]

end Sys2Proof.Machine
end

