-- ==== Sys2Proof/Laws/Access.lean ====
section
/-! SUPPORT. Laws/Access.lean: what a translated access, a read and a plain write can change. -/

namespace Sys2Proof.Machine

open Sys2Proof

/-- An access changes at most the cached translations and heats, the memory's caches, the counters, the domains asked to wake, and the number of free values taken. -/
structure Dev.Touched (d e : Dev) : Prop where
  eq : e = { d with parts := e.parts, mem := e.mem, cntQ := e.cntQ, cntP := e.cntP, fi := e.fi, tng := e.tng, tongs := e.tongs }

theorem Dev.Touched.refl (d : Dev) : d.Touched d := ⟨rfl⟩

theorem Dev.Touched.trans {d e f : Dev} (h : d.Touched e) (k : e.Touched f) : d.Touched f := ⟨by rw [k.eq, h.eq]⟩

theorem Dev.touched_count (d : Dev) (a : Acct) (v n : Nat) : d.Touched (d.count a v n) := ⟨by rw [Dev.count_eq]⟩

theorem Dev.touched_countTier (d : Dev) (q : Req) (a n : Nat) : d.Touched (d.countTier q a n) :=
  ((d.touched_count _ _ _).trans (Dev.touched_count _ _ _ _)).trans (Dev.touched_count _ _ _ _)

theorem Dev.touched_read (d : Dev) (q : Req) (a n : Nat) : d.Touched (d.read q a n).1 := by
  unfold Dev.read
  split
  · exact (d.touched_countTier q a n).trans ⟨rfl⟩
  · exact (d.touched_countTier q a n).trans ⟨rfl⟩
  · split
    · exact ⟨rfl⟩
    · exact d.touched_count _ _ _
  · split <;> exact ⟨rfl⟩
  · exact ⟨rfl⟩

theorem Dev.touched_walkGo (q : Req) (lo : Nat) (tok : Nat → Option Nat) (va : Nat) (lvs : List Nat) (tbl : Nat) (d : Dev) :
    d.Touched (walkGo q lo tok va lvs tbl d).1 := by
  induction lvs generalizing tbl d with
  | nil => exact ⟨rfl⟩
  | cons lv rest ih =>
    unfold walkGo
    split
    · exact ⟨rfl⟩
    · dsimp only
      split
      · exact ⟨rfl⟩
      · have h : d.Touched ((d.read q (tbl + 8 * tblIdx lv va) 8).1.count q.acct 39 1) :=
          (d.touched_read q _ 8).trans (Dev.touched_count _ _ _ _)
        split
        · exact h
        · exact h.trans (ih _ _)

theorem Dev.touched_walkE (d : Dev) (n va : Nat) (acct : Acct) : d.Touched (d.walkE n va acct).1 := by
  unfold Dev.walkE
  dsimp only
  split
  · exact ⟨rfl⟩
  · generalize hr : walkGo _ 1 _ va _ _ d = r
    have h : d.Touched r.1 := hr ▸ Dev.touched_walkGo _ _ _ _ _ _ _
    split <;> exact h

theorem Dev.touched_free (d : Dev) : d.Touched d.free.2 := ⟨rfl⟩

theorem Dev.touched_xlateE (d : Dev) (n va : Nat) (acct : Acct) : d.Touched (d.xlateE n va acct).1 := by
  have h := d.touched_walkE n va acct
  have h1 : d.Touched ((d.walkE n va acct).1.count acct 38 1) := h.trans (Dev.touched_count _ _ _ _)
  have h2 : d.Touched (((d.walkE n va acct).1.count acct 38 1).count acct 59 1) := h1.trans (Dev.touched_count _ _ _ _)
  have h3 : d.Touched (d.free.2.count acct 59 1) := d.touched_free.trans (Dev.touched_count _ _ _ _)
  unfold Dev.xlateE
  dsimp only
  split
  · split
    · exact h1.trans ⟨rfl⟩
    · split
      · exact h2
      · exact h1
  · split
    · split
      · exact ⟨rfl⟩
      · split
        · exact d.touched_free.trans ⟨rfl⟩
        · exact d.touched_free
    · split
      · exact h3
      · exact d.touched_free

theorem Dev.touched_wantWake (d : Dev) (a : Nat) : d.Touched (d.wantWake a) := by
  unfold Dev.wantWake
  split
  · split <;> exact ⟨rfl⟩
  · exact ⟨rfl⟩

theorem Dev.touched_heatPage (d : Dev) (n va a : Nat) : d.Touched (d.heatPage n va a) := by
  unfold Dev.heatPage
  split
  · exact ⟨rfl⟩
  · dsimp only
    split
    · exact d.touched_free
    · exact d.touched_free.trans ⟨rfl⟩

theorem Dev.touched_accE (d : Dev) (n va len : Nat) (write : Bool) (acct : Acct) : d.Touched (d.accE n va len write acct).1 := by
  have h := d.touched_xlateE n va acct
  have hc : d.Touched ((d.xlateE n va acct).1.count acct 60 1) := h.trans (Dev.touched_count _ _ _ _)
  unfold Dev.accE
  dsimp only
  cases (d.xlateE n va acct).2 with
  | bad k => exact h
  | ok pa e =>
    dsimp only
    generalize (if write = true then 6 else 5) = b
    cases wb e b with
    | false => exact hc
    | true =>
      simp only [Bool.not_true, Bool.false_eq_true, if_false]
      cases (d.xlateE n va acct).1.target n pa len with
      | bad k => exact hc
      | wait => exact h.trans (Dev.touched_wantWake _ _)
      | loc a =>
        dsimp only
        cases wb e 9 with
        | false => exact h
        | true => exact h.trans (Dev.touched_heatPage _ _ _ _)
      | host b => exact h
      | remote p a => exact h

theorem Dev.touched_accRange (n : Nat) (write : Bool) (acct : Acct) (l : List (Nat × Nat)) (d : Dev) : d.Touched (Dev.accRange n write acct l d).1 := by
  induction l generalizing d with
  | nil => exact ⟨rfl⟩
  | cons x l ih =>
    have h := d.touched_accE n x.1 x.2 write acct
    unfold Dev.accRange
    dsimp only
    split
    · exact h
    · exact h
    · split <;> exact h.trans (ih _)

theorem Dev.touched_hostRead (d : Dev) (q : Req) (b n : Nat) : d.Touched (d.hostRead q b n).1 := Dev.touched_count _ _ _ _

theorem Dev.touched_readAll (q : Req) (l : List (Acc × Nat)) (d : Dev) : d.Touched (Dev.readAll q l d).1 := by
  induction l generalizing d with
  | nil => exact ⟨rfl⟩
  | cons x l ih =>
    obtain ⟨a, n⟩ := x
    cases a <;> exact Dev.Touched.trans (by first | exact ⟨rfl⟩ | exact Dev.touched_read _ _ _ _ | exact Dev.touched_hostRead _ _ _ _) (ih _)

/-- A plain write changes memory, tile stores and counters only. -/
structure Dev.Wrote (d e : Dev) : Prop where
  eq : e = { d with mem := e.mem, tiles := e.tiles, cntQ := e.cntQ, cntP := e.cntP }

theorem Dev.Wrote.trans {d e f : Dev} (h : d.Wrote e) (k : e.Wrote f) : d.Wrote f := ⟨by rw [k.eq, h.eq]⟩

theorem Dev.wrote_count (d : Dev) (a : Acct) (v n : Nat) : d.Wrote (d.count a v n) := ⟨by rw [Dev.count_eq]⟩

theorem Dev.wrote_countTier (d : Dev) (q : Req) (a n : Nat) : d.Wrote (d.countTier q a n) :=
  ((d.wrote_count _ _ _).trans (Dev.wrote_count _ _ _ _)).trans (Dev.wrote_count _ _ _ _)

theorem creditAt_of_lt {base size off : Nat} (h : off < size - 256) : creditAt base size off = none := by
  unfold creditAt
  rw [if_neg (by omega)]

theorem Dev.wrote_write {d : Dev} {q : Req} {a : Nat} {bs : List Byte} (hp : plainMem a bs.length = true) (hb : 0 < bs.length) : d.Wrote (d.write q a bs) := by
  unfold Dev.write
  unfold plainMem at hp
  cases h : place a with
  | ftier s => exact (d.wrote_countTier q a bs.length).trans ⟨rfl⟩
  | dtier s => exact (d.wrote_countTier q a bs.length).trans ⟨rfl⟩
  | yard o =>
    rw [h] at hp
    simp only [decide_eq_true_eq] at hp
    dsimp only
    rw [creditAt_of_lt (by omega)]
    exact (d.wrote_count _ _ _).trans ⟨rfl⟩
  | store b t o =>
    rw [h] at hp
    simp only [decide_eq_true_eq] at hp
    dsimp only
    rw [creditAt_of_lt (by unfold storeSize; omega)]
    exact ⟨rfl⟩
  | priv o => exact ⟨rfl⟩
  | unpriv n o => exact ⟨rfl⟩
  | host o => exact ⟨rfl⟩
  | reserved => exact ⟨rfl⟩

theorem Dev.wrote_hostWrite (d : Dev) (q : Req) (b : Nat) (bs : List Byte) : d.Wrote (d.hostWrite q b bs) :=
  Dev.Wrote.trans (d.wrote_count _ _ _) ⟨rfl⟩

theorem Dev.Touched.var {d e : Dev} (h : d.Touched e) : e.var = d.var := by rw [h.eq]
theorem Dev.Touched.now {d e : Dev} (h : d.Touched e) : e.now = d.now := by rw [h.eq]
theorem Dev.Touched.start {d e : Dev} (h : d.Touched e) : e.start = d.start := by rw [h.eq]
theorem Dev.Touched.pkg {d e : Dev} (h : d.Touched e) : e.pkg = d.pkg := by rw [h.eq]
theorem Dev.Touched.un {d e : Dev} (h : d.Touched e) : e.un = d.un := by rw [h.eq]
theorem Dev.Touched.img {d e : Dev} (h : d.Touched e) : e.img = d.img := by rw [h.eq]
theorem Dev.Touched.flash {d e : Dev} (h : d.Touched e) : e.flash = d.flash := by rw [h.eq]
theorem Dev.Touched.fab {d e : Dev} (h : d.Touched e) : e.fab = d.fab := by rw [h.eq]
theorem Dev.Touched.pwr {d e : Dev} (h : d.Touched e) : e.pwr = d.pwr := by rw [h.eq]
theorem Dev.Touched.bell {d e : Dev} (h : d.Touched e) : e.bell = d.bell := by rw [h.eq]
theorem Dev.Touched.tiles {d e : Dev} (h : d.Touched e) : e.tiles = d.tiles := by rw [h.eq]
theorem Dev.Touched.wins {d e : Dev} (h : d.Touched e) : e.wins = d.wins := by rw [h.eq]
theorem Dev.Touched.ingr {d e : Dev} (h : d.Touched e) : e.ingr = d.ingr := by rw [h.eq]
theorem Dev.Touched.cores {d e : Dev} (h : d.Touched e) : e.cores = d.cores := by rw [h.eq]
theorem Dev.Touched.keys {d e : Dev} (h : d.Touched e) : e.keys = d.keys := by rw [h.eq]
theorem Dev.Touched.nextKey {d e : Dev} (h : d.Touched e) : e.nextKey = d.nextKey := by rw [h.eq]
theorem Dev.Touched.queues {d e : Dev} (h : d.Touched e) : e.queues = d.queues := by rw [h.eq]
theorem Dev.Touched.cmds {d e : Dev} (h : d.Touched e) : e.cmds = d.cmds := by rw [h.eq]
theorem Dev.Touched.vecs {d e : Dev} (h : d.Touched e) : e.vecs = d.vecs := by rw [h.eq]
theorem Dev.Touched.rem {d e : Dev} (h : d.Touched e) : e.rem = d.rem := by rw [h.eq]
theorem Dev.Touched.hang {d e : Dev} (h : d.Touched e) : e.hang = d.hang := by rw [h.eq]
theorem Dev.Touched.trace {d e : Dev} (h : d.Touched e) : e.trace = d.trace := by rw [h.eq]
theorem Dev.Touched.out {d e : Dev} (h : d.Touched e) : e.out = d.out := by rw [h.eq]

theorem Dev.Wrote.var {d e : Dev} (h : d.Wrote e) : e.var = d.var := by rw [h.eq]
theorem Dev.Wrote.now {d e : Dev} (h : d.Wrote e) : e.now = d.now := by rw [h.eq]
theorem Dev.Wrote.fi {d e : Dev} (h : d.Wrote e) : e.fi = d.fi := by rw [h.eq]
theorem Dev.Wrote.start {d e : Dev} (h : d.Wrote e) : e.start = d.start := by rw [h.eq]
theorem Dev.Wrote.pkg {d e : Dev} (h : d.Wrote e) : e.pkg = d.pkg := by rw [h.eq]
theorem Dev.Wrote.un {d e : Dev} (h : d.Wrote e) : e.un = d.un := by rw [h.eq]
theorem Dev.Wrote.img {d e : Dev} (h : d.Wrote e) : e.img = d.img := by rw [h.eq]
theorem Dev.Wrote.flash {d e : Dev} (h : d.Wrote e) : e.flash = d.flash := by rw [h.eq]
theorem Dev.Wrote.fab {d e : Dev} (h : d.Wrote e) : e.fab = d.fab := by rw [h.eq]
theorem Dev.Wrote.pwr {d e : Dev} (h : d.Wrote e) : e.pwr = d.pwr := by rw [h.eq]
theorem Dev.Wrote.bell {d e : Dev} (h : d.Wrote e) : e.bell = d.bell := by rw [h.eq]
theorem Dev.Wrote.wins {d e : Dev} (h : d.Wrote e) : e.wins = d.wins := by rw [h.eq]
theorem Dev.Wrote.ingr {d e : Dev} (h : d.Wrote e) : e.ingr = d.ingr := by rw [h.eq]
theorem Dev.Wrote.cores {d e : Dev} (h : d.Wrote e) : e.cores = d.cores := by rw [h.eq]
theorem Dev.Wrote.tng {d e : Dev} (h : d.Wrote e) : e.tng = d.tng := by rw [h.eq]
theorem Dev.Wrote.tongs {d e : Dev} (h : d.Wrote e) : e.tongs = d.tongs := by rw [h.eq]
theorem Dev.Wrote.keys {d e : Dev} (h : d.Wrote e) : e.keys = d.keys := by rw [h.eq]
theorem Dev.Wrote.nextKey {d e : Dev} (h : d.Wrote e) : e.nextKey = d.nextKey := by rw [h.eq]
theorem Dev.Wrote.parts {d e : Dev} (h : d.Wrote e) : e.parts = d.parts := by rw [h.eq]
theorem Dev.Wrote.queues {d e : Dev} (h : d.Wrote e) : e.queues = d.queues := by rw [h.eq]
theorem Dev.Wrote.cmds {d e : Dev} (h : d.Wrote e) : e.cmds = d.cmds := by rw [h.eq]
theorem Dev.Wrote.vecs {d e : Dev} (h : d.Wrote e) : e.vecs = d.vecs := by rw [h.eq]
theorem Dev.Wrote.rem {d e : Dev} (h : d.Wrote e) : e.rem = d.rem := by rw [h.eq]
theorem Dev.Wrote.hang {d e : Dev} (h : d.Wrote e) : e.hang = d.hang := by rw [h.eq]
theorem Dev.Wrote.trace {d e : Dev} (h : d.Wrote e) : e.trace = d.trace := by rw [h.eq]
theorem Dev.Wrote.out {d e : Dev} (h : d.Wrote e) : e.out = d.out := by rw [h.eq]

end Sys2Proof.Machine
end

