-- ==== Sys2Proof/Laws/Command.lean ====
section
/-! SUPPORT. Laws/Command.lean: what a change of a command, a hang-ring event and a completion do to the package. -/

namespace Sys2Proof.Machine

open Sys2Proof

theorem find_updFirst_self {α : Type} (p : α → Bool) (f : α → α) (l : List α) {x : α} (h : l.find? p = some x) (hf : p (f x) = true) :
    (updFirst p f l).find? p = some (f x) := by
  induction l with
  | nil => simp at h
  | cons y l ih =>
    by_cases hy : p y = true
    · rw [List.find?_cons_of_pos hy] at h
      obtain rfl := Option.some.inj h
      simp [updFirst, hy, List.find?_cons_of_pos hf]
    · rw [List.find?_cons_of_neg hy] at h
      simp [updFirst, hy, List.find?_cons_of_neg hy, ih h]

theorem find_updFirst_ne {α : Type} (p q : α → Bool) (f : α → α) (l : List α) (hq : ∀ x, p x = true → q x = false) (hf : ∀ x, p x = true → q (f x) = false) :
    (updFirst p f l).find? q = l.find? q := by
  induction l with
  | nil => rfl
  | cons y l ih =>
    by_cases hy : p y = true
    · simp [updFirst, hy, hq y hy, hf y hy]
    · by_cases hz : q y = true
      · simp [updFirst, hy, hz]
      · simp [updFirst, hy, hz, ih]

theorem Dev.cmd_ref {d : Dev} {r : CmdRef} {c : Cmd} (h : d.cmd r = some c) : c.ref = r := by
  have := List.find?_some h
  simpa using this

theorem Dev.cmd_setCmd_self {d : Dev} {r : CmdRef} {c : Cmd} {f : Cmd → Cmd} (h : d.cmd r = some c) (hf : (f c).ref = c.ref) :
    (d.setCmd r f).cmd r = some (f c) :=
  find_updFirst_self _ _ _ h (by simp [hf, Dev.cmd_ref h])

theorem Dev.cmd_setCmd_ne {d : Dev} {r u : CmdRef} {f : Cmd → Cmd} (h : u ≠ r) (hf : ∀ c, (f c).ref = c.ref) : (d.setCmd r f).cmd u = d.cmd u :=
  find_updFirst_ne _ _ _ _ (fun x hx => by simp at hx; simp [hx, Ne.symm h]) (fun x hx => by simp at hx; simp [hf, hx, Ne.symm h])

/-- A hang-ring event changes the rings only. -/
theorem Dev.ring_eq (d : Dev) (k u code : Nat) (c : Option Cmd) (det : Word) (w : Nat) (y : Bool) (n : Nat) :
    d.ring k u code c det w y n = { d with hang := (d.ring k u code c det w y n).hang } := by
  unfold Dev.ring
  split <;> rfl

@[simp] theorem Dev.cmd_ring (d : Dev) (k u code : Nat) (c : Option Cmd) (det : Word) (w : Nat) (y : Bool) (n : Nat) (r : CmdRef) :
    (d.ring k u code c det w y n).cmd r = d.cmd r := by
  rw [Dev.ring_eq]
  rfl

/-- A command that begins runs. -/
theorem Dev.begun_cmd {d : Dev} {r : CmdRef} {c : Cmd} (h : d.cmd r = some c) : (d.begun r c).cmd r = some { c with phase := .running } := by
  unfold Dev.begun
  rw [Dev.cmd_ring]
  exact Dev.cmd_setCmd_self h rfl

theorem Dev.begun_eq (d : Dev) (r : CmdRef) (c : Cmd) : d.begun r c = { d with cmds := (d.begun r c).cmds, hang := (d.begun r c).hang } := by
  unfold Dev.begun
  rw [Dev.ring_eq]
  rfl

/-- DUMPs that fire leave every command that is not armed as it was. -/
theorem Dev.cmd_fireDumps {d : Dev} {p l o s : Nat} {r u : CmdRef} {i : Option Nat} {c : Cmd} (h : d.cmd u = some c) (hc : c.phase ≠ .armed) :
    (d.fireDumps p l o s r i).cmd u = some c := by
  unfold Dev.fireDumps Dev.cmd at *
  revert h
  generalize hD : d.cmds = cs
  intro h
  simp only
  suffices H : ∀ (g : Cmd → Cmd), (∀ x, (g x).ref = x.ref) → (∀ x, x.phase ≠ .armed → g x = x) → (cs.map g).find? (fun x => decide (x.ref = u)) = some c by
    apply H
    · intro x; split <;> rfl
    · intro x hx; rw [if_neg (by tauto)]
  intro g hg1 hg2
  clear hD
  induction cs with
  | nil => simp at h
  | cons y cs ih =>
    simp only [List.map_cons, List.find?_cons, hg1] at h ⊢
    split at h
    · obtain rfl := Option.some.inj h
      rw [hg2 _ hc]
    · exact ih h

@[simp] theorem Dev.queue_ring (d : Dev) (k u code : Nat) (c : Option Cmd) (det : Word) (w : Nat) (y : Bool) (n : Nat) (j : Nat) :
    (d.ring k u code c det w y n).queue j = d.queue j := by
  rw [Dev.ring_eq]
  rfl

/-- What a completion changes: the commands, the queue's order of records, the partition's last activity, the hang rings and the free values taken. -/
structure Dev.Completed (d e : Dev) : Prop where
  eq : e = { d with fi := e.fi, cmds := e.cmds, queues := e.queues, parts := e.parts, hang := e.hang }

theorem Dev.Completed.trans {d e f : Dev} (h : d.Completed e) (k : e.Completed f) : d.Completed f := ⟨by rw [k.eq, h.eq]⟩

theorem Dev.completed_ring (d : Dev) (k u code : Nat) (c : Option Cmd) (det : Word) (w : Nat) (y : Bool) (n : Nat) : d.Completed (d.ring k u code c det w y n) :=
  ⟨by rw [Dev.ring_eq]⟩

theorem Dev.complete_keeps (d : Dev) (r : CmdRef) (st reason : Nat) : d.Completed (d.complete r st reason) := by
  unfold Dev.complete
  split
  · exact ⟨rfl⟩
  · split
    · exact ⟨rfl⟩
    · next c hc _ =>
      dsimp only
      have h1 : ∀ x : Dev, x.Completed (if c.part < 32 then x.setPart c.part fun p => { p with d := { p.d with last := x.now } } else x) := fun x => by
        split <;> exact ⟨rfl⟩
      have h2 : ∀ x : Dev, x.Completed (if 2 ≤ c.op ∧ c.op ≤ 4 then x.ring 2 0 0x03 (some c) (BitVec.ofNat 64 st) else x) := fun x => by
        split
        · exact Dev.completed_ring _ _ _ _ _ _ _ _ _
        · exact ⟨rfl⟩
      have h3 : ∀ x : Dev, x.Completed (if st = stPartReset then x else x.fireDumps c.part c.layer c.oper c.step r none) := fun x => by
        split <;> exact ⟨rfl⟩
      exact (((Dev.Completed.trans (Dev.Completed.mk rfl) (h1 _)).trans (Dev.completed_ring _ _ _ _ _ _ _ _ _)).trans (h2 _)).trans (h3 _)

/-- R342: an open command completes with the status given, and its record joins its queue's. -/
theorem Dev.complete_ends {d : Dev} {r : CmdRef} {c : Cmd} (h : d.cmd r = some c) (ho : c.open_ = true) (st reason : Nat) :
    d.ends (d.complete r st reason) r st := by
  have hset : ∀ f : Cmd → Cmd, (f c).ref = c.ref → (({ d with fi := d.fi + 8 } : Dev).setCmd r f).cmd r = some (f c) :=
    fun f hf => Dev.cmd_setCmd_self (d := { d with fi := d.fi + 8 }) h hf
  have main : ∀ x : Dev, (∃ c', x.cmd r = some c' ∧ c'.phase = .done ∧ c'.status = st ∧ c'.desc = c.desc ∧ c'.part = c.part) →
      (x.queue r.qk).out = (d.queue r.qk).out ++ [r.slot.toNat] → d.ends x r st :=
    fun x ⟨c', h1, h2, h3, h4, h5⟩ ho => ⟨⟨c, c', h, h1, h2, h3, h4, h5⟩, ho⟩
  unfold Dev.complete
  rw [h]
  simp only [ho, Bool.not_true, Bool.false_eq_true, if_false]
  have p1 : ∀ x : Dev, ∀ n f, d.ends x r st → d.ends (if c.part < 32 then x.setPart n f else x) r st := fun x n f hx => by
    split
    · exact ⟨hx.cmd, hx.out⟩
    · exact hx
  have p2 : ∀ x : Dev, ∀ k u code a det, d.ends x r st → d.ends (x.ring k u code a det) r st := fun x k u code a det hx =>
    ⟨by simpa using hx.cmd, by simpa using hx.out⟩
  have p3 : ∀ x : Dev, ∀ k u code a det, d.ends x r st → d.ends (if 2 ≤ c.op ∧ c.op ≤ 4 then x.ring k u code a det else x) r st := fun x k u code a det hx => by
    split
    · exact p2 x _ _ _ _ _ hx
    · exact hx
  have p4 : ∀ x : Dev, d.ends x r st → d.ends (if st = stPartReset then x else x.fireDumps c.part c.layer c.oper c.step r none) r st := fun x hx => by
    split
    · exact hx
    · obtain ⟨a, a', q1, q2, q3, q4, q5, q6⟩ := hx.cmd
      exact ⟨⟨a, a', q1, Dev.cmd_fireDumps q2 (by rw [q3]; decide), q3, q4, q5, q6⟩, hx.out⟩
  refine p4 _ (p3 _ _ _ _ _ _ (p2 _ _ _ _ _ _ (p1 _ _ _ (main _ ⟨_, hset _ rfl, rfl, rfl, rfl, rfl⟩ ?_))))
  rw [Dev.queue_setQueue_self]
  rfl

theorem Dev.begun_ends {d e : Dev} {r : CmdRef} {c : Cmd} {st : Nat} (h : d.cmd r = some c) (k : (d.begun r c).ends e r st) : d.ends e r st := by
  obtain ⟨⟨a, a', h1, h2, h3, h4, h5, h6⟩, ho⟩ := k
  rw [Dev.begun_cmd h] at h1
  obtain rfl := Option.some.inj h1
  refine ⟨⟨c, a', h, h2, h3, h4, h5, h6⟩, ?_⟩
  rw [ho, d.begun_eq r c]
  rfl

/-- A command that starts goes on with what its row does (R341). -/
theorem Dev.start_of {d : Dev} {r : CmdRef} {op : Nat} {c : Cmd} (h : d.starts r op c) (k : Cmd → Dev → Dev) :
    d.start_ r op k = k { c with phase := .running } (d.begun r c) := by
  unfold Dev.start_
  rw [h.cmd]
  simp only [h.code, h.may, h.unmarked, ne_eq, not_true_eq_false, decide_false, Bool.not_true, Bool.or_self, Bool.false_eq_true, if_false]
  rfl

/-- R295: a command whose mark was set before it starts completes without effect. -/
theorem Dev.start_of_marked {d : Dev} {r : CmdRef} {op : Nat} {c : Cmd} (h : d.cmd r = some c) (ho : c.op = op) (hc : d.canStart c = true) (hm : c.marked = true)
    (k : Cmd → Dev → Dev) : d.start_ r op k = d.complete r stCancelBefore := by
  unfold Dev.start_
  rw [h]
  simp [ho, hc, hm]

theorem Dev.canStart_waiting {d : Dev} {c : Cmd} (h : d.canStart c = true) : c.phase = .waiting ∧ d.live = true := by
  unfold Dev.canStart at h
  simp only [Bool.and_eq_true, decide_eq_true_eq] at h
  exact ⟨h.1.1.1.2, h.1.1.1.1⟩

theorem Dev.running_none {d : Dev} {r : CmdRef} {op op' : Nat} {c : Cmd} (h : d.starts r op c) : d.running_ r op' = none := by
  unfold Dev.running_
  rw [h.cmd]
  simp [(Dev.canStart_waiting h.may).1]

theorem Dev.running_some {d : Dev} {r : CmdRef} {op : Nat} {c : Cmd} (h : d.underWay r op c) : d.running_ r op = some c := by
  unfold Dev.running_
  rw [h.cmd]
  simp [h.code, h.runs, h.live]

end Sys2Proof.Machine
end

