-- ==== Sys2Proof/Laws/Insn.lean ====
section
/-! SUPPORT. Laws/Insn.lean: what the shared operations of instructions do: register writes, the advance, and a computed register (R146, R152, R162, R457). -/

namespace Sys2Proof.Machine

open Sys2Proof

/-! ### Keys -/

theorem tKey_inj {t u : TileRef} (h : t.key = u.key) : t = u := by
  obtain ⟨b, x⟩ := t
  obtain ⟨c, y⟩ := u
  simp only [TileRef.key, tKey] at h
  have hx := x.isLt
  have hy := y.isLt
  have h1 : b.val = c.val := by omega
  have h2 : x.val = y.val := by omega
  rw [TileRef.mk.injEq]
  exact ⟨Fin.ext h1, Fin.ext h2⟩

/-! ### Rows of fixed length -/

@[simp] theorem nthV_setV_self {α : Type} {n : Nat} (d : α) (l : Vector α n) (k : Nat) (v : α) (h : k < n) : nthV d (setV l k v) k = v := by
  simp [nthV, setV, h]

theorem nthV_setV_ne {α : Type} {n : Nat} (d : α) (l : Vector α n) {k j : Nat} (v : α) (h : j ≠ k) : nthV d (setV l k v) j = nthV d l j := by
  simp [nthV, setV, h.symm]

/-! ### Registers -/

theorem Core.rx_wx (c : Core) (r s : Nat) (v : Word) : (c.wx r v).rx s = if s = r ∧ r ≠ 0 then v else c.rx s := by
  unfold Core.wx Core.rx
  by_cases hr : r = 0
  · simp [hr]
  · by_cases hs : s = 0
    · simp [hr, hs, Ne.symm hr]
    · simp [hr, hs, SMap.get_put]

theorem Core.rf_wf (c : Core) (r s : Nat) (v : Word) : (c.wf r v).rf s = if s = r then v else c.rf s := by
  simp [Core.wf, Core.rf, SMap.get_put]

theorem Tile.rx_wx (t : Tile) (r s : Nat) (v : Word) : (t.wx r v).rx s = if s = r ∧ r ≠ 0 then v else t.rx s := by
  unfold Tile.wx Tile.rx
  by_cases hr : r = 0
  · simp [hr]
  · by_cases hs : s = 0
    · simp [hr, hs, Ne.symm hr]
    · simp [hr, hs, SMap.get_put]

theorem Tile.rf_wf (t : Tile) (r s : Nat) (v : Word) : (t.wf r v).rf s = if s = r then v else t.rf s := by
  simp [Tile.wf, Tile.rf, SMap.get_put]

theorem Group.rx_wx (g : Group) (th u r s : Nat) (v : Word) (hr : r < 32) (hs : s < 32) :
    (g.wx th r v).rx u s = if u = th ∧ s = r ∧ r ≠ 0 then v else g.rx u s := by
  unfold Group.wx Group.rx
  by_cases h0 : r = 0
  · simp [h0]
  · by_cases h1 : s = 0
    · simp [h0, h1, Ne.symm h0]
    · have : 32 * u + s = 32 * th + r ↔ u = th ∧ s = r := by omega
      simp [h0, h1, SMap.get_put, this]

theorem Group.rf_wf (g : Group) (th u r s : Nat) (v : Word) (hr : r < 32) (hs : s < 32) :
    (g.wf th r v).rf u s = if u = th ∧ s = r then v else g.rf u s := by
  have : 32 * u + s = 32 * th + r ↔ u = th ∧ s = r := by omega
  simp [Group.wf, Group.rf, SMap.get_put, this]

/-! ### Groups -/

theorem Tile.group_setGroup_self (t : Tile) {g : Nat} (h : g < 8) (v : Option Group) : (t.setGroup g v).group g = v := by
  simp [Tile.group, Tile.setGroup, h]

theorem Tile.group_setGroup_ne (t : Tile) {g j : Nat} (h : j ≠ g) (v : Option Group) : (t.setGroup g v).group j = t.group j := by
  simp [Tile.group, Tile.setGroup, nthV_setV_ne _ _ _ h]

@[simp] theorem Tile.setGroup_setGroup (t : Tile) (g : Nat) (v w : Option Group) : (t.setGroup g v).setGroup g w = t.setGroup g w := by
  simp [Tile.setGroup, setV]

/-- A change of a group as a change of its tile. -/
def Tile.onGroup (t : Tile) (g : Fin 8) (f : Group → Group) : Tile :=
  match t.group g.val with | some y => t.setGroup g.val (some (f y)) | none => t

theorem Dev.setGrp_eq (d : Dev) (t : TileRef) (g : Fin 8) (f : Group → Group) : d.setGrp t g f = d.setTile t.key fun x => x.onGroup g f := rfl

theorem Tile.onGroup_onGroup (t : Tile) (g : Fin 8) (f h : Group → Group) : (t.onGroup g f).onGroup g h = t.onGroup g fun y => h (f y) := by
  unfold Tile.onGroup
  cases hg : t.group g.val with
  | none => simp [hg]
  | some y => simp [Tile.group_setGroup_self t g.isLt]

theorem Tile.onGroup_id (t : Tile) (g : Fin 8) : t.onGroup g (fun y => y) = t := by
  unfold Tile.onGroup
  cases hg : t.group g.val with
  | none => rfl
  | some y =>
    have h := hg
    simp only [Tile.group, nthV] at h
    simp only [Tile.setGroup, setV]
    have : t.groups.setIfInBounds g.val (some y) = t.groups := by
      ext i hi
      by_cases hig : i = g.val
      · subst hig
        have h2 : t.groups[g.val]? = some t.groups[g.val] := by simp
        rw [h2] at h
        simp at h
        simp [h]
      · simp [Ne.symm hig]
    rw [this]

@[simp] theorem Dev.setGrp_setGrp (d : Dev) (t : TileRef) (g : Fin 8) (f h : Group → Group) :
    (d.setGrp t g f).setGrp t g h = d.setGrp t g fun y => h (f y) := by
  simp [Dev.setGrp_eq, Tile.onGroup_onGroup]

theorem Dev.grp_setGrp_self (d : Dev) (t : TileRef) (g : Fin 8) (f : Group → Group) (h : ((d.tile t.key).group g.val).isSome = true) :
    (d.setGrp t g f).grp t g = f (d.grp t g) := by
  obtain ⟨y, hy⟩ := Option.isSome_iff_exists.mp h
  simp [Dev.grp, Dev.setGrp, hy, Tile.group_setGroup_self _ g.isLt]

theorem Dev.grp_setGrp_ne (d : Dev) (t u : TileRef) (g j : Fin 8) (f : Group → Group) (h : ¬(u = t ∧ j = g)) :
    (d.setGrp t g f).grp u j = d.grp u j := by
  unfold Dev.grp Dev.setGrp
  rw [Dev.tile_setTile]
  by_cases hk : u.key = t.key
  · have ht := tKey_inj hk
    subst ht
    have hj : j.val ≠ g.val := fun e => h ⟨rfl, Fin.ext e⟩
    simp only [if_true]
    cases hg : (d.tile u.key).group g.val with
    | none => rfl
    | some y => simp [Tile.group_setGroup_ne _ hj]
  · simp [hk]

/-- The write of one register of a thread. -/
def Group.wr (flt : Bool) (th r : Nat) (v : Word) (g : Group) : Group := if flt then g.wf th r v else g.wx th r v

/-- Writes of the same register in every thread of a list, as one change of the group. -/
theorem Dev.setGrp_foldl_setReg (t : TileRef) (g : Fin 8) (flt : Bool) (rd : Nat) (v : Nat → Word) (fl : Nat → Nat) (w : Group → Group) (ths : List Nat) (d : Dev) :
    (ths.foldl (fun (e : Dev) th => (e.setReg (.group t g) th flt rd (v th)).addFlags (.group t g) (fl th)) d).setGrp t g w =
      d.setGrp t g fun y => w (ths.foldl (fun (z : Group) th => z.wr flt th rd (v th)) y) := by
  induction ths generalizing d with
  | nil => rfl
  | cons th ths ih =>
    simp only [List.foldl_cons]
    rw [ih]
    simp [Dev.setReg, Dev.addFlags, Group.wr]

theorem Group.wr_pc (flt : Bool) (th r : Nat) (v : Word) (g : Group) : (g.wr flt th r v).pc = g.pc := by
  unfold Group.wr Group.wf Group.wx
  cases flt <;> by_cases h : r = 0 <;> simp [h]

theorem Dev.pc_foldl_setReg (t : TileRef) (g : Fin 8) (flt : Bool) (rd : Nat) (v : Nat → Word) (fl : Nat → Nat) (ths : List Nat) (d : Dev) :
    ((ths.foldl (fun (e : Dev) th => (e.setReg (.group t g) th flt rd (v th)).addFlags (.group t g) (fl th)) d).grp t g).pc = (d.grp t g).pc := by
  induction ths generalizing d with
  | nil => rfl
  | cons th ths ih =>
    simp only [List.foldl_cons]
    rw [ih]
    change ((d.setGrp t g (Group.wr flt th rd (v th))).grp t g).pc = _
    cases hs : (d.tile t.key).group g.val with
    | none => simp [Dev.grp, Dev.setGrp, hs]
    | some y => rw [Dev.grp_setGrp_self _ _ _ _ (by simp [hs]), Group.wr_pc]

/-! ### Instructions that compute a register -/

theorem Dev.insn_of_executes {d : Dev} {a : Agent} {len : Nat} {xs : List Nat} (h : d.executes a len xs) (k : Dev → Dev) :
    d.insn a len k = k (match a with | .anvil c => d.setCore c.val fun x => { x with wfi := false } | _ => d) := by
  simp [Dev.insn, h.1, h.2.1]
  cases a <;> rfl

theorem Dev.executes_group {d : Dev} {t : TileRef} {g : Fin 8} {len : Nat} {xs : List Nat} (h : d.executes (.group t g) len xs) :
    ((d.tile t.key).group g.val).isSome = true := by
  have := h.1
  simp [Dev.agentReady] at this
  exact this.2.1.2

/-- The write of one register of a core. -/
def Core.wr (flt : Bool) (r : Nat) (v : Word) (c : Core) : Core := if flt then c.wf r v else c.wx r v
/-- The write of one register of a Smith core. -/
def Tile.wr1 (flt : Bool) (r : Nat) (v : Word) (t : Tile) : Tile := if flt then t.wf r v else t.wx r v
/-- An instruction of a core that is not in WFI any more. -/
def Core.woken (c : Core) : Core := { c with wfi := false }
/-- A core retires an instruction that raised flags, and goes on at pc. -/
def Core.retire (fl : Nat) (pc : Word) (c : Core) : Core := { c with fsr := c.fsr ||| fl, pc := pc, retired := c.retired + 1 }

theorem Dev.compute_anvil {d : Dev} {c : Fin 128} {len w rd : Nat} {xs : List Nat} {f : (Nat → Word) → (Nat → Word) → FRes} (h : d.executes (.anvil c) len xs) :
    d.compute (.anvil c) len w true xs rd f =
      d.setCore c.val fun x =>
        (x.woken.wr (!(f (d.core c.val).rx (d.core c.val).rf).toX) rd (f (d.core c.val).rx (d.core c.val).rf).val).retire
          (f (d.core c.val).rx (d.core c.val).rf).flags ((d.core c.val).pc + BitVec.ofNat 64 len) := by
  unfold Dev.compute
  rw [Dev.insn_of_executes h]
  have hx : (d.setCore c.val Core.woken).reg (.anvil c) 0 false = (d.core c.val).rx := by
    funext r; simp [Dev.reg, Core.woken, Core.rx]
  have hf : (d.setCore c.val Core.woken).reg (.anvil c) 0 true = (d.core c.val).rf := by
    funext r; simp [Dev.reg, Core.woken, Core.rf]
  have hp : ((d.setCore c.val Core.woken).core c.val).pc = (d.core c.val).pc := by simp [Core.woken]
  show (if (!true) = true then _ else if _ = true then _ else Dev.next _ _ _) = _
  simp only [Bool.not_true, Bool.false_eq_true, if_false, Dev.reservedReg, Dev.activeOf, List.foldl_cons, List.foldl_nil, Dev.countInsn]
  change Dev.next (((d.setCore c.val Core.woken).setReg _ 0 _ _ _).addFlags _ _) _ _ = _
  change Dev.next (((d.setCore c.val Core.woken).setReg _ 0 (!(f ((d.setCore c.val Core.woken).reg (.anvil c) 0 false) ((d.setCore c.val Core.woken).reg (.anvil c) 0 true)).toX) rd (f ((d.setCore c.val Core.woken).reg (.anvil c) 0 false) ((d.setCore c.val Core.woken).reg (.anvil c) 0 true)).val).addFlags _ (f ((d.setCore c.val Core.woken).reg (.anvil c) 0 false) ((d.setCore c.val Core.woken).reg (.anvil c) 0 true)).flags) _ _ = _
  rw [hx, hf]
  generalize f (d.core c.val).rx (d.core c.val).rf = r
  simp only [Dev.setReg, Dev.addFlags, Dev.next, Dev.goto, Dev.setCore_setCore, Dev.pcOf, Dev.core_setCore_self]
  cases ht : r.toX <;> by_cases hr : rd = 0 <;> simp [Core.wr, Core.retire, Core.wf, Core.wx, Core.woken, hr]

theorem Dev.compute_smith {d : Dev} {t : TileRef} {len w rd : Nat} {xs : List Nat} {f : (Nat → Word) → (Nat → Word) → FRes} (h : d.executes (.smith t) len xs) :
    d.compute (.smith t) len w true xs rd f =
      (d.setTile t.key fun x =>
        { x.wr1 (!(f (d.tile t.key).rx (d.tile t.key).rf).toX) rd (f (d.tile t.key).rx (d.tile t.key).rf).val with
          pc := (d.tile t.key).pc + BitVec.ofNat 64 len }).count (d.acctOf (.smith t)) 5 1 := by
  unfold Dev.compute
  rw [Dev.insn_of_executes h]
  have hr := h.2.2
  have hx : d.reg (.smith t) 0 false = (d.tile t.key).rx := by funext r; rfl
  have hf : d.reg (.smith t) 0 true = (d.tile t.key).rf := by funext r; rfl
  simp only [Bool.not_true, Bool.false_eq_true, if_false, hr, Dev.activeOf, List.foldl_cons, List.foldl_nil, Dev.countInsn, hx, hf]
  generalize f (d.tile t.key).rx (d.tile t.key).rf = r
  simp only [Dev.setReg, Dev.addFlags, Dev.next, Dev.goto, Dev.setTile_setTile, Dev.pcOf, Dev.tile_setTile_self, Dev.acctOf]
  cases ht : r.toX <;> by_cases hr : rd = 0 <;> simp [Tile.wr1, Tile.wf, Tile.wx, hr]

theorem Dev.compute_group {d : Dev} {t : TileRef} {g : Fin 8} {len w rd : Nat} {xs : List Nat} {f : (Nat → Word) → (Nat → Word) → FRes} {flt : Bool}
    (h : d.executes (.group t g) len xs) (hf : ∀ x y, (f x y).toX = !flt) :
    d.compute (.group t g) len w true xs rd f =
      (d.countInsn (.group t g)).setGrp t g fun y =>
        ((d.grp t g).active.foldl (fun (z : Group) th => z.wr flt th rd (f ((d.grp t g).rx th) ((d.grp t g).rf th)).val) y).goto ((d.grp t g).pc + BitVec.ofNat 64 len) := by
  unfold Dev.compute
  rw [Dev.insn_of_executes h]
  have hs := Dev.executes_group h
  have hr := h.2.2
  have hx : ∀ th, d.reg (.group t g) th false = (d.grp t g).rx th := by intro th; funext r; rfl
  have hy : ∀ th, d.reg (.group t g) th true = (d.grp t g).rf th := by intro th; funext r; rfl
  simp only [Bool.not_true, Bool.false_eq_true, if_false, hr, Dev.activeOf, hx, hy, hf, Bool.not_not]
  unfold Dev.next Dev.goto Dev.pcOf
  simp only [Dev.pc_foldl_setReg]
  rw [Dev.setGrp_foldl_setReg]
  have hg : ((d.countInsn (.group t g)).grp t g).pc = (d.grp t g).pc := by simp [Dev.countInsn, Dev.grp]
  rw [hg]
theorem Core.rx_wr (flt : Bool) (c : Core) (r s : Nat) (v : Word) : (c.wr flt r v).rx s = if flt = false ∧ s = r ∧ r ≠ 0 then v else c.rx s := by
  cases flt
  · simp [Core.wr, Core.rx_wx]
  · simp [Core.wr, Core.wf, Core.rx]
theorem Core.rf_wr (flt : Bool) (c : Core) (r s : Nat) (v : Word) : (c.wr flt r v).rf s = if flt = true ∧ s = r then v else c.rf s := by
  cases flt
  · by_cases h : r = 0 <;> simp [Core.wr, Core.wx, Core.rf, h]
  · simp [Core.wr, Core.rf_wf]
theorem Tile.rx_wr1 (flt : Bool) (t : Tile) (r s : Nat) (v : Word) : (t.wr1 flt r v).rx s = if flt = false ∧ s = r ∧ r ≠ 0 then v else t.rx s := by
  cases flt
  · simp [Tile.wr1, Tile.rx_wx]
  · simp [Tile.wr1, Tile.wf, Tile.rx]
theorem Tile.rf_wr1 (flt : Bool) (t : Tile) (r s : Nat) (v : Word) : (t.wr1 flt r v).rf s = if flt = true ∧ s = r then v else t.rf s := by
  cases flt
  · by_cases h : r = 0 <;> simp [Tile.wr1, Tile.wx, Tile.rf, h]
  · simp [Tile.wr1, Tile.rf_wf]
theorem Group.rx_wr (flt : Bool) (g : Group) (th u r s : Nat) (v : Word) (hr : r < 32) (hs : s < 32) :
    (g.wr flt th r v).rx u s = if flt = false ∧ u = th ∧ s = r ∧ r ≠ 0 then v else g.rx u s := by
  cases flt
  · simp [Group.wr, Group.rx_wx _ _ _ _ _ _ hr hs]
  · simp [Group.wr, Group.wf, Group.rx]
theorem Group.rf_wr (flt : Bool) (g : Group) (th u r s : Nat) (v : Word) (hr : r < 32) (hs : s < 32) :
    (g.wr flt th r v).rf u s = if flt = true ∧ u = th ∧ s = r then v else g.rf u s := by
  cases flt
  · by_cases h : r = 0 <;> simp [Group.wr, Group.wx, Group.rf, h]
  · simp [Group.wr, Group.rf_wf _ _ _ _ _ _ hr hs]

/-- Registers of a group after one register of each thread of a list has been written. -/
theorem Group.rx_foldl_wr (flt : Bool) (rd : Nat) (v : Nat → Word) (hr : rd < 32) (ths : List Nat) (g : Group) (u s : Nat) (hs : s < 32) :
    (ths.foldl (fun (z : Group) th => z.wr flt th rd (v th)) g).rx u s = if flt = false ∧ u ∈ ths ∧ s = rd ∧ rd ≠ 0 then v u else g.rx u s := by
  induction ths generalizing g with
  | nil => simp
  | cons th ths ih =>
    simp only [List.foldl_cons]
    rw [ih, Group.rx_wr _ _ _ _ _ _ _ hr hs]
    by_cases hu : u ∈ ths <;> by_cases h : u = th <;> by_cases hf : flt = false <;> by_cases hd : s = rd <;> simp [hu, h, hf, hd] <;> simp_all

theorem Group.rf_foldl_wr (flt : Bool) (rd : Nat) (v : Nat → Word) (hr : rd < 32) (ths : List Nat) (g : Group) (u s : Nat) (hs : s < 32) :
    (ths.foldl (fun (z : Group) th => z.wr flt th rd (v th)) g).rf u s = if flt = true ∧ u ∈ ths ∧ s = rd then v u else g.rf u s := by
  induction ths generalizing g with
  | nil => simp
  | cons th ths ih =>
    simp only [List.foldl_cons]
    rw [ih, Group.rf_wr _ _ _ _ _ _ _ hr hs]
    by_cases hu : u ∈ ths <;> by_cases h : u = th <;> by_cases hf : flt = true <;> by_cases hd : s = rd <;> simp [hu, h, hf, hd]

theorem Group.foldl_wr_eq (flt : Bool) (rd : Nat) (v : Nat → Word) (ths : List Nat) (g : Group) :
    ths.foldl (fun (z : Group) th => z.wr flt th rd (v th)) g =
      { g with x := (ths.foldl (fun (z : Group) th => z.wr flt th rd (v th)) g).x, f := (ths.foldl (fun (z : Group) th => z.wr flt th rd (v th)) g).f } := by
  induction ths generalizing g with
  | nil => rfl
  | cons th ths ih =>
    simp only [List.foldl_cons]
    conv_lhs => rw [ih]
    have : ∀ z : Group, z.wr flt th rd (v th) = { z with x := (z.wr flt th rd (v th)).x, f := (z.wr flt th rd (v th)).f } := by
      intro z
      unfold Group.wr Group.wf Group.wx
      cases flt <;> by_cases h : rd = 0 <;> simp [h]
    rw [this g]
@[simp] theorem Core.retire_rx (c : Core) (fl : Nat) (pc : Word) (r : Nat) : (c.retire fl pc).rx r = c.rx r := rfl
@[simp] theorem Core.retire_rf (c : Core) (fl : Nat) (pc : Word) (r : Nat) : (c.retire fl pc).rf r = c.rf r := rfl
@[simp] theorem Core.woken_rx (c : Core) (r : Nat) : c.woken.rx r = c.rx r := rfl
@[simp] theorem Core.woken_rf (c : Core) (r : Nat) : c.woken.rf r = c.rf r := rfl
theorem Core.wr_eq (flt : Bool) (r : Nat) (v : Word) (c : Core) : c.wr flt r v = { c with x := (c.wr flt r v).x, f := (c.wr flt r v).f } := by
  cases flt <;> by_cases h0 : r = 0 <;> simp [Core.wr, Core.wf, Core.wx, h0]
theorem Tile.wr1_eq (flt : Bool) (r : Nat) (v : Word) (t : Tile) : t.wr1 flt r v = { t with x := (t.wr1 flt r v).x, f := (t.wr1 flt r v).f } := by
  cases flt <;> by_cases h0 : r = 0 <;> simp [Tile.wr1, Tile.wf, Tile.wx, h0]

/-- The end of a register instruction: the result, the advance, the flags, and nothing else. -/
def Dev.regDone (d e : Dev) (a : Agent) (len rd : Nat) (toX : Bool) (r : Nat → FRes) : Prop :=
  d.leftAlone e a ∧ d.setsReg e a (!toX) rd (fun th => (r th).val) ∧ d.wentOn e a (d.pcOf a + BitVec.ofNat 64 len) ∧ d.counted e a ∧
    ∀ c, (e.core c).fsr = (d.core c).fsr ||| (match a with | .anvil k => if k.val = c then (r 0).flags else 0 | _ => 0)

theorem Dev.compute_done_anvil {d : Dev} {c : Fin 128} {len w rd : Nat} {xs : List Nat} {f : (Nat → Word) → (Nat → Word) → FRes} {toX : Bool}
    (h : d.executes (.anvil c) len xs) (hf : ∀ x y, (f x y).toX = toX) :
    d.regDone (d.compute (.anvil c) len w true xs rd f) (.anvil c) len rd toX fun th => f (d.reg (.anvil c) th false) (d.reg (.anvil c) th true) := by
  rw [Dev.compute_anvil h]
  have e3 : ∀ th, d.reg (.anvil c) th false = (d.core c.val).rx := fun _ => rfl
  have e4 : ∀ th, d.reg (.anvil c) th true = (d.core c.val).rf := fun _ => rfl
  have ht := hf (d.core c.val).rx (d.core c.val).rf
  simp only [Dev.regDone, e3, e4]
  generalize f (d.core c.val).rx (d.core c.val).rf = r at *
  subst ht
  refine ⟨⟨rfl, ?_, ?_, ?_⟩, ⟨?_, ?_, ?_, ?_⟩, ⟨?_, ?_, ?_⟩, ⟨rfl, rfl⟩, ?_⟩
  · intro k
    rw [Dev.core_setCore]
    by_cases hk : k = c.val
    · subst hk; simp only [if_true]; rw [Core.wr_eq]; rfl
    · simp [hk]
  · intro k; rfl
  · intro b hb
    cases b with
    | anvil k =>
      have hk : k.val ≠ c.val := fun e => hb (by rw [Fin.ext e])
      simp [Dev.pcOf, Dev.reg, Dev.core_setCore, hk]
    | smith t => exact ⟨rfl, fun _ _ _ => rfl⟩
    | group t g => exact ⟨rfl, fun _ _ _ => rfl⟩
  · intro th _
    cases ht : r.toX <;> by_cases h0 : rd = 0 <;> simp [Dev.reg, Core.rx_wr, Core.rf_wr, h0]
    simp [Core.rx]
  · intro th s hs hne
    cases ht : r.toX <;> simp [Dev.reg, Core.rx_wr, Core.rf_wr, hne]
  · intro th s _
    cases ht : r.toX <;> simp [Dev.reg, Core.rx_wr, Core.rf_wr]
  · intro t g hc; cases hc
  · intro k hk
    obtain rfl : c = k := by injection hk
    rw [Dev.core_setCore_self]
    refine ⟨rfl, ?_, ?_⟩ <;> · rw [Core.wr_eq]; rfl
  · intro t hc; cases hc
  · intro t g hc; cases hc
  · intro k
    rw [Dev.core_setCore]
    by_cases hk : k = c.val
    · subst hk; simp only [if_true]; rw [Core.wr_eq]; rfl
    · simp [hk, Ne.symm hk]

theorem Dev.compute_done_smith {d : Dev} {t : TileRef} {len w rd : Nat} {xs : List Nat} {f : (Nat → Word) → (Nat → Word) → FRes} {toX : Bool}
    (h : d.executes (.smith t) len xs) (hf : ∀ x y, (f x y).toX = toX) :
    d.regDone (d.compute (.smith t) len w true xs rd f) (.smith t) len rd toX fun th => f (d.reg (.smith t) th false) (d.reg (.smith t) th true) := by
  rw [Dev.compute_smith h]
  have e3 : ∀ th, d.reg (.smith t) th false = (d.tile t.key).rx := fun _ => rfl
  have e4 : ∀ th, d.reg (.smith t) th true = (d.tile t.key).rf := fun _ => rfl
  have ht := hf (d.tile t.key).rx (d.tile t.key).rf
  simp only [Dev.regDone, e3, e4]
  generalize f (d.tile t.key).rx (d.tile t.key).rf = r at *
  subst ht
  have hx : ∀ (y : Tile) (p : Word) s, ({ y with pc := p } : Tile).rx s = y.rx s := fun _ _ _ => rfl
  have hy : ∀ (y : Tile) (p : Word) s, ({ y with pc := p } : Tile).rf s = y.rf s := fun _ _ _ => rfl
  refine ⟨⟨?_, ?_, ?_, ?_⟩, ⟨?_, ?_, ?_, ?_⟩, ⟨?_, ?_, ?_⟩, ?_, ?_⟩
  · rw [Dev.count_eq]; rfl
  · intro k; simp
  · intro k
    rw [Dev.tile_count, Dev.tile_setTile]
    by_cases hk : k = t.key
    · subst hk; simp only [if_true]; rw [Tile.wr1_eq]
    · simp [hk]
  · intro b hb
    cases b with
    | anvil k => simp [Dev.pcOf, Dev.reg]
    | smith u =>
      have hk : u.key ≠ t.key := fun e => hb (by rw [tKey_inj e])
      simp [Dev.pcOf, Dev.reg, Dev.tile_setTile, hk]
    | group u g =>
      have : ((d.setTile t.key fun x => { x.wr1 (!r.toX) rd r.val with pc := (d.tile t.key).pc + BitVec.ofNat 64 len }).count (d.acctOf (.smith t)) 5 1).grp u g = d.grp u g := by
        unfold Dev.grp
        rw [Dev.tile_count, Dev.tile_setTile]
        by_cases hk : u.key = t.key
        · rw [if_pos hk, hk, Tile.wr1_eq]; rfl
        · rw [if_neg hk]
      simp only [Dev.pcOf, Dev.reg, this]
      exact ⟨trivial, fun _ _ _ => trivial⟩
  · intro th _
    cases ht : r.toX <;> by_cases h0 : rd = 0 <;> simp [Dev.reg, hx, hy, Tile.rx_wr1, Tile.rf_wr1, h0]
    simp [Tile.rx]
  · intro th s hs hne
    cases ht : r.toX <;> simp [Dev.reg, hx, hy, Tile.rx_wr1, Tile.rf_wr1, hne]
  · intro th s _
    cases ht : r.toX <;> simp [Dev.reg, hx, hy, Tile.rx_wr1, Tile.rf_wr1]
  · intro t g hc; cases hc
  · intro k hc; cases hc
  · intro k hk
    obtain rfl : t = k := by injection hk
    simp [Dev.pcOf]
  · intro t g hc; cases hc
  · exact ⟨(Dev.count_congr (d := d) (by simp) (by simp) _ _ _).1, (Dev.count_congr (d := d) (by simp) (by simp) _ _ _).2⟩
  · intro k; simp

theorem Dev.grp_count (d : Dev) (a : Acct) (v n : Nat) (t : TileRef) (g : Fin 8) : (d.count a v n).grp t g = d.grp t g := by simp [Dev.grp]

theorem Group.goto_eq (g : Group) (pc : Word) : g.goto pc = { g with pc := pc, stack := (g.goto pc).stack, m := (g.goto pc).m } := rfl

theorem Dev.compute_done_group {d : Dev} {t : TileRef} {g : Fin 8} {len w rd : Nat} {xs : List Nat} {f : (Nat → Word) → (Nat → Word) → FRes} {toX : Bool}
    (h : d.executes (.group t g) len xs) (hrd : rd < 32) (hf : ∀ x y, (f x y).toX = toX) :
    d.regDone (d.compute (.group t g) len w true xs rd f) (.group t g) len rd toX fun th => f (d.reg (.group t g) th false) (d.reg (.group t g) th true) := by
  rw [Dev.compute_group (flt := !toX) h (by simpa using hf)]
  have hs := Dev.executes_group h
  have e3 : ∀ th, d.reg (.group t g) th false = (d.grp t g).rx th := fun _ => rfl
  have e4 : ∀ th, d.reg (.group t g) th true = (d.grp t g).rf th := fun _ => rfl
  simp only [Dev.regDone, e3, e4]
  generalize hv : (fun th => (f ((d.grp t g).rx th) ((d.grp t g).rf th)).val) = v
  have hv' : ∀ th, (f ((d.grp t g).rx th) ((d.grp t g).rf th)).val = v th := fun th => by rw [← hv]
  simp only [hv']
  let F : Group → Group := fun y => ((d.grp t g).active.foldl (fun (z : Group) th => z.wr (!toX) th rd (v th)) y).goto ((d.grp t g).pc + BitVec.ofNat 64 len)
  let d1 := d.countInsn (.group t g)
  have hs1 : ((d1.tile t.key).group g.val).isSome = true := by simpa [d1, Dev.countInsn] using hs
  have hgrp : (d1.setGrp t g F).grp t g = F (d.grp t g) := by
    rw [Dev.grp_setGrp_self _ _ _ _ hs1]; simp [d1, Dev.countInsn, Dev.grp_count]
  have hne : ∀ u j, ¬(u = t ∧ j = g) → (d1.setGrp t g F).grp u j = d.grp u j := by
    intro u j hu; rw [Dev.grp_setGrp_ne _ _ _ _ _ _ hu]; simp [d1, Dev.countInsn, Dev.grp_count]
  change (d.leftAlone (d1.setGrp t g F) _) ∧ (d.setsReg (d1.setGrp t g F) _ _ _ _) ∧ (d.wentOn (d1.setGrp t g F) _ _) ∧ _
  have hact : d.activeOf (.group t g) = (d.grp t g).active := rfl
  have hrx : ∀ u s, s < 32 → (F (d.grp t g)).rx u s = if (!toX) = false ∧ u ∈ (d.grp t g).active ∧ s = rd ∧ rd ≠ 0 then v u else (d.grp t g).rx u s := by
    intro u s hs; exact Group.rx_foldl_wr _ _ _ hrd _ _ _ _ hs
  have hrf : ∀ u s, s < 32 → (F (d.grp t g)).rf u s = if (!toX) = true ∧ u ∈ (d.grp t g).active ∧ s = rd then v u else (d.grp t g).rf u s := by
    intro u s hs; exact Group.rf_foldl_wr _ _ _ hrd _ _ _ _ hs
  have hF : ∀ y, F y = ({ y with x := (F y).x, f := (F y).f } : Group).goto ((d.grp t g).pc + BitVec.ofNat 64 len) := by
    intro y; simp only [F]; rw [Group.foldl_wr_eq]; rfl
  refine ⟨⟨?_, ?_, ?_, ?_⟩, ⟨?_, ?_, ?_, ?_⟩, ⟨?_, ?_, ?_⟩, ⟨rfl, rfl⟩, ?_⟩
  · simp only [d1, Dev.countInsn]; rw [Dev.count_eq]; rfl
  · intro k; simp [Dev.setGrp_eq, d1, Dev.countInsn]
  · intro k
    rw [Dev.setGrp_eq, Dev.tile_setTile]
    have : ∀ y : Tile, y.onGroup g F = { y with groups := (y.onGroup g F).groups } := by
      intro y; unfold Tile.onGroup; cases y.group g.val <;> rfl
    by_cases hk : k = t.key
    · subst hk; simp only [if_true]; rw [this]; simp [d1, Dev.countInsn]
    · simp [hk, d1, Dev.countInsn]
  · intro b hb
    cases b with
    | anvil k => exact ⟨by simp [Dev.pcOf, Dev.setGrp_eq, d1, Dev.countInsn], fun th flt r => by simp [Dev.reg, Dev.setGrp_eq, d1, Dev.countInsn]⟩
    | smith u =>
      have : ∀ y : Tile, y.onGroup g F = { y with groups := (y.onGroup g F).groups } := by
        intro y; unfold Tile.onGroup; cases y.group g.val <;> rfl
      have hx : (d1.setGrp t g F).tile u.key = { d.tile u.key with groups := ((d1.setGrp t g F).tile u.key).groups } := by
        rw [Dev.setGrp_eq, Dev.tile_setTile]
        by_cases hk : u.key = t.key
        · rw [hk]; simp only [if_true]; rw [this]; simp [d1, Dev.countInsn]
        · simp [hk, d1, Dev.countInsn]
      simp only [Dev.pcOf, Dev.reg]
      rw [hx]
      exact ⟨rfl, fun _ _ _ => rfl⟩
    | group u j =>
      have : ¬(u = t ∧ j = g) := fun e => hb (by rw [e.1, e.2])
      simp only [Dev.pcOf, Dev.reg, hne u j this]
      exact ⟨trivial, fun _ _ _ => trivial⟩
  · intro th hth
    have hx0 : ∀ y : Group, ∀ u, y.rx u 0 = 0 := fun _ _ => rfl
    have hth' : th ∈ (d.grp t g).active := hth
    cases toX
    · simp [Dev.reg, hgrp, hrf _ _ hrd, hth']
    · by_cases h0 : rd = 0
      · subst h0; simp [Dev.reg, hgrp, hx0]
      · simp [Dev.reg, hgrp, hrx _ _ hrd, h0, hth']
  · intro th s hs hne'
    cases toX <;> simp [Dev.reg, hgrp, hrx _ _ hs, hrf _ _ hs, hne']
  · intro th s hs
    cases toX <;> simp [Dev.reg, hgrp, hrx _ _ hs, hrf _ _ hs]
  · intro t' g' hc th s hs hth
    obtain ⟨rfl, rfl⟩ : t = t' ∧ g = g' := by injection hc with a b; exact ⟨a, b⟩
    rw [hact] at hth
    cases toX <;> simp [Dev.reg, hgrp, hrx _ _ hs, hrf _ _ hs, hth]
  · intro k hc; cases hc
  · intro k hc; cases hc
  · intro t' g' hc
    obtain ⟨rfl, rfl⟩ : t = t' ∧ g = g' := by injection hc with a b; exact ⟨a, b⟩
    rw [hgrp]; exact hF _
  · intro k; simp [Dev.setGrp_eq, d1, Dev.countInsn]

/-- An instruction that computes a register is done where it executes and is legal. -/
theorem Dev.compute_done {d : Dev} {a : Agent} {len w rd : Nat} {xs : List Nat} {f : (Nat → Word) → (Nat → Word) → FRes} {toX : Bool}
    (h : d.executes a len xs) (hrd : rd < 32) (hf : ∀ x y, (f x y).toX = toX) :
    d.regDone (d.compute a len w true xs rd f) a len rd toX fun th => f (d.reg a th false) (d.reg a th true) := by
  cases a with
  | anvil c => exact Dev.compute_done_anvil h hf
  | smith t => exact Dev.compute_done_smith h hf
  | group t g => exact Dev.compute_done_group h hrd hf

theorem Dev.compute_intDone {d : Dev} {a : Agent} {len w rd : Nat} {xs : List Nat} {v : (Nat → Word) → (Nat → Word) → Word}
    (h : d.executes a len xs) (hrd : rd < 32) :
    d.intDone (d.compute a len w true xs rd fun x y => xRes (v x y)) a len rd fun th => v (d.reg a th false) (d.reg a th true) := by
  obtain ⟨h1, h2, h3, h4, h5⟩ := Dev.compute_done (w := w) (f := fun x y => xRes (v x y)) (toX := true) h hrd fun _ _ => rfl
  refine ⟨h1, h2, h3, h4, fun c => ?_⟩
  rw [h5 c]
  cases a with
  | anvil k => by_cases hk : k.val = c <;> simp [hk, xRes]
  | smith t => simp
  | group t g => simp

end Sys2Proof.Machine
end

