-- ==== Sys2Proof/Laws/Mem.lean ====
section
/-! SUPPORT. Laws/Mem.lean: every memory operation keeps the canonical form of memory. -/

namespace Sys2Proof.Machine

open Sys2Proof

/-- Two memories hold the same bytes: their tables of bytes, keys and marks are equal. -/
structure Mem.Same (m n : Mem) : Prop where
  dram : n.dram = m.dram
  dkey : n.dkey = m.dkey
  poison : n.poison = m.poison
  yard : n.yard = m.yard
  yardBad : n.yardBad = m.yardBad
  host : n.host = m.host

theorem Mem.Same.wf {m n : Mem} (h : m.Same n) (w : m.wf) : n.wf := by
  unfold Mem.wf at *; rw [h.dram, h.dkey, h.poison, h.yard, h.yardBad, h.host]; exact w
theorem Mem.Same.rfl' (m : Mem) : m.Same m := ⟨rfl, rfl, rfl, rfl, rfl, rfl⟩
theorem Mem.Same.trans {a b c : Mem} (h : a.Same b) (k : b.Same c) : a.Same c :=
  ⟨k.dram.trans h.dram, k.dkey.trans h.dkey, k.poison.trans h.poison, k.yard.trans h.yard, k.yardBad.trans h.yardBad, k.host.trans h.host⟩

theorem Mem.clear_wf : Mem.clear.wf := ⟨trivial, trivial, trivial, trivial, trivial, trivial⟩
theorem State.reset_mem_wf : State.reset.dev.mem.wf := Mem.clear_wf

/-- A fold of operations that keep the form keeps it. -/
theorem Mem.wf_foldl {α : Type} {f : Mem → α → Mem} (hf : ∀ (m : Mem) a, m.wf → (f m a).wf) (l : List α) {m : Mem} (w : m.wf) : (l.foldl f m).wf := by
  induction l generalizing m with
  | nil => exact w
  | cons a l ih => exact ih (hf m a w)

theorem Mem.same_foldl {α : Type} {f : Mem → α → Mem} (hf : ∀ (m : Mem) a, m.Same (f m a)) (l : List α) (m : Mem) : m.Same (l.foldl f m) := by
  induction l generalizing m with
  | nil => exact .rfl' m
  | cons a l ih => exact (hf m a).trans (ih (f m a))

/-! ### Tier bytes and the Hearth -/

theorem Mem.wf_setByte {m : Mem} (ep a : Nat) (b : Byte) (w : m.wf) : (m.setByte ep a b).wf :=
  ⟨SMap.wf_put a b w.1, SMap.wf_put a ep w.2.1, w.2.2⟩

theorem Mem.wf_setTier (ep : Nat) (bs : List Byte) {m : Mem} (a : Nat) (w : m.wf) : (m.setTier ep a bs).wf := by
  induction bs generalizing m a with
  | nil => exact w
  | cons b bs ih => exact ih (a + 1) (Mem.wf_setByte ep a b w)

theorem Mem.same_hPut (m : Mem) (k : Nat) (h : HLine) : m.Same (m.hPut k h) := ⟨rfl, rfl, rfl, rfl, rfl, rfl⟩
theorem Mem.same_touch (m : Mem) (a n : Nat) : m.Same (m.touch a n) := ⟨rfl, rfl, rfl, rfl, rfl, rfl⟩
theorem Mem.same_unlock (m : Mem) (p : HLine → Bool) : m.Same (m.unlock p) := ⟨rfl, rfl, rfl, rfl, rfl, rfl⟩
theorem Mem.same_hClean (m : Mem) (p : HLine → Bool) : m.Same (m.hClean p) := ⟨rfl, rfl, rfl, rfl, rfl, rfl⟩
theorem Mem.same_hDrop (m : Mem) (p : HLine → Bool) : m.Same (m.hDrop p) := ⟨rfl, rfl, rfl, rfl, rfl, rfl⟩
theorem Mem.same_setCache (m : Mem) (c : Nat) (ls : List CLine) : m.Same (m.setCache c ls) := ⟨rfl, rfl, rfl, rfl, rfl, rfl⟩
theorem Mem.same_cDrop (m : Mem) (c l : Nat) : m.Same (m.cDrop c l) := m.same_setCache c _
theorem Mem.same_predUpd (m : Mem) (c l : Nat) (up : Bool) : m.Same (m.predUpd c l up) := ⟨rfl, rfl, rfl, rfl, rfl, rfl⟩

theorem Mem.same_hAccess (m : Mem) (l kid : Nat) (write alloc : Bool) : m.Same (m.hAccess l kid write alloc) := by
  have miss (n : Mem) (h : m.Same n) : m.Same (if !alloc then n else match n.victim l with | some w => n.hPut (hKey l w) ⟨l, kid, write, none, 0⟩ | none => n) := by
    split
    · exact h
    · split
      · exact h.trans (n.same_hPut _ _)
      · exact h
  unfold Mem.hAccess
  dsimp only
  split
  · split
    · exact m.same_hPut _ _
    · exact miss _ ⟨rfl, rfl, rfl, rfl, rfl, rfl⟩
  · exact miss m (.rfl' m)

theorem Mem.wf_hWrite {m : Mem} (port l kid : Nat) (full : Bool) (w : m.wf) : (m.hWrite port l kid full).wf := by
  unfold Mem.hWrite
  dsimp only
  split
  · exact (Mem.same_hAccess _ _ _ _ _).wf ⟨w.1, w.2.1, SMap.wf_put l 0 w.2.2.1, w.2.2.2⟩
  · exact (Mem.same_hAccess _ _ _ _ _).wf w

/-- A write at the home keeps the form. -/
theorem Mem.wf_homeWrite {m : Mem} (port kid ep a : Nat) (bs : List Byte) (w : m.wf) : (m.homeWrite port kid ep a bs).wf :=
  Mem.wf_setTier ep bs a (Mem.wf_foldl (fun _ _ h => Mem.wf_hWrite _ _ _ _ h) _ ((m.same_touch _ _).wf w))

/-- A read at the home changes no byte. -/
theorem Mem.same_homeRead (m : Mem) (kid ep a n : Nat) : m.Same (m.homeRead kid ep a n).1 :=
  (m.same_touch a n).trans (Mem.same_foldl (fun m _ => m.same_hAccess _ _ _ _) _ _)

theorem Mem.same_lock (m : Mem) (l kid part quota : Nat) : m.Same (m.lock l kid part quota) := by
  have refuse (n : Mem) : n.Same (Mem.lock.refuse l kid n) := Mem.Same.trans (b := { n with lockRefused := sat 20 (n.lockRefused + 1) }) ⟨rfl, rfl, rfl, rfl, rfl, rfl⟩ (Mem.same_hAccess _ _ _ _ _)
  have go (n : Mem) : n.Same (Mem.lock.go l kid part quota n) := by
    unfold Mem.lock.go
    dsimp only
    split
    · split
      · exact n.same_hPut _ _
      · exact refuse n
    · exact refuse n
  unfold Mem.lock
  split
  · split
    · exact .rfl' m
    · exact Mem.Same.trans (b := { m with hearth := m.hearth.filter fun e => e.2.line ≠ l }) ⟨rfl, rfl, rfl, rfl, rfl, rfl⟩ (go _)
  · exact go m

/-! ### Anvil caches -/

theorem Mem.wf_cWriteBack {m : Mem} (ep : Nat → Nat) (core l : Nat) (w : m.wf) : (m.cWriteBack ep core l).wf := by
  unfold Mem.cWriteBack
  split
  · split
    · exact (Mem.same_setCache _ _ _).wf (Mem.wf_homeWrite _ _ _ _ _ w)
    · exact w
  · exact w

/-- A line that leaves a cache keeps the form. -/
theorem Mem.wf_cEvict {m : Mem} (ep : Nat → Nat) (core l : Nat) (w : m.wf) : (m.cEvict ep core l).wf :=
  (Mem.same_cDrop _ core l).wf (Mem.wf_cWriteBack ep core l w)

/-- A recall writes dirty copies home and keeps the form. -/
theorem Mem.wf_recall {m : Mem} (ep : Nat → Nat) (l : Nat) (w : m.wf) : (m.recall ep l).wf :=
  Mem.wf_foldl (fun _ _ h => Mem.wf_cEvict ep _ l h) _ w

theorem Mem.wf_purge {m : Mem} (ep : Nat → Nat) (kid l : Nat) (w : m.wf) : (m.purge ep kid l).wf :=
  Mem.wf_foldl (fun _ _ h => Mem.wf_cEvict ep _ l h) _ w

theorem Mem.wf_cInsert {m : Mem} (ep : Nat → Nat) (core : Nat) (c : CLine) (w : m.wf) : (m.cInsert ep core c).wf := by
  have one {n : Mem} (h : n.wf) (p : Prop) [Decidable p] (k : Mem) (hk : k.wf) : (if p then n else k).wf := by split <;> assumption
  unfold Mem.cInsert
  have w1 := one w ((((m.cache core).map (·.line)).filter fun x => x ≠ c.line).length < l2Lines) _ (Mem.wf_cEvict ep core (pickOf Config.cacheVictim (((m.cache core).map (·.line)).filter fun x => x ≠ c.line)) w)
  exact (Mem.same_setCache _ _ _).wf (one w1 _ _ (Mem.wf_recall ep _ w1))

theorem Mem.wf_cRead {m : Mem} (kid : Nat) (ep : Nat → Nat) (core l : Nat) (w : m.wf) : (m.cRead kid ep core l).1.wf := by
  have fetch {n : Mem} (h : n.wf) : (Mem.cRead.fetch kid ep core l n).1.wf := by
    unfold Mem.cRead.fetch
    split
    · exact Mem.wf_cInsert _ _ _ ((Mem.same_setCache _ _ _).wf (Mem.wf_cWriteBack _ _ _ h))
    · exact Mem.wf_cInsert _ _ _ ((Mem.same_homeRead _ _ _ _ _).wf h)
  have p := Mem.wf_purge ep kid l w
  unfold Mem.cRead
  dsimp only
  split
  · exact p
  · exact fetch p

theorem Mem.wf_cOwn {m : Mem} (kid : Nat) (ep : Nat → Nat) (core l : Nat) (w : m.wf) : (m.cOwn kid ep core l).1.wf := by
  have take {n : Mem} (h : n.wf) : (Mem.cOwn.take kid ep core l n).1.wf := by
    unfold Mem.cOwn.take
    dsimp only
    refine Mem.wf_cInsert _ _ _ ((Mem.same_foldl (fun m _ => m.same_cDrop _ _) _ _).wf ?_)
    split
    · exact h
    · exact (Mem.same_homeRead _ _ _ _ _).wf h
  have p := Mem.wf_purge ep kid l w
  unfold Mem.cOwn
  dsimp only
  split
  · split
    · exact p
    · exact (Mem.same_setCache _ _ _).wf ((Mem.same_foldl (fun m _ => m.same_cDrop _ _) _ _).wf p)
  · exact take p

theorem Mem.wf_cStore {m : Mem} (kid : Nat) (ep : Nat → Nat) (core a : Nat) (bs : List Byte) (w : m.wf) : (m.cStore kid ep core a bs).wf :=
  (Mem.same_touch _ _ _).wf ((Mem.same_setCache _ _ _).wf (Mem.wf_cOwn kid ep core (a / 128) w))

/-! ### Writes of the package -/

theorem Mem.wf_putYard {m : Mem} (o : Nat) (bs : List Byte) (p : Nat → Bool) (w : m.wf) :
    ({ m with yard := SMap.putBytes 0 m.yard o bs, yardBad := SMap.drop p m.yardBad } : Mem).wf :=
  ⟨w.1, w.2.1, w.2.2.1, SMap.wf_putBytes o bs w.2.2.2.1, SMap.wf_drop p w.2.2.2.2.1, w.2.2.2.2.2⟩

/-- A write to host memory keeps the form. -/
theorem Dev.wf_hostWrite {d : Dev} (q : Req) (bus : Nat) (bs : List Byte) (w : d.mem.wf) : (d.hostWrite q bus bs).mem.wf := by
  have h (l : List Nat) (t : SMap Byte) (ht : SMap.wf 0 t) : SMap.wf 0 (l.foldl (fun m i => SMap.put 0 m ((bus + i) % 2 ^ 64) (nthD 0 bs i)) t) := by
    induction l generalizing t with
    | nil => exact ht
    | cons i l ih => exact ih _ (SMap.wf_put _ _ ht)
  have c : (d.count q.acct 42 (units64 bs.length)).mem = d.mem := by rw [Dev.count_eq]
  unfold Dev.hostWrite
  dsimp only
  rw [c]
  exact ⟨w.1, w.2.1, w.2.2.1, w.2.2.2.1, w.2.2.2.2.1, h _ _ w.2.2.2.2.2⟩

theorem Dev.mem_countTier (d : Dev) (q : Req) (a n : Nat) : (d.countTier q a n).mem = d.mem := by
  unfold Dev.countTier; dsimp only; rw [Dev.count_eq, Dev.count_eq, Dev.count_eq]

/-- A read of local memory keeps the form. -/
theorem Dev.wf_read {d : Dev} (q : Req) (a n : Nat) (w : d.mem.wf) : (d.read q a n).1.mem.wf := by
  unfold Dev.read
  split
  · exact (Mem.same_homeRead _ _ ((d.countTier q a n).gen q.kid) _ _).wf (by rw [Dev.mem_countTier]; exact w)
  · exact (Mem.same_homeRead _ _ ((d.countTier q a n).gen q.kid) _ _).wf (by rw [Dev.mem_countTier]; exact w)
  · split
    · exact w
    · rw [Dev.count_eq]; exact w
  · split <;> exact w
  · exact w

/-- A write of plain local memory keeps the form. -/
theorem Dev.wf_write {d : Dev} (q : Req) {a : Nat} {bs : List Byte} (hp : plainMem a bs.length = true) (hb : 0 < bs.length) (w : d.mem.wf) : (d.write q a bs).mem.wf := by
  unfold plainMem at hp
  unfold Dev.write
  split
  · exact Mem.wf_homeWrite _ _ _ _ _ (by rw [Dev.mem_countTier]; exact w)
  · exact Mem.wf_homeWrite _ _ _ _ _ (by rw [Dev.mem_countTier]; exact w)
  · rename_i o h
    rw [h] at hp
    rw [creditAt_of_lt (by have := of_decide_eq_true hp; omega)]
    have c : (d.count q.acct 36 (units64 bs.length)).mem = d.mem := by rw [Dev.count_eq]
    dsimp only
    rw [c]
    exact Mem.wf_putYard _ _ _ w
  · rename_i b t o h
    rw [h] at hp
    rw [creditAt_of_lt (by have := of_decide_eq_true hp; unfold storeSize; omega)]
    exact w
  · exact w

/-- Lines of a region that goes COLD are dropped, which keeps the form. -/
theorem Dev.wf_loseRegion {d : Dev} (r : Nat) (w : d.mem.wf) : (d.loseRegion r).mem.wf :=
  ⟨SMap.wf_drop _ w.1, SMap.wf_drop _ w.2.1, SMap.wf_drop _ w.2.2.1, w.2.2.2⟩

end Sys2Proof.Machine
end

