-- ==== Sys2Proof/Laws/Unit.lean ====
section
/-! SUPPORT. Laws/Unit.lean: what a unit of a tile can do to the package, and a unit under parity where no word is bad. -/

namespace Sys2Proof.Machine

open Sys2Proof

/-- With no bad word in the tile, a unit's operation is its plain effect. -/
@[simp] theorem parity_clean {key unit : Nat} {rs : Tile → Tile → List Run} {f : Tile → Tile} {t : Tile} (h : t.bad = []) :
    parity key unit rs f t = f t := by
  simp [parity, h]

@[simp] theorem parConv_clean {key k op : Nat} {f : Tile → Tile} {t : Tile} (h : t.bad = []) : parConv key k op f t = f t := by
  unfold parConv
  split <;> simp [h]

theorem Dev.countK_eq (d : Dev) (a : Acct) (v n : Nat) :
    d.countK a v n = { d with cntQ := (d.countK a v n).cntQ, cntP := (d.countK a v n).cntP, rem := (d.countK a v n).rem } := by
  unfold Dev.countK
  dsimp only
  rw [Dev.count_eq]

/-- What a unit counted reaches the counters, and nothing else changes. -/
theorem Dev.foldl_counts (a : Acct) (l : SMap Nat) (d : Dev) :
    let e := l.foldl (fun (d : Dev) e => if e.1 = 12 ∨ e.1 = 21 then d.countK a e.1 e.2 else d.count a e.1 e.2) d
    e = { d with cntQ := e.cntQ, cntP := e.cntP, rem := e.rem } := by
  induction l generalizing d with
  | nil => rfl
  | cons x l ih =>
    simp only [List.foldl_cons]
    split
    · have h := Dev.countK_eq d a x.1 x.2
      have i := ih (d.countK a x.1 x.2)
      simp only at i
      rw [i]
      generalize (List.foldl _ (d.countK a x.1 x.2) l) = z
      rw [h]
    · have h := Dev.count_eq d a x.1 x.2
      have i := ih (d.count a x.1 x.2)
      simp only at i
      rw [i]
      generalize (List.foldl _ (d.count a x.1 x.2) l) = z
      rw [h]

/-- A unit that ends no task for a parity error makes of the tile what its operation says. -/
theorem Dev.unit_tileRan {d : Dev} {k : Nat} {f : Tile → Tile} (hl : d.live = true) (hk : d.tileIn k = true)
    (hf : ∀ z, (f (d.tile k)).fin = some z → (d.tile k).fin = none → z.reason ≠ 4) : d.tileRan (d.unit k f) k (f (d.tile k)) := by
  have hu : ∃ a, d.unit k f = (f (d.tile k)).ev.foldl (fun (d : Dev) e => if e.1 = 12 ∨ e.1 = 21 then d.countK a e.1 e.2 else d.count a e.1 e.2)
      (d.setTile k fun _ => { f (d.tile k) with ev := [] }) := by
    refine ⟨match (f (d.tile k)).task with | some x => ⟨some x.cmd, some x.part⟩ | none => ⟨none, none⟩, ?_⟩
    unfold Dev.unit
    rw [if_neg (by simp [hl, hk])]
    dsimp only
    cases h1 : (d.tile k).fin <;> cases h2 : (f (d.tile k)).fin
    · rfl
    · dsimp only; rw [if_neg (hf _ h2 h1)] <;> rfl
    · rfl
    · rfl
  obtain ⟨a, hu⟩ := hu
  have hc := Dev.foldl_counts a (f (d.tile k)).ev (d.setTile k fun _ => { f (d.tile k) with ev := [] })
  simp only at hc
  rw [← hu] at hc
  have ht : ∀ j, (d.unit k f).tile j = (d.setTile k fun _ => { f (d.tile k) with ev := [] }).tile j := fun j => by
    rw [hc]; rfl
  refine ⟨?_, fun j hj => ?_, ?_⟩
  · rw [hc]; rfl
  · rw [ht, Dev.tile_setTile, if_neg hj]
  · rw [ht, Dev.tile_setTile_self]

end Sys2Proof.Machine
end

