-- ==== Sys2Proof/Tests/Slice0.lean ====
section
/-! SUPPORT. Tests/Slice0.lean: the model's own tests: one step each, ill-formed commands, and for each statement a state that meets its hypotheses. -/

set_option Elab.async false

namespace Sys2Proof.Tests

open Sys2Proof Sys2Proof.Machine

/-! ### A small package -/

/-- Eight little-endian bytes at an address. -/
def word8 (a v : Nat) : SMap Byte := (List.range 8).filterMap fun i => if v / 256 ^ i % 256 = 0 then none else some (a + i, BitVec.ofNat 8 (v / 256 ^ i))

/-- A level-4 table at `t` and its level-3 table behind it: leaves of 512 GiB for the tiers (kernel and user), the Yard, the tile stores, the register views and the host window. -/
def tables (t : Nat) : SMap Byte :=
  word8 t (t + 0x1000 + 1) ++ word8 (t + 0x1000) 0xE3 ++ word8 (t + 0x1008) 0xF3 ++ word8 (t + 0x1010) 0x800000000E3 ++
    word8 (t + 0x1018) 0x900000000E3 ++ word8 (t + 0x1020) 0xF00000000E3 ++ word8 (t + 0x1028) 0x8000000000E3 ++ word8 (t + 0x1030) 0x100000000E3

/-- A ready package with one brick, one Anvil cluster, one site of each tier, all of partition 0; unit 0 is the table carve. -/
def dev : Dev :=
  { Dev.reset with
    start := { Start.reset with stage := .ready, perstRel := true, rstRel := true, pwrGood := true, coolant := true, vin := true, linkUp := true }
    un := { Units.none_ with lb := [0], brick := 1, qtr := 0xF, tiles := [(0, 2 ^ 96 - 1)], anvil := 1, fsite := 1, dsite := 1, port := 1, eng := 0xF }
    img := { Img.reset with town := [(0, 0x140)] }
    fab := { Fab.reset with pkgid := 0 }
    pkg := { Pkg.reset with ready := true, capGen := 1 }
    tongs := { Tongs.reset with bricks := [(0, { Brick.off with pstate := 0, role := 6 })] }
    parts := [(0, { Part.absent with st := 1, x := { Xlat.reset with en := true, root := 1, hwsize := 16 } })]
    mem := { Mem.clear with dram := tables 0x1000 ++ tables 0x40001000 } }

/-- Anvil core 0 runs at a level, from an address of unit 1. -/
def devA (cpl : Nat) : Dev :=
  { dev with cores := [(0, { Core.reset with run := true, cpl := cpl, ptroot := 0x40001000, pc := if cpl = 0 then 0x8040000100 else 0x40000100, tvec := 0x40000200 })] }

def anvil : Agent := .anvil 0
def tile0 : TileRef := ⟨0, 0⟩
def cmd0 : CmdRef := ⟨1, 0, 0⟩
def smith : Agent := .smith tile0
def group : Agent := .group tile0 0

/-- A task of a KERNEL command. -/
def task : Task :=
  { cmd := cmd0, part := 0, rank := 0, node := none, viaPf := false, rsafe := false, ntiles := 1, place := 0, pc := 0x40000100, arg := 0, seed := 0, layer := 0, oper := 0 }

/-- Tile 0 runs a task. -/
def tileS : Tile := { Tile.clear with task := some task, pc := 0x40000100 }
def devT (x : Tile) : Dev := { dev with tiles := [(0, x)] }
def devS : Dev := { dev with tiles := [(0, tileS)] }

/-- A launch of one block of one group of 64 threads, with threads 0 and 2 active. -/
def grp : Group := { Group.none_ with pc := 0x40000100, m := #v[5, 0, 0, 0, 0, 0, 0, 0] }
def devG : Dev := { dev with tiles := [(0, { tileS with groups := setV (.replicate 8 none) 0 (some grp), launch := some ⟨0x40000100, 0, 1, 1, 0, false, 1, 0⟩ })] }

theorem reset_memory_canonical : State.reset.dev.mem.wf := by repeat' constructor
theorem small_package_memory_canonical : (dev.mem.dram.map (·.1)).Pairwise (· < ·) ∧ ∀ e ∈ dev.mem.dram, e.2 ≠ 0 := by decide +kernel

/-! ### Statements about instructions: states that meet their hypotheses -/

theorem met_integer_instructions :
    (intReg 0x15 31 0 0).isSome = true ∧ (devA 1).executes anvil 4 [31, 0, 1] ∧ devG.executes group 4 [1, 31] ∧
      (0x2F80#16 : BitVec 16).extractLsb' 14 2 ≠ 3#2 ∧ (0xA03F#16 : BitVec 16).extractLsb' 6 7 = 0#7 ∧ devS.executes smith 8 [31, 31] ∧
      ((0x3FFFFF : BitVec 42).extractLsb' 22 20 = 0#20) := by
  repeat' first | decide +kernel | constructor

theorem met_float_instructions :
    (fop .a ((devA 0).dynOf anvil) 540 0 0 0 0).isSome = true ∧ (devA 0).fenOk anvil = true ∧ (devA 0).executes anvil 4 [31, 31] ∧
      (fmaOp .l (devG.dynOf group) 58 0 0 0).isSome = true ∧ devG.fenOk group = true ∧ devG.executes group 4 [] := by
  repeat' first | decide +kernel | constructor

theorem met_control_flow :
    (devG.executes group 4 [1, 1] ∧ devG.activeOf group ≠ [] ∧ (∀ th ∈ devG.activeOf group, brTaken .beq (devG.reg group th false 1) (devG.reg group th false 1) = true)) ∧
      (profOf smith ≠ .l ∧ devS.executes smith 4 [31, 31]) ∧ ((devA 1).executes anvil 8 [31]) ∧
      ((0x3F#16 : BitVec 16).extractLsb' 7 9 = 0#9 ∧ (devA 0).executes anvil 4 []) ∧
      ((devA 0).agentReady anvil = true ∧ ((devA 0).passStrokes anvil).executes anvil 4 [1]) ∧
      (devS.agentReady smith = true ∧ (devS.passStrokes smith).executes smith 4 [1]) ∧ (devG.agentReady group = true ∧ (devG.passStrokes group).executes group 4 [1]) := by
  repeat' first | decide +kernel | constructor

/-- Threads 0 and 2 access the last 8 bytes below the credit block. -/
theorem met_loads_and_stores :
    let at_ : Nat → Nat × Nat := fun _ => (0, 0x7FEF8)
    let d := { dev with tiles := [(0, { tileS with x := [(1, 0x7FEF8)] })] }
    let e := devA 1
    let f := { e with cores := [(0, { e.core 0 with x := [(1, 0x40000400)] })] }
    let r := (f.woken anvil).access anvil 0 0x400003F8 8 false true
    let w := (f.woken anvil).access anvil 0 0x400003F8 8 true true
    (d.executes smith 4 [1, 1] ∧ d.unitsOpen smith = false ∧ d.inStores smith (fun _ => 0x7FEF8) 8 at_ ∧ ∀ th ∈ d.activeOf smith, (d.tile (at_ th).1).badWord (at_ th).2 8 = none) ∧
      (devG.inStores group (fun _ => 0x7FEF8) 8 at_ ∧ devG.fenOk group = true) ∧
      (f.executes anvil 4 [31, 1] ∧ f.activeOf anvil = [0] ∧ r.2 = .go (.loc 0x400003F8) true ∧
        (match ((r.1.countInsn anvil).readFor anvil (.loc 0x400003F8) true 8).2 with | .ok bs => decide (bs.length = 8) | .error _ => false) = true ∧
        ((r.1.countInsn anvil).readFor anvil (.loc 0x400003F8) true 8).1.agentBusy anvil = false) ∧
      (w.2 = .go (.loc 0x400003F8) true ∧ ((w.1.countInsn anvil).writeFor anvil (.loc 0x400003F8) true 0x400003F8 (List.replicate 8 1)).2 = none ∧
        ((w.1.countInsn anvil).writeFor anvil (.loc 0x400003F8) true 0x400003F8 (List.replicate 8 1)).1.agentBusy anvil = false) := by
  repeat' first | decide +kernel | constructor | (unfold Dev.inStores; decide +kernel)

theorem met_atomics :
    let d := { dev with tiles := [(0, { tileS with x := [(1, 0x7FEF8), (2, 0x40000400)] })] }
    let e := devA 1
    let f := { e with cores := [(0, { e.core 0 with x := [(2, 0x40000400)] })] }
    let r := d.access smith 0 0x40000400 4 true false
    let w := (f.woken anvil).access anvil 0 0x40000400 8 true false
    (amoOk .s 0x42 = true ∧ d.executes smith 4 [31, 1, 3] ∧ d.unitsOpen smith = false ∧ d.activeOf smith = [0] ∧ d.bankOf smith 0x7FEF8 = some (0, 0x7FEF8) ∧
        (d.tile 0).badWord 0x7FEF8 8 = none) ∧
      (amoOk .s 0x404 = true ∧ d.executes smith 4 [31, 2, 3] ∧ r.2 = .go (.loc 0x40000400) false ∧ inTier 0x40000400 = true ∧ r.1.bad 0x40000400 4 = none) ∧
      (amoOk .a 0x44 = true ∧ f.executes anvil 4 [31, 2, 3] ∧ f.unitsOpen anvil = false ∧ f.activeOf anvil = [0] ∧ w.2 = .go (.loc 0x40000400) true ∧
        w.1.bad 0x40000400 8 = none) := by
  repeat' first | decide +kernel | constructor

theorem met_system_registers :
    ((devA 1).executes anvil 4 [] ∧ (devA 1).mayUse 0 0x013) ∧ ((devA 0).executes anvil 4 [] ∧ (devA 0).mayUse 0 0x012) ∧ (devA 1).mayUse 0 0x007 ∧ (devA 1).mayUse 0 0x00B := by
  repeat' first | decide +kernel | constructor

theorem met_traps :
    let d := devA 0
    let e := devA 1
    let y : Core := { e.core 0 with ie := true, ien := 15, ipend := 8 }
    let f := { e with cores := [(0, y)] }
    let g := { e with cores := [(0, { y with ipend := 0, tcmp := 0 })] }
    (d.executes anvil 4 [] ∧ (d.core 0).cpl = 0) ∧ (e.executes anvil 4 [] ∧ (e.core 0).cpl ≠ 0 ∧ (e.core 0).rx 10 = 0 ∧ (e.core 0).cpl < 2 ∧ e.traced 65536 = none) ∧
      (let h := { e with cores := [(0, { y with x := [(10, 3)] })] }; h.executes anvil 4 [] ∧ 2 < ((h.core 0).rx 10).toNat) ∧
      (f.live = true ∧ f.coreBusy 0 = false ∧ y.run = true ∧ y.ie = true ∧ ((y.ipend + 2 * b2n (decide (y.tcmp.toNat ≤ f.time))) &&& y.ien).testBit 3 = true) ∧
      (g.live = true ∧ g.coreBusy 0 = false ∧ (g.core 0).tcmp.toNat ≤ g.time ∧ (g.core 0).ipend.testBit 1 = false ∧ (g.core 0).ien.testBit 1 = true ∧
        ((0 + 2 * b2n (decide ((g.core 0).tcmp.toNat ≤ g.time))) &&& 15).testBit 3 = false) := by
  repeat' first | decide +kernel | constructor

/-- A sole dirty copy of the line in core 0. -/
theorem met_cache_maintenance :
    let e := devA 1
    let y : Core := { e.core 0 with x := [(1, 0x40000400), (2, 2), (4, 0x40000400)] }
    let d := { e with cores := [(0, y)], mem := { e.mem with caches := [(0, [⟨0x800008, 0, true, true, List.replicate 128 7⟩])] } }
    let r := (d.woken anvil).accA 0 0x40000400 1 1
    (d.executes anvil 4 [] ∧ r.2 = (.loc 0x40000400, true) ∧ r.1.mem.holders 0x800008 = [0] ∧
        (∃ c, r.1.mem.cLine 0 0x800008 = some c ∧ c.dirty = true ∧ c.data.length = 128) ∧ (d.core 0).cpl ≠ 0) ∧
      (d.executes anvil 8 [] ∧ (y.rx 2).toNat < 3 ∧ (-1 : BitVec 42).toInt ≤ 0 ∧ 0 < (128 : BitVec 42).toInt ∧ (y.rx 4).toNat % 128 + (128 : BitVec 42).toInt.toNat ≤ 128) := by
  intro e y d r
  refine ⟨⟨?_, ?_, ?_, ⟨⟨0x800008, 0, true, true, List.replicate 128 7⟩, ?_, ?_, ?_⟩, ?_⟩, ?_⟩
  all_goals repeat' first | decide +kernel | constructor
/-- The lane width of VLD, VST, VLDS and VSTS is open (log 12): the states do for both widths. The strided lanes lie in the Yard, the last of them just below the credit block. -/
theorem met_vector_instructions :
    let e := devA 1
    let y : Core := { e.core 0 with x := [(1, 0x40000400), (2, 0x10000000000)], m := [(7, 0x8001)] }
    let d := { e with cores := [(0, y)] }
    let r := (d.woken anvil).accCore 0 0x40000440 64 0
    let w := (d.woken anvil).accCore 0 0x40000440 64 1
    (d.executes anvil 4 [] ∧ (d.core 0).ven = true ∧ vecOk 31 0 0 0x00 = true ∧ vecOk 31 0 3 0x17 = true ∧ vecOk 7 31 1 0x0E = true ∧ vecOk 31 0 1 0x13 = true) ∧
      (r.2 = .go (.loc 0x40000440) true ∧ (Acc.loc 0x40000440).narrow = false ∧ (∀ n ∈ [4, 8], y.byteMask 7 n ≠ 0) ∧
        (match (r.1.readFor anvil ((Acc.loc 0x40000440).at_ 0) true 64).2 with | .ok bs => decide (bs.length = 64) | .error _ => false) = true) ∧
      (w.2 = .go (.loc 0x40000440) true ∧
        ∀ n ∈ [4, 8], (Dev.writeRuns anvil (.loc 0x40000440) true 0x40000440 (List.replicate 64 0) (maskRuns 64 (y.byteMask 7 n)) w.1).2 = none) ∧
      (d.executes anvil 8 [] ∧ ∀ n ∈ [4, 8], ∀ wr ∈ [false, true],
        let p (i : Nat) : Nat := 0x80000FFFEC0 + n * i
        let s := Dev.accesses anvil (fun i => 0x10000FFFEC0 + BitVec.ofNat 64 i * BitVec.ofNat 64 n) 0 n wr true (List.range (64 / n)) (d.woken anvil)
        (match s.2 with | .ok l => decide (l = (List.range (64 / n)).map fun i => (i, Hit.go (.loc (p i)) false)) | .error _ => false) = true ∧
          ∀ i ∈ List.range (64 / n), place (p i) = .yard (0xFFFEC0 + n * i) ∧ (0xFFFEC0 + n * i) % 2 ^ 24 + n ≤ 0xFFFF00 ∧ s.1.bad (p i) n = none ∧ s.1.winCovers (p i) n = none) := by
  repeat' first | decide +kernel | constructor

theorem met_smith_instructions :
    let t (x : Tile) : Dev := { dev with tiles := [(0, x)] }
    let three : List QCourse := List.replicate 3 ⟨0, 0, none⟩
    let a := { tileS with cq := three, vq := .replicate 4 (List.replicate 3 ⟨0, 0, 0, none⟩), lq := [.split 0 0], tq := [⟨0, 0, 0⟩] }
    let b := { tileS with sq := List.replicate 3 ⟨0, 5, 0⟩ }
    let c := { tileS with cq := three ++ three, vq := .replicate 4 (List.replicate 4 ⟨0, 0, 0, none⟩), lq := [.split 0 0, .split 0 1], sq := List.replicate 4 ⟨0, 5, 0⟩, tq := List.replicate 2 ⟨0, 0, 0⟩ }
    ((t a).executes smith 4 [1, 31] ∧ a.cq.length < 4 ∧ (a.vq[3]).length < 4 ∧ a.lqWaiting < 2 ∧ a.tq.length < 2 ∧ a.sq = [] ∧ a.srun = none ∧ a.bad = [] ∧
        a.bad.contains (arrV.base + (64 * 31 + 63 % 64)) = false ∧ (t a).executes smith 4 []) ∧
      ((t b).executes smith 4 [31, 1] ∧ b.sq.length < 4) ∧ (tileS.unitsDone 31 = true ∧ (t tileS).executes smith 4 []) ∧
      ((t c).agentReady smith = true ∧ (t c).fetchStop smith 4 = none ∧ 4 ≤ c.cq.length ∧ 4 ≤ (c.vq[0]).length ∧ 2 ≤ c.lqWaiting ∧ 4 ≤ c.sq.length ∧ 2 ≤ c.tq.length ∧
        c.unitsDone 1 = false ∧ c.reserved 5 = true) := by
  repeat' first | decide +kernel | constructor

theorem met_mask_instructions :
    let g (x : Group) : Dev := { devG with tiles := [(0, { devG.tile 0 with groups := setV (.replicate 8 none) 0 (some x) })] }
    (devG.executes group 4 [] ∧ (devG.grp tile0 0).stack = [] ∧ (devG.grp tile0 0).active.getLast? = some 2) ∧
      (let x := { grp with stack := List.replicate 15 (5, 0x40000200) }; (g x).executes group 4 [] ∧ ((g x).grp tile0 0).stack.length < 16 ∧
        ((g x).grp tile0 0).stack = (5, 0x40000200) :: List.replicate 14 (5, 0x40000200)) ∧
      (let x := { grp with stack := List.replicate 16 (5, 0x40000200) }; (g x).executes group 4 [] ∧ 16 ≤ ((g x).grp tile0 0).stack.length) ∧ (2#2 : BitVec 2) ≠ 3#2 := by
  repeat' first | decide +kernel | constructor
/-! ### Statements about the units of a tile -/

/-- An apart Q8 command on course 0 of one vector, with and without a load. -/
def wordL : Word := courseEncode 2 2 0 1 0 0 0 1 0 0 0 0
def wordR : Word := courseEncode 2 2 0 1 0 0 0 0 0 511 0 0
def cL : CCmd := ⟨.q8, .q8, 0, 1, false, 0, .rz, true, 1, 0, 0, 0, 8, true⟩
def cR : CCmd := ⟨.q8, .q8, 0, 1, false, 0, .rz, false, 1, 511, 0, 0, 8, true⟩
/-- The pass of such a command at some point, and a block of zeros. -/
def pass (w : Word) (t : Nat) (loaded : Bool) (exch : Nat) : Pass :=
  { word := w, seq := 0, tag := true, loaded := loaded, exch := exch, tries := 1, stuck := false, edges := [⟨t, false, t, 0, List.replicate 16 .zero, List.replicate 16 .zero, [], [], []⟩], sav := [], ran := [] }
def blk : Blk := ⟨.q8, 8, List.replicate 128 .zero, [], List.replicate 16 .zero, List.replicate 16 .zero⟩
def withC (x : Tile) (f : Course → Course) : Tile := { x with courses := setV x.courses 0 (f .clear) }

theorem met_course_commands :
    let a := { tileS with cq := [⟨wordL, 0, none⟩, ⟨wordR, 1, none⟩] }
    let b := { tileS with cq := [⟨wordR, 1, none⟩] }
    let z := { tileS with cq := [⟨BitVec.allOnes 64, 1, none⟩] }
    let l := { tileS with passes := [pass wordL 0 false 0] }
    let r := withC { tileS with passes := [pass wordL 0 true 0] } fun c => { c with shadow := .ready true blk }
    ((devT a).unitReady 0 ∧ a.loaderBefore 0 = false ∧ courseDecode true z.cq[0].word = none ∧ (devT z).unitReady 0 ∧
        courseDecode (devT a).weld wordL = some cL ∧ (∀ i ∈ cL.courses, (a.course i).shadow = .empty) ∧ ∀ p ∈ a.passes, p.loaded = true) ∧
      ((devT b).unitReady 0 ∧ courseDecode (devT b).weld wordR = some cR ∧ b.passes = [] ∧ ∀ i ∈ cR.courses, (b.course i).ldr = none) ∧
      ((devT l).unitReady 0 ∧ l.passes.find? (fun p => !p.loaded) = some (pass wordL 0 false 0) ∧ (l.course 0).shadow = .empty) ∧
      ((devT r).unitReady 0 ∧ (r.course 0).shadow = .ready true blk ∧
        r.passes.find? (fun p => p.loaded && !p.exch.testBit 0 &&
          (match courseDecode true p.word with | some c => c.load && c.cmask.testBit 0 | none => false)) = some (pass wordL 0 true 0) ∧
        ∀ p ∈ r.passes, ¬ p.seq < 0) := by
  repeat' first | decide +kernel | constructor

theorem met_course_passes :
    let c := cL
    let g : Edge := ⟨0, false, 0, 0, List.replicate 16 .zero, List.replicate 16 .zero, [], [], []⟩
    let x := withC { tileS with passes := [pass wordL 0 true 1] } fun c => { c with live := some blk, strm := [(0, 3)] }
    let v := nextVector c x 0 [0] g
    let f := withC { tileS with passes := [pass wordL 2 true 1] } fun c => { c with live := some blk }
    let bad := { tileS with passes := [{ pass wordL 2 true 1 with edges := [⟨2, false, 2, 0, [], [], [.fin false 1 0], [], []⟩] }] }
    let checks (p : Pass) := (List.range c.edges.length).map fun i => columnChecks c (nthD (0, [], []) c.edges i).2.2 (nthD (Edge.init c 0) p.edges i)
    ((devT x).unitReady 0 ∧ courseDecode (devT x).weld wordL = some c ∧ c.edgeAt 0 = some 0 ∧ c.edges[0]? = some (0, [0], [(0, [0])]) ∧ c.ramp = 0 ∧ g.t < c.len ∧ c.cls ≠ 32 ∧
        (pass wordL 0 true 1).fedAt c 0 = false ∧ (pass wordL 0 true 1).exch.testBit 0 = true ∧
        (admitVector c x [(0, [0])] { g with j := g.j + 1 } v.1 v.2.1 []).fails = 0) ∧
      ((devT f).unitReady 0 ∧ (pass wordL 2 true 1).fed c = true ∧ ((checks (pass wordL 2 true 1)).map (·.2)).sum = 0) ∧
      ((devT bad).unitReady 0 ∧ bad.passes[0].fed c = true ∧ ((checks bad.passes[0]).map (·.2)).sum ≠ 0 ∧ bad.passes[0].tries < 2) ∧
      (let s := { tileS with passes := [{ pass wordL 2 true 1 with stuck := true }] }; (devT s).unitReady 0 ∧ ∃ p ∈ s.passes, p.stuck = true) := by
  repeat' first | decide +kernel | constructor
/-- A parameter block of zeros at 64 but for its output format. -/
def par (f : Fmt) : CPar := ⟨f, .rz, false, 0, 0, 0, List.replicate 32 0, List.replicate 32 0, List.replicate 32 0⟩
/-- A converter command of one row at the front of converter 3; its block is at 64. -/
def conv (op : Nat) : QConv := ⟨pack [(op, 60), (0xB * b2n (decide (op = 1 ∨ op = 2)), 4)], pack [(b2n (decide (op ≠ 1)), 51)], 0, none⟩
def tileV (code : Byte) (q : QConv) : Tile := { tileS with vq := setV (.replicate 4 []) 3 [q], store := [(71, code)] }

theorem met_converters :
    ((devT (tileV 0x80 (conv 0))).unitReady 0 ∧ (conv 0).seed = none ∧ convReady (tileV 0x80 (conv 0)) 3 0 = some (conv 0) ∧ wf (conv 0).w0 3 0 = 0 ∧ wf (conv 0).w1 19 0 = 0 ∧
        readPar (tileV 0x80 (conv 0)) 64 = some (par .f32) ∧ convParHit 0 (conv 0) = false ∧ convHits 0 (conv 0) (some .f32) = false ∧
        (∀ i ∈ List.range 8, convValue (par .f32) false 0 i = some (.fin false 0 0)) ∧ (drawIf (par .f32).rmode 0).2 = 0) ∧
      (convReady (tileV 0x30 (conv 0)) 3 0 = some (conv 0) ∧ readPar (tileV 0x30 (conv 0)) 64 = some (par .t8) ∧ convHits 0 (conv 0) (some .t8) = false ∧
        (∀ j ∈ List.range 32, convValue (par .t8) false 0 j = some (.fin false 0 0)) ∧
        (tBlock .t8 .rz ((List.range 32).map fun _ => .fin false 0 0) 0).2.2.2.2 = 0) ∧
      ((devT (tileV 0 (conv 1))).unitReady 0 ∧ convReady (tileV 0 (conv 1)) 3 1 = some (conv 1) ∧ weldOk dev.weld (conv 1) true = true ∧ wf (conv 1).w1 29 0 = 0 ∧
        wf (conv 1).w0 25 23 ≠ 7 ∧ wf (conv 1).w0 22 20 ≠ 7 ∧ convHits 1 (conv 1) none = false) ∧
      (convReady (tileV 0x80 (conv 2)) 3 2 = some (conv 2) ∧ weldOk dev.weld (conv 2) true = true ∧ wf (conv 2).w1 19 0 = 0 ∧
        readPar (tileV 0x80 (conv 2)) 64 = some (par .f32) ∧ convParHit 2 (conv 2) = false ∧ convHits 2 (conv 2) (some .f32) = false) ∧
      (convReady (tileV 0 (conv 3)) 3 3 = some (conv 3) ∧ weldOk dev.weld (conv 3) false = true) := by
  repeat' first | decide +kernel | constructor

/-- A WSPLIT of one row of 16 elements, and bank loads at the end of a streaming bank, of a broken rule and of no course. -/
theorem met_loader_and_splitter :
    let b : SplitBlk := ⟨0x100, 0x200, 0x400, 1, 16, 16, false, 1⟩
    let st : SMap Byte := [(1, 1), (5, 2), (9, 4), (12, 1), (14, 16), (16, 16), (20, 1), (21, 0xB)]
    let s := { tileS with lq := [.split 0 0], store := st }
    let z := { tileS with lq := [.split 32 0], store := st }
    let d1 : Word := pack [(15, 60), (1, 59), (24560, 43), (63, 28)]
    let d2 : Word := pack [(15, 60), (1, 59), (8, 43), (63, 28)]
    let d3 : Word := pack [(1, 59), (63, 28)]
    let l (desc : Word) := { tileS with lq := [.bld 0x100 desc 0 0] }
    ((devT s).unitReady 0 ∧ s.unitsBefore 0 = false ∧ (devT s).weld = true ∧ readSplit s 0 = some b ∧ creditHit 0 64 = false ∧ creditHit b.src (8 * b.r * b.ktot) = false ∧
        creditHit b.dig (7 * b.nw * b.r * b.ktot) = false ∧ creditHit b.exp (4 * (b.ktot / b.kc) * b.nw * b.r) = false) ∧
      ((devT z).unitReady 0 ∧ ({ z with lq := [] } : Tile).unitsBefore 0 = false ∧ creditHit 32 64 = false ∧ 32 % 64 ≠ 0) ∧
      ((devT (l d1)).unitReady 0 ∧ ({ l d1 with lq := [] } : Tile).unitsBefore 0 = false ∧ bldOk 0x100 d1 = true ∧ wf d1 63 60 ≠ 0 ∧ 0x100 + wf d1 42 28 + 1 ≤ 0x7FF00 ∧ (l d1).holds = []) ∧
      (bldOk 0x100 d2 = false) ∧ (bldOk 0x100 d3 = true ∧ wf d3 63 60 = 0) := by
  repeat' first | decide +kernel | constructor

theorem met_digits : -(2 ^ 54) ≤ (2 ^ 54 : Int) ∧ (2 ^ 54 : Int) ≤ 2 ^ 54 := by decide

/-- A Swage program at 0 that copies four F32 elements from 0x400 to 0x500. -/
def strmA : Nat := (pack [(8, 60), (1, 59), (0x100, 42), (1, 26)]).toNat
def strmD : Nat := (pack [(8, 60), (1, 59), (0x140, 42), (1, 26)]).toNat
def prog : SProg := ⟨.f32, 1, 0, .rz, false, false, 4, 0, 0, [strmA, 0, 0, strmD], [stgOf (pack [(1, 55)]).toNat], List.replicate 16 0⟩
def progStore : SMap Byte := word8 0 (pack [(8, 60), (3, 32)]).toNat ++ word8 0x10 strmA ++ word8 0x28 strmD ++ word8 0x30 (pack [(1, 55)]).toNat

theorem met_swage_programs :
    let x := { tileS with sq := [⟨0, 31, 0⟩], store := progStore }
    let z := { tileS with sq := [⟨0, 31, 0⟩] }
    let u := { tileS with sq := [⟨32, 31, 0⟩] }
    let r : SRun := ⟨⟨0, 31, 0⟩, some (0x600, 4), 7, 0, 0, none⟩
    ((devT x).unitReady 0 ∧ x.srun = none ∧ x.wideBusy = false ∧ ({ x with sq := [] } : Tile).unitsBefore 0 = false ∧ creditHit 0 192 = false ∧
        readProg false x 0 = some prog ∧ progHits prog x = false ∧ (prog.stages.all fun s => decide (s.op < 0x28)) = true ∧ prog.lenind = false ∧ prog.cflag = false ∧
        prog.sumsel = 0 ∧ 0 < prog.len ∧
        (((List.range 3).mapM fun i => if prog.uses i then (strmOf (nthD 0 prog.streams i)).map some else some none) = some [some ⟨.f32, true, 0x2000, 1⟩, none, none]) ∧
        strmOf (nthD 0 prog.streams 3) = some ⟨.f32, true, 0x2800, 1⟩) ∧
      ((devT z).unitReady 0 ∧ readProg false z 0 = none) ∧ ((devT u).unitReady 0 ∧ 32 % 64 ≠ 0 ∧ creditHit 32 192 = false) ∧
      (let y := { tileS with srun := some r }; (devT y).unitReady 0 ∧ y.srun = some r) := by
  repeat' first | decide +kernel | constructor
/-! ### Statements about launches and tasks -/

/-- A descriptor: an opcode and words at offsets of 8. -/
def descOf (op : Nat) (ws : List (Nat × Nat)) : List Byte :=
  (List.range 128).map fun i => BitVec.ofNat 8 ((SMap.get 0 ((0, op) :: ws) (i / 8 * 8)) / 256 ^ (i % 8))
/-- A command of queue 0 of partition 0 that waits. -/
def cmdOf (op : Nat) (ws : List (Nat × Nat)) : Cmd :=
  { ref := cmd0, part := 0, desc := descOf op ws, at_ := 0, cset := 0, latch := [], phase := .waiting, status := 0, reason := 0, wbound := false, nospace := false,
    doneAt := 0, delta := [], marked := false, restruck := 0, placed := false, tasks := [], move := .init, hold := [], polled := 0, badAt := none, cfg := none }
def devK (l : List Cmd) : Dev := { dev with cmds := l }

theorem met_launches :
    let st : SMap Byte := word8 0 0x40000100 ++ word8 0x10 1
    let x := { tileS with tq := [⟨0, 0, 0⟩], store := st }
    let z := { tileS with tq := [⟨0, 0, 0⟩] }
    let l : Launch := ⟨0x40000100, 0, 1, 1, 0, false, 0, 0⟩
    let y := { tileS with launch := some l }
    let b := { tileS with groups := setV (.replicate 8 none) 0 (some { grp with bar := true }), launch := some { l with next := 1 } }
    ((devT x).unitReady 0 ∧ x.launch = none ∧ (∀ g < 8, x.group g = none) ∧ ({ x with tq := [] } : Tile).unitsBefore 0 = false ∧ creditHit 0 64 = false ∧ readLaunch x ⟨0, 0, 0⟩ = some l ∧
        (devT x).tileIn (tKey 0 0) = true) ∧
      ((devT z).unitReady 0 ∧ readLaunch z ⟨0, 0, 0⟩ = none) ∧
      ((devT y).unitReady 0 ∧ ((List.range (slots false)).filter fun j => (y.group j).isNone).take 1 = List.ofFn fun _ : Fin 1 => 0) ∧
      (devG.agentReady group = true ∧ devG.fetchStop group 4 = none ∧ devG.reservedReg group [] = false ∧ ∀ j < 8, j ≠ 0 → (devG.tile 0).group j = none) ∧
      ((devT b).live = true ∧ b.launch = some { l with next := 1 } ∧ (clusterOf 0 0).all ((devT b).blockAtBar (b.task.map (·.cmd)) { l with next := 1 } 0) = true) := by
  repeat' first | decide +kernel | constructor

theorem met_tasks :
    let m : Msg := ⟨.task task, 0, 0, 0, 0⟩
    let d := { dev with tongs := { dev.tongs with inflight := [m] } }
    let w := { d with tongs := { d.tongs with inflight := [{ m with epoch := 1 }] } }
    let c := { cmdOf 1 [] with phase := .running, placed := true, tasks := [⟨task, 0, 0, 0, false⟩] }
    let g := { devK [c] with tongs := { dev.tongs with ready := [(0, [task])] } }
    let k := { devK [{ c with tasks := [⟨task, 0, 1, 0, false⟩] }] with tiles := [(0, { tileS with kend := true })] }
    (d.live = true ∧ d.tongs.inflight.find? (fun m => m.brick == 0 && (match m.load with | .task _ => m.tile == 0 | .span .. => true)) = some m ∧
        d.phys 0 = some 0 ∧ d.brickIn 0 = true ∧ (d.brick 0).epoch = m.epoch ∧ (d.brick 0).pstate = 0) ∧
      (w.live = true ∧ (w.brick 0).epoch ≠ 1 ∧ w.phys 0 = some 0 ∧ w.tongs.slag.length < 512) ∧
      (g.live = true ∧ SMap.get [] g.tongs.ready tile0.key = [task] ∧ (g.tile 0).task = none ∧ g.tileIn 0 = true ∧ g.markedCmd cmd0 = false ∧ g.cmd cmd0 = some c ∧
        g.snapHeld c = false ∧ (g.part 0).d.tren = false) ∧
      (k.live = true ∧ (k.tile 0).fin = none ∧ k.kendDone 0 = true ∧ (k.cmds.all fun c => c.op == 1 && c.open_ && c.placed && c.tasks.all fun r => r.phase = 1) = true) := by
  repeat' first | decide +kernel | constructor
/-! ### Statements about commands of the queues -/

def okOr {α : Type} (x : Except (Nat × Nat) (List α)) : List α := match x with | .ok l => l | .error _ => []
def isOk {ε α : Type} (x : Except ε α) : Bool := match x with | .ok _ => true | .error _ => false

/-- Commands that wait, by opcode and operands. -/
def cKernel := cmdOf 1 []
def run (c : Cmd) : Cmd := { c with phase := .running }

theorem met_queue_commands :
    let kc := cmdOf 0x1B [(0x20, 0)]
    let other := { cmdOf 0x3F [] with ref := ⟨1, 0, 1⟩ }
    let cc := cmdOf 0x1B [(0x20, 0x10000)]
    let wc := cmdOf 0x19 [(0x20, 0x40002000)]
    let wd := { run wc with phase := .running }
    let sc := cmdOf 0x18 [(0x20, 0x40002000), (0x28, 5), (0x38, 1)]
    let mk := { cmdOf 0x3F [] with marked := true }
    let dc := cmdOf 0x20 []
    ((devK [cKernel]).starts cmd0 1 cKernel ∧ (devK [cmdOf 0x1A []]).starts cmd0 0x1A (cmdOf 0x1A []) ∧ (devK [run (cmdOf 0x1A [])]).underWay cmd0 0x1A (run (cmdOf 0x1A [])) ∧
        (devK [cmdOf 0x3F []]).starts cmd0 0x3F (cmdOf 0x3F []) ∧ (devK [cmdOf 0x21 []]).starts cmd0 0x21 (cmdOf 0x21 []) ∧ (devK [dc]).starts cmd0 0x20 dc ∧
        (devK [dc]).st.dumpen 0 = false) ∧
      ((devK [kc]).starts cmd0 0x1B kc ∧ kc.f 0x20 6 6 = 0 ∧ ((devK [kc]).begun cmd0 kc).cancelTargets (run kc) = [] ∧
        (devK [cc, other]).starts cmd0 0x1B cc ∧ ((devK [cc, other]).begun cmd0 cc).cancelTargets (run cc) ≠ [] ∧ (devK [run cc]).underWay cmd0 0x1B (run cc)) ∧
      ((devK [mk]).cmd cmd0 = some mk ∧ (devK [mk]).canStart mk = true) ∧
      ((devK [wc]).starts cmd0 0x19 wc ∧ ((devK [wc]).awaits fun w => w = .sync cmd0) = false ∧
        (let x := (((devK [wc]).begun cmd0 wc).setCmd cmd0 fun c => { c with polled := 0 }).accE 0 0x40002000 8 false wc.acct
         x.2.here = true ∧ x.1.badIn [(x.2, 8)] = none ∧ wc.f 0x28 63 0 = 0)) ∧
      ((devK [wd]).underWay cmd0 0x19 wd ∧ ((devK [wd]).accE 0 0x40002000 8 false wd.acct).2.here = true) ∧
      ((devK [sc]).starts cmd0 0x18 sc ∧ sc.signalCores = [0] ∧
        (let x := ((devK [sc]).begun cmd0 sc).accAmo 0 0x40002000 sc.acct
         x.2.here = true ∧ x.1.badIn [(x.2, 8)] = none ∧ x.1.refusedBy [(x.2, 8)] = none ∧
           (x.1.farAmo ⟨portXfer, 0, sc.acct⟩ x.2 8 (fun _ => some 5) none).1.cmd cmd0 = some (run sc))) := by
  repeat' first | decide +kernel | constructor
/-- A MOVE of one row of 8 bytes from 0x40002000 to 0x40003000, as it starts, is delivered, and is parked. -/
def cMove := cmdOf 2 [(0x20, 0x40002000), (0x28, 0x40003000), (0x30, 7 * 2 ^ 48)]
def cRow := { run cMove with move := { MoveRun.init with next := 1, wrote := [(0, none)] } }
def cPark := { run cMove with move := { MoveRun.init with parked := some 5 } }

theorem met_transfers :
    let d := devK [cMove]
    let s := Dev.accRange 0 false cMove.acct ((cMove.rowRuns 0).flatMap fun x => pieces x.1 x.2) (d.begun cmd0 cMove |>.ring 2 0 0x02 (some (run cMove)) 0)
    let t := Dev.accRange 0 true cMove.acct (pieces (cMove.rowVa true 0) cMove.rowLen) s.1
    let src : List (Acc × Nat) := [(.loc 0x40002000, 8)]
    let dst : List (Acc × Nat) := [(.loc 0x40003000, 8)]
    let rs : Cmd := { cmdOf 0x0A [] with ref := ⟨1, 0, 1⟩ }
    (d.starts cmd0 2 cMove ∧ d.snapHeld cMove = false ∧ cMove.move.next < cMove.rows ∧ cMove.dkind = false ∧ cMove.rowCount = false ∧
        isOk s.2 = true ∧ isOk t.2 = true ∧ okOr s.2 = src ∧ okOr t.2 = dst ∧ copyOk 2 false src = true ∧ copyOk 2 true dst = true ∧ cMove.gatherOk 0 src = true ∧
        (∀ x ∈ src, x.1.plain x.2 = true) ∧ (∀ x ∈ dst, x.1.plain x.2 = true) ∧ runCap 0x40003000 8 0x40002000 8 = none ∧ t.1.badIn src = none ∧ t.1.fab.waits = [] ∧
        (Dev.fetch (t.1.xferReq cMove) src t.1).1.refusedBy dst = none ∧ (Dev.fetch (t.1.xferReq cMove) src t.1).1.badEdges dst = none) ∧
      (let d := devK [cRow]
       d.cmd cmd0 = some cRow ∧ cRow.phase = .running ∧ cRow.isMove = true ∧ d.live = true ∧ (d.awaits fun w => w = .sync cmd0) = false ∧ cRow.move.parked = none ∧
        cRow.move.wrote.find? (fun e => e.1 = 0) = some (0, none) ∧ cRow.move.delivered + 1 = cRow.move.next ∧ cRow.move.next = cRow.rows) ∧
      (let d := devK [cPark]
       d.cmd cmd0 = some cPark ∧ cPark.isMove = true ∧ d.now < 5 ∧ ({ d with now := 5 } : Dev).live = true ∧ cPark.move.delivered = cPark.move.next) ∧
      (let d := devK [cPark, rs]
       d.starts rs.ref 0x0A rs ∧ rs.f 0x20 6 6 = 0 ∧ d.cmd cmd0 = some cPark ∧ cPark.move.parked.isSome = true ∧ cPark.ref.q.val = rs.f 0x20 5 0 ∧
        cPark.ref.slot.toNat = rs.f 0x20 31 16 ∧ cPark.move.fgen = rs.f 0x20 47 32 ∧ cPark.move.next < cPark.rows) := by
  repeat' first | decide +kernel | constructor

theorem met_fill_prefetch_advise :
    let f := cmdOf 5 [(0x20, 0x40002000), (0x28, 8), (0x30, 7)]
    let p := cmdOf 8 []
    let z := { cmdOf 8 [] with ref := ⟨0, 0, 0⟩ }
    let g := { cmdOf 8 [(0x20, 0x38000000000), (0x28, 1), (0x30, 0x100000)] with ref := ⟨0, 0, 0⟩ }
    let a := cmdOf 9 [(0x20, 0x40002000), (0x28, 64)]
    let o := ((devK [a]).begun cmd0 a).xlateE 0 0x40002000 a.acct
    ((devK [f]).starts cmd0 5 f ∧ (devK [f]).snapHeld f = false ∧ pieces 0x40002000 8 = [(0x40002000, 8)] ∧
        ((devK [f]).accE 0 0x40002000 8 true f.acct).2 ≠ .wait ∧
        (let x := ((devK [f]).begun cmd0 f).accE 0 0x40002000 8 true f.acct; x.2.plain 8 = true ∧ x.1.refusedBy [(x.2, 8)] = none)) ∧
      ((devK [p]).starts cmd0 8 p ∧ p.viaPf = false ∧ (devK [z]).starts z.ref 8 z ∧ z.viaPf = true ∧ (devK [z]).snapHeld z = false ∧ z.f 0x28 31 0 ≤ z.polled) ∧
      (let page (pa : Nat) : Dev := { devK [g] with mem := { dev.mem with dram := tables 0x1000 ++ word8 0x2038 0x3001 ++ word8 0x3000 0x4001 ++ word8 0x4000 0x400000E3 ++ word8 0x100000 pa } }
       let lv (pa : Nat) (same : Bool) : Bool :=
         let d0 := (page pa).begun g.ref g
         let rd := d0.read ⟨portXfer, 32, g.acct⟩ 0x100000 8
         match rd.1.leaf 0 0x38000000000 with
         | .ok (_, w, 1) => !wb w 9 && decide (leNat rd.2 = pa) && decide (wf w 63 12 * 4096 = 0x40000000) && (same == decide (pa = 0x40000000)) &&
             (same || (decide (rd.1.frameAcc 0 pa false = some (.loc 0x40200000)) && decide (rd.1.oldFrame 0 w = some (.loc 0x40000000)) && rd.1.lit 0x40200000 && rd.1.lit 0x40000000 &&
               !rd.1.frameBusy 0 0x40000000))
         | _ => false
       (page 0x40000000).starts g.ref 8 g ∧ g.viaPf = true ∧ (page 0x40000000).snapHeld g = false ∧ g.polled < g.f 0x28 31 0 ∧ g.f 0x28 36 32 = 0 ∧
         ((page 0x40000000).begun g.ref g).inCarve 0x100000 8 = true ∧ ((page 0x40000000).begun g.ref g).bad 0x100000 8 = none ∧
         lv 0x40000000 true = true ∧ lv 0x40200000 false = true) ∧
      ((devK [a]).starts cmd0 9 a ∧ pieces 0x40002000 (a.f 0x28 39 0) = [(0x40002000, 64)] ∧
        (match o.2 with | .ok pa w => decide (pa = 0x40002000) && o.1.here 0 && o.1.grant 0 pa 64 && !wb w 10 | _ => false) = true ∧ inTier 0x40002000 = true) := by
  repeat' first | decide +kernel | constructor

theorem met_barriers_and_snapshots :
    let one := cmdOf 0x30 [(0x28, 2 ^ 32)]
    let two := cmdOf 0x30 [(0x28, 2 * 2 ^ 32)]
    let first := { two with ref := ⟨1, 1, 0⟩, phase := .arrived }
    let a := two.arrival 0
    let x : BCtx := { a.open_ 0 with cmds := [⟨1, 1, 0⟩], got := 1 }
    let s := cmdOf 0x31 [(0x28, 2 ^ 32)]
    let sd := { s with phase := .draining }
    let sc := { s with phase := .copying }
    let at_ (l : List Cmd) (x : List BCtx) : Dev := { devK l with fab := { dev.fab with ctxs := x } }
    let here := fun (x : BCtx) => x.level == 0 && x.tag == 0 && x.barid == 0
    let opens (d : Dev) (gen : Nat) : Prop := d.st.jobtag 0 = 0 ∧ d.fab.barWait = [] ∧ d.fab.barPkt = [] ∧ d.fab.ingress = [] ∧ d.fab.held = [] ∧ d.fab.ctxs.find? here = none ∧
      d.fab.ctxs.length < 256 ∧ d.fab.gens.find? (fun g => g.level == 0 && g.tag == 0 && g.barid == 0) = none ∧ gen = 0
    (opens (devK [one]) 0 ∧ (devK [one]).starts cmd0 0x30 one ∧ (one.arrival 0).scope = 0 ∧ (one.arrival 0).nlocal = 1 ∧ (one.arrival 0).blen = 0) ∧
      (opens (devK [two]) 0 ∧ (devK [two]).starts cmd0 0x30 two ∧ a.scope = 0 ∧ a.nlocal = 2) ∧
      ((at_ [first, two] [x]).starts cmd0 0x30 two ∧ (at_ [first, two] [x]).fab.ctxs.find? here = some x ∧ x.gen = a.gen ∧ x.fits a = true ∧ x.sent = false ∧ x.got + 1 = x.need ∧ x.blen = 0 ∧
        (at_ [first, two] [x]).cmd ⟨1, 1, 0⟩ = some first ∧ first.op = 0x30) ∧
      (x.fits (one.arrival 0) = false ∧ (at_ [one] [x]).starts cmd0 0x30 one) ∧
      (opens (devK [s]) 0 ∧ (devK [s]).starts cmd0 0x31 s ∧ ((devK [s]).part 0).snap = none ∧ (s.arrival 0).nlocal = 1 ∧ (s.arrival 0).scope = 0) ∧
      (opens (devK [sd]) 0 ∧ (devK [sd]).cmd cmd0 = some sd ∧ (devK [sd]).drained 0 = true ∧ ({ devK [sd] with tiles := [(0, tileS)] } : Dev).drained 0 = false) ∧
      ((devK [sc]).cmd cmd0 = some sc ∧ sc.move.delivered = sc.move.next ∧ sc.move.stop = none ∧ sc.f 0x38 12 0 ≤ sc.move.next) := by
  repeat' first | decide +kernel | constructor

theorem met_cancels_and_dumps :
    let marked (c : Cmd) : Cmd := { c with marked := true }
    let k := marked { run (cmdOf 1 []) with placed := true, tasks := [⟨task, 0, 1, 0, false⟩] }
    let w := marked (cmdOf 2 [])
    let f := marked { cmdOf 0x20 [] with phase := .fired }
    let u := { cmdOf 0x20 [] with phase := .fired }
    ((({ devK [k] with tiles := [(0, tileS)] } : Dev).cmd cmd0 = some k) ∧ k.open_ = true ∧ (({ devK [k] with tiles := [(0, tileS)] } : Dev).tile tile0.key).task = some task ∧
        (k.tasks.all fun y => y.phase = 1) = true) ∧
      ((devK [w]).cmd cmd0 = some w ∧ w.open_ = true ∧ ((devK [w]).tile tile0.key).task = none) ∧ ((devK [f]).cmd cmd0 = some f ∧ f.open_ = true) ∧
      ((devK [u]).cmd cmd0 = some u ∧ u.op = 0x20 ∧ u.move.next = 0 ∧ ((devK [u]).cmds.takeWhile fun x => x.ref ≠ cmd0) = [] ∧ (devK [u]).pkg.level < 3) := by
  repeat' first | decide +kernel | constructor
/-! ### Statements about queues and the Tongs -/

def que : Queue := { Queue.reset with sqbase := 0x40010, cqbase := 0x40020, en := true, log := 4, tail := 1 }
/-- Queue 0 of partition 0's function, enabled, with one command to take. -/
def devQ : Dev := { dev with queues := [(64, que)] }
def qr : QRef := ⟨1, 0⟩

theorem met_doorbells_and_acceptance :
    let z := { devQ with mem := { devQ.mem with dram := devQ.mem.dram ++ [(0x40010000, 0x3F)] } }
    let f := { devQ with queues := [(64, { que with sqbase := 0x8000000000 })] }
    let a (d : Dev) (va : Nat) := d.ringAcc 1 va 128 false
    let b := Dev.readAll (ringReq 1) [(Acc.loc 0x40010000, 128)] (a z 0x40010000).1
    let c := newCmd b.1 cmd0 b.2
    (devQ.answers = true ∧ (devQ.queue 64).rst = false ∧ (devQ.queue 64).en = true ∧ devQ.qStopped 1 = false ∧ 15 < (devQ.queue 64).depth ∧ (devQ.queue 64).depth ≤ 16 ∧ (dev.queue 64).en = false) ∧
      (z.accepts 1 0 = true ∧ isOk (a z 0x40010000).2 = true ∧ okOr (a z 0x40010000).2 = [(.loc 0x40010000, 128)] ∧ (a z 0x40010000).1.badIn [(.loc 0x40010000, 128)] = none ∧
        z.cmd cmd0 = none ∧ partOk b.1 c = true ∧ reservedOk c = true ∧ valuesOk b.1 c = true ∧ c.op = 0x3F) ∧
      (f.accepts 1 0 = true ∧ (match (a f (0x8000000000 * 4096)).2 with | .error (_, j) => decide (j ≠ 0) | .ok _ => false) = true) ∧ dev.accepts 1 0 = false := by
  repeat' first | decide +kernel | constructor

theorem met_completion_records :
    let c := { cmdOf 0x3F [] with phase := .done }
    let d := { devQ with cmds := [c], queues := [(64, { que with acc := 1, out := [0], irqmode := 2 })], vecs := [(256, { Vec.reset with mask := false })] }
    let full := { d with queues := [(64, { que with acc := 1, out := [0], cqhead := 1 })] }
    let u := d.queue cmd0.qk
    (d.live = true ∧ d.cmd cmd0 = some c ∧ u.out.head? = some 0 ∧ (u.cqtail + 1) % u.depth ≠ u.cqhead ∧ u.rst = false ∧ isOk (d.ringAcc 1 0x40020000 64 true).2 = true ∧
        okOr (d.ringAcc 1 0x40020000 64 true).2 = [(.loc 0x40020000, 64)] ∧ (Acc.loc 0x40020000).plain 64 = true ∧ u.lastIrq = none ∧ (SMap.get Vec.reset d.vecs 256).mask = false) ∧
      (full.cmd cmd0 = some c ∧ ((full.queue cmd0.qk).cqtail + 1) % (full.queue cmd0.qk).depth = (full.queue cmd0.qk).cqhead) := by
  repeat' first | decide +kernel | constructor

theorem met_queue_registers :
    let w := { devQ with queues := [(64, { que with irqWait := true, lastIrq := some 0 })], vecs := [(256, { Vec.reset with mask := false })] }
    (devQ.answers = true ∧ (devQ.queue qr.key).rst = false ∧ devQ.cmds = []) ∧ ((({ devQ with cmds := [cmdOf 0x3F []] } : Dev).cmds.any fun c => c.ref.qk = qr.key) = true) ∧
      (w.live = true ∧ (w.queue qr.key).irqWait = true ∧ 0 + 1000 * (w.queue qr.key).itr ≤ w.now ∧ (SMap.get Vec.reset w.vecs 256).mask = false) := by
  repeat' first | decide +kernel | constructor

/-- Partition 0 serves: a table of one sequence at 0x40030000, a graph at 0x40040000, one layer; brick 0 prefills. -/
def srv : Tng := { Tng.reset with seqbase := 0x40030000, nlayer := 1, graph := 0x40040000 }
def devV (l : List Cmd) (m : SMap Byte) : Dev :=
  { devK l with tng := [(0, srv)], tongs := { dev.tongs with bricks := [(0, { Brick.off with pstate := 0, role := 1 })] }, mem := { dev.mem with dram := dev.mem.dram ++ m } }
/-- A run of Tongs accesses succeeds with a result that a test accepts. -/
def gives? {α : Type} (m : Tm α) (d : Dev) (p : α → Bool) : Bool := match (m.run d).1 with | .ok x => p x | .error _ => false

theorem met_serving :
    let a := cmdOf 0x11 [(0x20, 0), (0x28, 16 * 2 ^ 32 + 1)]
    let bad := cmdOf 0x11 [(0x20, 0), (0x28, 16 * 2 ^ 32)]
    let d := devV [a] []
    let r := cmdOf 0x12 []
    let far := cmdOf 0x12 [(0x20, 1)]
    let free := devV [r] []
    let busy := devV [r] (word8 0x40030000 (2 ^ 62))
    let late := run { r with marked := true }
    (d.starts cmd0 0x11 a ∧ (d.cfgOf a).seqcap = 0 ∧ a.f 0x28 31 0 = 1 ∧ a.f 0x28 63 32 = 16 ∧ gives? (readSeq 0 a.acct srv 0) (d.begun cmd0 a) (fun v => v.state == 0) = true ∧
        gives? (admitTm a srv) (d.begun cmd0 a) (fun _ => true) = true) ∧ ((devV [bad] []).starts cmd0 0x11 bad ∧ bad.f 0x28 31 0 = 0) ∧
      (free.starts cmd0 0x12 r ∧ gives? (readSeq 0 r.acct srv 0) (free.begun cmd0 r) (fun v => v.state == 0) = true ∧ srv.seqcap < far.f 0x20 15 0 ∧ (devV [far] []).starts cmd0 0x12 far) ∧
      (busy.starts cmd0 0x12 r ∧ gives? (readSeq 0 r.acct srv 0) (busy.begun cmd0 r) (fun v => v.state == 1) = true ∧ srv.inBatch 0 = false ∧
        gives? (retireTm r) (busy.begun cmd0 r) (fun _ => true) = true) ∧ ((devV [late] []).cmd cmd0 = some late ∧ late.placed = false) := by
  repeat' first | decide +kernel | constructor

/-- The first node of a graph of one KERNEL node of role 1 and one task, and an attend node. -/
def nodeK : NodeRun := ⟨0, 0, [], 0, (List.range 64).map fun i => if i = 0x17 then 0x20 else if i = 0x14 then 1 else 0, [], 0, []⟩
def nodeA : NodeRun := { nodeK with desc := (List.range 64).map fun i => if i = 0x18 then 1 else if i = 9 then 0 else 0 }

theorem met_steps :
    let c := cmdOf 0x10 [(0x20, 0x40050000)]
    let e := devV [c] []
    let none_ := { e with tng := [] }
    let g := devV [c] (word8 0x40040000 1)
    (none_.starts cmd0 0x10 c ∧ none_.stepBehind c = false ∧ (none_.serving 0).run = none ∧ (none_.cfgOf c).seqbase = 0) ∧
      (e.starts cmd0 0x10 c ∧ e.stepBehind c = false ∧ (e.cfgOf c).seqbase ≠ 0 ∧ (e.cfgOf c).graph ≠ 0 ∧ (e.cfgOf c).nlayer ≠ 0 ∧
        gives? (stepTm c srv) (e.begun cmd0 c) (fun _ => true) = true ∧ (assemble 0 4096 512 [seqOf 0 (List.replicate 64 0)]).items = []) ∧
      (g.starts cmd0 0x10 c ∧ gives? (tgRead 0 c.acct 0x40040000 64) (g.begun cmd0 c) (fun h => bfld h 0 13 0 == 1) = true ∧
        gives? ((List.range 1).mapM fun i => readNode c 0x40040000 0x40060000 i) (g.begun cmd0 c) (fun l => l.length == 1) = true) := by
  repeat' first | decide +kernel | constructor

theorem met_batches : (assemble 0 4096 512 [{ seqOf 0 (List.replicate 64 0) with state := 1, inlen := 20, maxctx := 32, plen := 20 }]).cut = none ∧
    (assemble 4 4096 512 [{ seqOf 0 (List.replicate 64 0) with state := 1, inlen := 20, maxctx := 32, plen := 20 }]).cut = some 0 := by decide +kernel

theorem met_placement :
    let w := 2 ^ 61 + 2 ^ 32
    let c := run (cmdOf 1 [(0x30, w)])
    let k := { c with placed := true, tasks := [⟨{ task with place := BitVec.ofNat 64 w }, 0, 0, 0, false⟩] }
    let m : Msg := ⟨.task { task with place := BitVec.ofNat 64 w }, 0, 0, 1, 0⟩
    let s (d : Dev) (m : Msg) : Dev := { d with tongs := { d.tongs with slag := [m] } }
    ((devV [c] []).underWay cmd0 1 c ∧ (devV [c] []).snapHeld c = false ∧ (devV [c] []).placedAfter c = false ∧ (devV [c] []).resolve 0 (c.w 0x30) = .on [0]) ∧
      ((devK [c]).resolve 0 (c.w 0x30) = .unavailable ∧ (devV [c] []).resolve 0 (BitVec.ofNat 64 (2 ^ 61 + 97 * 2 ^ 32)) = .absent) ∧
      (({ devV [c] [] with tiles := (List.range 96).map fun i => (i, tileS) } : Dev).resolve 0 (c.w 0x30) = .wait) ∧
      ((s (devV [k] []) m).cmd cmd0 = some k ∧ Dev.reTile (devV [k] []) { task with place := BitVec.ofNat 64 w } = some 0 ∧ Dev.reTile (devK [k]) { task with place := BitVec.ofNat 64 w } = none) := by
  repeat' first | decide +kernel | constructor

theorem met_nodes :
    let c := run (cmdOf 0x10 [])
    let at_ (x : List NodeRun) (items : List BItem) (sp : List Msg) : Dev :=
      { devV [c] [] with tng := [(0, { srv with run := some ⟨cmd0, 0x40050000, items, x⟩ })], tongs := { (devV [] []).tongs with spans := sp } }
    let it : BItem := ⟨0, 0, true, 1, 0, 0, 0x40070000⟩
    let go : NodeRun := { nodeA with phase := 1, nspan := 1, att := List.replicate 64 0 }
    let d := at_ [nodeK] [] []
    let s : StepRun := ⟨cmd0, 0x40050000, [it], [go]⟩
    (d.live = true ∧ (d.serving 0).run = some ⟨cmd0, 0x40050000, [], [nodeK]⟩ ∧ d.cmd cmd0 = some c ∧ nodeK.startable = true ∧ d.snapHeld c = false ∧
        d.nodeHeld ⟨cmd0, 0x40050000, [], [nodeK]⟩ (some 0) = false ∧ nodeK.kind = 0 ∧ d.placeOk (BitVec.ofNat 64 (bfld nodeK.desc 0x10 63 0)) = true ∧
        d.resolve 0 (BitVec.ofNat 64 (bfld nodeK.desc 0x10 63 0)) = .on [0]) ∧
      (nodeA.kind = 1 ∧ nodeA.startable = true ∧ go.startable = false) ∧
      (let e := at_ [go] [it] [⟨.span 0 0 0 0, 0, 0, 0, 0⟩]
       (e.serving 0).run = some s ∧ e.tongs.spans.find? (fun m => decide (m.load = .span 0 0 0 0)) = some ⟨.span 0 0 0 0, 0, 0, 0, 0⟩ ∧ go.phase = 1 ∧ s.items[0]? = some it) ∧
      (let e := at_ [{ go with spans := [(0, 0)] }, go] [it] []
       (e.serving 0).run.isSome = true ∧ e.cmds = [c] ∧ ({ go with spans := [(0, 0)] } : NodeRun).spans.length = go.nspan ∧ go.kind ≠ 0) := by
  repeat' first | decide +kernel | constructor
/-! ### Statements about roles, levels, partitions and the host -/

/-- Every tier unit but the carve is in partition 0's pool, and no Yard unit is granted; one page of the pool stands on frame 0x40000000. -/
def devP : Dev :=
  { dev with
    img := { dev.img with st := ⟨[[], [], [], List.replicate 0x990 0x20], 0, 0⟩ }
    mem := { dev.mem with dram := word8 0x1000 0x2001 ++ word8 0x2038 0x3001 ++ word8 0x3000 0x4001 ++ word8 0x4000 0x400002E3 } }

theorem pool_region_free : devP.regionBound 1 = false := by decide +kernel

theorem met_roles :
    let role : Word := BitVec.ofNat 64 (2 ^ 63 + 6)
    let brick : Word := BitVec.ofNat 64 (2 ^ 63 + 2 ^ 38 + 2 * 256)
    let region : Word := BitVec.ofNat 64 (2 ^ 63 + 2 * 2 ^ 38 + 2 ^ 24 + 2 * 256)
    let r : TngReq := ⟨false, false, 0, 0, 0, 6⟩
    let b : TngReq := ⟨false, false, 1, 0, 2, 0⟩
    let m : TngReq := ⟨false, false, 2, 1, 2, 0⟩
    let idle (d : Dev) (role p : Nat) : Dev := { d with tongs := { d.tongs with bricks := [(0, { Brick.off with pstate := p, role := role })] } }
    let asks (d : Dev) (q : TngReq) : Dev := { d with tongs := { d.tongs with req := { q with go := true } } }
    (dev.answers = true ∧ dev.tongs.req.go = false ∧ role.getLsbD 63 = true ∧ brick.getLsbD 63 = true ∧ region.getLsbD 63 = true ∧ dev.reqBad r = true ∧
        dev.reqBad { r with role := 4 } = false ∧ (dev.brick 0).role ≠ 4 ∧ (idle dev 0 0).reqBad b = false ∧ reqDom b = some (.brick 0) ∧ reqDom m = some (.region 1)) ∧
      (let d := asks dev { r with role := 4 }
       d.live = true ∧ d.logical 0 = some 0 ∧ (BitVec.ofNat 3 4).toNat = 4 ∧ (d.brick 0).roleAt = none ∧ (d.brick 0).role ≠ 3) ∧
      (let d := { asks dev { r with role := 4 } with tongs := { (asks dev { r with role := 4 }).tongs with bricks := [(0, { Brick.off with roleAt := some 0 })] } }
       d.logical 0 = some 0 ∧ (d.brick 0).roleAt = some 0 ∧ d.now < 0 + 20000) ∧
      ((dev.serving 0).active = 0 ∧ ({ dev with tng := [(0, { Tng.reset with active := 1 })] } : Dev).answers = true) ∧
      (let w (c : Nat) : Dev := { dev with img := { dev.img with st := ⟨[[], [], (List.range 0x100).map fun i => if i = 0x48 then 1 else 0], 0, 0⟩ }, tng := [(0, { Tng.reset with winSteps := 1, cool := c })] }
       dev.st.win 0 = 0 ∧ (w 0).live = true ∧ (w 0).st.win 0 ≠ 0 ∧ (w 0).st.win 0 ≤ ((w 0).serving 0).winSteps ∧ ((w 0).serving 0).run = none ∧ ((w 1).serving 0).cool ≠ 0 ∧ (w 1).st.win 0 = 1) := by
  repeat' first | decide +kernel | constructor

theorem met_domains :
    let b (role p kind want : Nat) : Dev :=
      { dev with tongs := { dev.tongs with bricks := [(0, { Brick.off with pstate := p, role := role })], req := ⟨decide (kind ≠ 0), false, kind, 0, want, 0⟩ } }
    let m (p want : Nat) : Dev := { devP with parts := [], tongs := { devP.tongs with regions := [(1, ⟨p, 0⟩)], req := ⟨true, false, 2, 1, want, 0⟩ } }
    (let d := b 0 0 1 2; d.live = true ∧ d.logical 0 = some 0 ∧ d.brickIn 0 = true ∧ d.loadOf 0 = 0 ∧ (d.brick 0).role = 0 ∧ d.pstate (.brick 0) = 0 ∧ d.tongs.req.go = true ∧
        reqDom d.tongs.req = some (.brick 0)) ∧
      (let d := m 0 3; d.live = true ∧ d.pstate (.region 1) = 0 ∧ d.regionBound 1 = devP.regionBound 1 ∧ d.regionEmpty 1 = true ∧ reqDom d.tongs.req = some (.region 1)) ∧
      ((b 0 1 1 2).pstate (.brick 0) = 1 ∧ (m 1 3).pstate (.region 1) = 1) ∧ ((b 0 2 1 3).pstate (.brick 0) = 2 ∧ (b 0 2 1 3).tongs.req.pstate = 3 ∧ (m 2 3).pstate (.region 1) = 2) ∧
      ((b 6 3 0 0).pstate (.brick 0) = 3 ∧ ((b 6 3 0 0).brick 0).role ≠ 0 ∧ (b 6 3 0 0).noneHeld ∧ (b 7 3 0 0).noneHeld ∧ ((b 7 3 0 0).brick 0).role = 7 ∧ (m 3 0).pstate (.region 1) = 3 ∧
        (m 3 0).tongs.req.go = true) := by
  repeat' first | exact rfl | decide +kernel | constructor

theorem met_region_request : devP.reqBad ⟨false, false, 2, 1, 2, 0⟩ = false := by simp [Dev.reqBad, pool_region_free]; decide +kernel

theorem met_heat_and_moves :
    let t : Tng := { srv with billets := [⟨0, 0, 0, 2, 0x40000000, 40⟩, ⟨1, 0, 0, 1, 0x80000000000, 4⟩] }
    let x : Billet := ⟨0, 0, 0, 2, 0x40000000, 40⟩
    let y : Billet := ⟨1, 0, 0, 1, 0x80000000000, 4⟩
    let d := { dev with tng := [(0, t)] }
    let z := { devP with tng := [(0, t)], tongs := { devP.tongs with req := ⟨true, false, 2, 0, 2, 0⟩ } }
    let p : PoolPage := ⟨0x38000000000, 0x4000, 0x400002E3, 0x40000000⟩
    let u := { devP with tongs := z.tongs }
    ((d.serving 0).billets[0]? = some x ∧ (d.part 0).snap = none ∧ t.busy x = false ∧ 1 < x.level ∧ t.coldest 1 = some y ∧ y.heat + 32 ≤ x.heat ∧ t.spanFits x 1 y.loc = true) ∧
      ((z.serving 0).billets[0]? = some x ∧ z.mustLeave x = true ∧ d.mustLeave x = false) ∧
      (u.poolPage 0 0x38000000000 = some p ∧ devP.live = true ∧ u.inPool (some 0) 0x10000000000 = true ∧ u.grant 0 0x10000000000 (2 ^ 21) = true ∧ (0x10000000000 : Nat) % 2 ^ 21 = 0 ∧
        u.regionLeaving (unitRegion (unitOf 0x10000000000)) = false ∧ u.frameBusy 0 0x40000000 = false ∧ u.lit 0x40000000 = true ∧ u.lit 0x10000000000 = true ∧
        u.bad 0x40000000 (2 ^ 21) = none ∧ u.pageOn 0 0x10000000000 = none ∧ Dev.spaceFree Tng.reset [] 0x10000000000 (2 ^ 21) = true ∧
        u.regionLeaving (unitRegion (unitOf 0x40000000)) = true) ∧
      dev.poolPage 0 0 = none := by
  repeat' first | decide +kernel | constructor

theorem met_withdrawals :
    inService dev (.tile tile0) = true ∧ dev.start.stage = .ready ∧ inService dev (.anvil 0) = true ∧ inService dev (.brick 0) = true ∧ effUnit dev (.quarter 0) = .brick 0 ∧
      inService dev (.anvil 1) = false ∧ dev.siteIn (false, 0) = true ∧ inService (Dev.reset) (.tile tile0) = false := by decide +kernel

theorem met_partitions :
    let st (n : Nat) : Dev := { dev with parts := [(0, { Part.absent with st := n, faulted := decide (n = 1) })] }
    let go : Word := BitVec.ofNat 64 (2 ^ 63)
    (dev.answers = true ∧ ((st 1).part 0).st = 1 ∧ ((st 0).part 0).st = 0 ∧ ((st 1).part 0).faulted = true ∧ ((st 3).part 0).faulted = false) ∧
      (let d := st 2; (d.part 0).st = 2 ∧ d.live = true ∧ d.bell.failedAt = none ∧ d.img.pstate ≠ 2 ∧ d.fab.jgo = false ∧ d.cmds = [] ∧ d.wins = []) ∧
      (go.getLsbD 63 = true ∧ dev.coreIn 0 = true ∧ dev.coreOwner 0 = 0 ∧ (dev.core 0).run = false ∧ (dev.core 0).cpl = 2 ∧ ((devA 1).core 0).run = true) := by
  repeat' first | decide +kernel | constructor

theorem met_host_accesses :
    let big := { dev with start := { dev.start with bar2log := 36 } }
    let a (w : Bool) := Dev.accRange 0 w ⟨none, some 0⟩ (pieces 0x40002000 8) big
    let at_ : Dev := { big with parts := [(0, { (dev.part 0) with x := { (dev.part 0).x with go := true, tlb := [(3, 5)] } })] }
    (dev.live = true ∧ dev.start.perstRel = true ∧ dev.carve[0]? = some 0 ∧ dev.siteIn (unitSite 0) = true ∧ dev.badIn [(.loc 0, 8)] = none ∧ dev.carve[1]? = none) ∧
      ((big.part 0).st ≠ 0 ∧ 0x40002000 < 2 ^ big.start.bar2log ∧ (big.part 0).x.bar2va = 0 ∧ okOr (a false).2 = [(.loc 0x40002000, 8)] ∧ isOk (a true).2 = true ∧
        touchesCredit [(.loc 0x40002000, 8)] = false ∧ (a false).1.badIn [(.loc 0x40002000, 8)] = none ∧ (a true).1.refusedBy [(.loc 0x40002000, 8)] = none ∧
        (a true).1.badEdges [(.loc 0x40002000, 8)] = none ∧ 2 ^ dev.start.bar2log ≤ 0x40002000) ∧
      isOk (Dev.accRange 0 false ⟨none, some 0⟩ (pieces 0x8000000000 8) big).2 = false ∧
      ((at_.part 0).x.go = true ∧ (at_.part 0).x.goRows = [] ∧ (at_.part 0).x.goTids = [] ∧ at_.live = true ∧ (big.part 0).x.go = false) := by
  repeat' first | decide +kernel | constructor
/-! ### Statements about credit windows, the Hearth, the management port and power -/

def win0 : Win := { Win.off with en := true, len := 2 }
def tw : WinRef := .tile tile0 4
def store0 : Nat := storeAddr 0 0
/-- A MOVE of one row of 8 bytes by credited write through counter 4 of tile 0, its bytes read. -/
def cCred : Cmd :=
  { run (cmdOf 2 [(0x30, 7 * 2 ^ 48 + 2 ^ 46 + 4 * 2 ^ 43)]) with move := { MoveRun.init with next := 1, bufs := [⟨0, store0, [(.loc store0, 8)], 0, List.replicate 8 1, none, true, false⟩] } }
def devW (w : Win) : Dev := { devK [cCred] with wins := [(4, w)] }

theorem met_window_sound : win0.sound (winRoom 4) := ⟨rfl, by decide, by decide, fun _ => by decide +kernel, fun _ h => by cases h⟩

theorem met_credit_windows :
    let x : CReq := ⟨.cmd cmd0 0, 8, List.replicate 8 1, 0, false⟩
    let cfg : Word := BitVec.ofNat 64 (2 ^ 63 + 2 ^ 16)
    let g := devW { win0 with granted := [x], taken := 1, outst := 1 }
    ((devW win0).cmd cmd0 = some cCred ∧ cCred.dkind = true ∧ (cCred.move.bufs.find? fun b => !b.asked).isSome = true ∧ place store0 = .store 0 0 0 ∧ tileWin (tKey 0 0) (cCred.f 0x30 45 43) = 4 ∧
        (devW win0).live = true ∧ granules cCred.rowLen ≤ win0.len ∧ (devK [cCred]).win 4 = { (devK [cCred]).win 4 with en := false }) ∧
      (((devW { win0 with queue := [x] }).win tw.key).queue = [x] ∧ granules x.bytes ≤ win0.len - win0.taken ∧ ((devK []).win tw.key).granted = []) ∧
      ((g.win tw.key).granted = [x] ∧ x.bytes ≤ x.data.length ∧ (rowNeeds 4 (g.win 4) x).map (·.2) = [1] ∧ g.lit (winAddr 4) = true ∧ g.landEdge 4 (g.win 4) x = none ∧
        g.ingrDemand 0 (g.sender (.cmd cmd0 0)) = 1 ∧ g.sender (.cmd cmd0 0) < 65536) ∧
      (dev.answers = true ∧ cfg.getLsbD 63 = true ∧ 0 + 1 ≤ winRoom 4 ∧ winRoom 4 < 0 + 65535) := by
  repeat' first | decide +kernel | constructor

theorem met_hearth_and_scrub :
    (dev.answers = true ∧ ({ dev with mem := { dev.mem with flush := true } } : Dev).live = true ∧ dev.mem.flush = false) ∧
      (dev.live = true ∧ dev.siteIn (false, 0) = true ∧ dev.siteIn (true, 0) = true ∧ dev.siteIn (true, 1) = false ∧ place (64 * 16) = .ftier 0 ∧ place 0x10000000000 = .dtier 0) := by
  repeat' first | decide +kernel | constructor

def hdr : BmpHdr := ⟨5, 1, 7⟩
theorem met_heard : dev.heard hdr true ∧ dev.heard hdr false :=
  ⟨⟨by decide +kernel, .inl rfl, fun _ he => (List.not_mem_nil he).elim, rfl⟩, ⟨by decide +kernel, .inr (by decide +kernel), fun _ he => (List.not_mem_nil he).elim, rfl⟩⟩

theorem met_caps_and_telemetry :
    let seen := { dev with bell := { dev.bell with seen := [(5, 7, 0, .tap 0)] } }
    let held := { dev with pwr := { dev.pwr with q := 2, qcause := 2, rails := true } }
    let four := { dev with bell := { dev.bell with subs := [(1, 5, 5), (2, 5, 5), (3, 5, 5), (4, 5, 5)] } }
    (seen.bell.seen.find? (fun e => e.1 = hdr.src && e.2.1 == hdr.seq.toNat && decide (seen.now < e.2.2.1 + 1000000000)) = some (5, 7, 0, .tap 0)) ∧
      (dev.start.stage ≠ .off ∧ dev.pwr.osc = false ∧ ({ hdr with ver := 2 } : BmpHdr).ver ≠ 1 ∧ dev.bell.seen = []) ∧
      (dev.pwr.q = 0 ∧ dev.start.stage = .ready ∧ dev.pwr.rails = false ∧ ({ dev with pwr := { dev.pwr with rails := true } } : Dev).pwr.q = 0) ∧
      (held.pwr.hold = none ∧ held.pwr.q = 2 ∧ held.causeClear = true) ∧ (dev.bell.subs.length < 4 ∧ 4 ≤ (four.bell.subs.filter fun s => s.1 ≠ (5 : BitVec 144)).length) ∧
      (four.bell.subs[0]? = some (1, 5, 5) ∧ four.bellowsUp = true ∧ dev.bell.subs[0]? = none) := by
  repeat' first | decide +kernel | constructor

theorem met_slots : dev.st.mgmtSpdm = false ∧ dev.pkg.level < 2 ∧ dev.flash.primary = false ∧ dev.siteIn (true, 1) = false ∧ dev.siteIn (true, 0) = true ∧
    (siteUnits (true, 0)).any (fun u => decide (dev.town u ≠ 0xFF)) = true ∧
    (let n := { dev with img := { dev.img with st := ⟨[[], [], [], List.replicate 0x990 0xFF], 0, 0⟩ } }; (siteUnits (true, 0)).all (fun u => decide (n.town u = 0xFF)) = true) ∧
    2 ≤ ({ dev with pkg := { dev.pkg with level := 2 } } : Dev).pkg.level := by
  repeat' first | decide +kernel | constructor

theorem firmware_copy_found : dev.pickFw.isSome = true := by
  have h0 : dev.flash.fw0 = [] := rfl
  have h1 : dev.flash.fw1 = [] := rfl
  simp [Dev.pickFw, fwVerifies, h0, h1]

theorem met_partial_images :
    let img (f : Img → Img) : Dev := { dev with img := f dev.img, parts := [(0, { Part.absent with st := 1 })] }
    let up := img fun i => { i with pstate := 1 }
    let err := img fun i => { i with pstate := 1, pcheck := some ⟨1, 2, 3⟩ }
    let ap := img fun i => { i with pstate := 2, next := some ⟨[], 1, 0⟩ }
    let old := { dev with bell := { dev.bell with failedAt := some 0 }, now := 10000000000 }
    (dev.answers = true ∧ dev.img.pstate = 0 ∧ dev.img.plen < 68 ∧ dev.inCarve 0x100000 100 = true) ∧ (up.live = true ∧ up.bell.failedAt = none ∧ up.img.pcheck = none ∧ (up.part 0).st = 1) ∧
      (err.img.pcheck = some ⟨1, 2, 3⟩) ∧ (ap.img.next = some ⟨[], 1, 0⟩ ∧ (ap.partialRoles ⟨[], 1, 0⟩ 0).all (fun e => ap.roleReady e.1) = true ∧ ap.img.pstate = 2) ∧
      (dev.pkg.failed = false ∧ dev.start.stage = .ready ∧ dev.fab.jgo = false ∧ (up.part 1).st = 0 ∧ up.st.jobtag 0 = 0) ∧ (old.bell.failedAt = some 0 ∧ old.cmds = [] ∧ 0 + 10000000000 ≤ old.now) := by
  repeat' first | decide +kernel | constructor

/-- The package with its rails up, at a step of its operating points. -/
def devY (f : Pwr → Pwr) : Dev := { dev with pwr := f { dev.pwr with rails := true } }
theorem met_power :
    (let d := devY fun p => { p with cap := 50 }
     d.pwr.rails = true ∧ d.pwr.q = 0 ∧ d.pwr.step < clampStep d.var 50 ∧ d.pwr.step < 34 ∧ 50 * d.var.design < 100 * d.var.design) ∧
      (let d := devY fun p => { p with vset := 550, duty := 15 }; 34 ≤ d.pwr.step ∧ 0 < d.pwr.step) := by
  repeat' first | decide +kernel | constructor

/-- A full image of an LK-9600 without partitions, written out from Tables 9.2, 9.11 and 9.13, but for its CRC: header, PARTITIONS, MEMORY with unit 0 as the table carve. -/
def imgBody : List Byte :=
  bytesOf 4 0x524C4541 ++ bytesOf 2 1 ++ [0, 0] ++ bytesOf 4 0x9600 ++ bytesOf 4 3844 ++ bytesOf 4 2 ++ bytesOf 4 9 ++ List.replicate 40 0 ++
    bytesOf 4 2 ++ bytesOf 4 1312 ++ List.replicate 1024 0 ++ List.replicate 288 0xFF ++
    bytesOf 4 4 ++ bytesOf 4 2448 ++ List.replicate 144 0 ++ List.replicate 256 0xFF ++ [0x40] ++ List.replicate 2047 0xFF
def imgRaw : List Byte := imgBody ++ bytesOf 4 (crc32c imgBody)

set_option maxRecDepth 100000 in
theorem image_passes : (match checkImage dev.fullCtx (2 ^ 24) none imgRaw with | .ok _ => true | .error _ => false) = true := by decide +kernel

theorem bytes_take (m : SMap Byte) (k n a : Nat) (h : k ≤ n) : SMap.bytes 0xFF m a k = (SMap.bytes 0xFF m a n).take k := by
  induction k generalizing n a with
  | zero => simp [SMap.bytes]
  | succ k ih =>
    obtain ⟨n, rfl⟩ : ∃ x, n = x + 1 := ⟨n - 1, by omega⟩
    simp only [SMap.bytes, List.take_succ_cons]
    rw [ih n (a + 1) (by omega)]

/-- A slot filled from its first byte holds the image that its LEN field measures. -/
theorem slot_of_image (raw : List Byte) (h : 64 ≤ raw.length) (hn : bfld (raw.take 64) 0xC 31 0 = raw.length) (hs : raw.length ≤ 2 ^ 24) :
    slotRaw (SMap.putBytes 0xFF [] 0 raw) = raw := by
  have hb := SMap.bytes_putBytes 0xFF [] 0 raw
  unfold slotRaw
  dsimp only
  rw [bytes_take _ 64 raw.length 0 h, hb, hn, if_pos hs, Nat.max_eq_left h, hb]

/-- A slot whose image passes the checks verifies. -/
theorem slot_verifies (d : Dev) (raw : List Byte) (hs : slotRaw (SMap.putBytes 0xFF [] 0 raw) = raw)
    (h : (match checkImage d.fullCtx (2 ^ 24) none raw with | .ok _ => true | .error _ => false) = true) :
    ∃ r, ({ d with flash := { d.flash with slotB := SMap.putBytes 0xFF [] 0 raw } } : Dev).checkSlot true = .ok r := by
  show ∃ r, (checkImage d.fullCtx (2 ^ 24) none (slotRaw (SMap.putBytes 0xFF [] 0 raw))).map (·.1) = .ok r
  rw [hs]
  cases hc : checkImage d.fullCtx (2 ^ 24) none raw with
  | ok r => exact ⟨r.1, rfl⟩
  | error e => rw [hc] at h; cases h

/-- Slots that verify and slots that do not. -/
theorem met_boot_slots :
    (∃ r, ({ dev with flash := { dev.flash with slotB := SMap.putBytes 0xFF [] 0 imgRaw } } : Dev).checkSlot true = .ok r) ∧ (∃ r, dev.checkSlot true = .error r) :=
  ⟨slot_verifies dev imgRaw (slot_of_image imgRaw (by decide +kernel) (by decide +kernel) (by decide +kernel)) image_passes, ⟨_, rfl⟩⟩
/-! ### Statements about heat, pins, start-up, the fabric and debugging -/

def devR : Dev := devY id
theorem met_heat_and_failures :
    let dark := { dev with start := { dev.start with stage := .test }, pwr := { dev.pwr with rails := true } }
    let h := { devR with pwr := { devR.pwr with q := 2, hold := some 0 } }
    (devR.pwr.rails = true ∧ devR.pwr.q = 0 ∧ devR.start.stage = .ready ∧ devR.pwr.ttarget = none) ∧ (dark.pwr.rails = true ∧ dark.start.stage ≠ .ready ∧ dark.start.stage ≠ .warm ∧ dev.pwr.rails = false) ∧
      (({ dev with start := { dev.start with stage := .loaded } } : Dev).start.tap ≠ 0) ∧ (h.pwr.hold = some 0 ∧ 0 ≤ h.now) ∧
      (devR.pwr.conv.testBit 0 = false ∧ popc 16 (setBit devR.pwr.conv 0) < 3 ∧ 3 ≤ popc 16 (setBit 3 2) ∧ devR.logical 0 = some 0 ∧ devR.phys 0 = some 0 ∧ devR.un.brick.testBit 0 = true ∧
        devR.qtrIn 1 = true) := by
  repeat' first | decide +kernel | constructor

theorem met_pins :
    dev.start.stage = .ready ∧ Dev.reset.start.stage = .off ∧ dev.start.perstRel = true ∧ 1000 * dev.st.lossms ≤ dev.start.downUs + 100 ∧
      (let d := { dev with img := { dev.img with st := ⟨[[], [], [], [], [], [], [0, 0, 1]], 0, 0⟩ } }; d.start.downUs + 100 < 1000 * d.st.lossms) ∧
      (let d := { dev with start := { dev.start with stage := .keys } }; d.pkg.cause ≠ 6) ∧ devR.pwr.rails = true := by
  repeat' first | decide +kernel | constructor

theorem met_start_up :
    let at_ (s : Stage) : Dev := { dev with start := { dev.start with stage := s } }
    ((at_ .aon).start.pwrGood = true ∧ (at_ .aon).start.rstRel = true ∧ (at_ .aon).start.vin = true ∧ (at_ .aon).quenchOver = true ∧ (at_ .aon).start.coolant = true ∧ (at_ .aon).start.tap = 0xFE) ∧
      ((at_ .test).pwr.q = 0 ∧ (unitsAfter { at_ .test with img := { dev.img with st := ⟨[1 :: List.replicate 100 0], 0, 0⟩ } } []).lb ≠ [] ∧ TestFail.mortar ∉ ([] : List TestFail)) ∧ (at_ .memory).start.stage = .memory ∧
      ((at_ .fabric).fab.links = [] ∧ (at_ .fabric).keys = [] ∧ ({ at_ .fabric with parts := [] } : Dev).pkg.cause ≠ 6) := by
  repeat' first | decide +kernel | constructor

/-- A packet of a kind of job 7 from package 1 to this one, in its turn; partition 0 is of job 7. -/
def pkt (kind : Nat) (addr opinfo : Nat) (data : List Byte) : Packet := ⟨0, 1, 7, BitVec.ofNat 6 kind, 0, 0, 0, 0, BitVec.ofNat 48 addr, BitVec.ofNat 64 opinfo, data⟩
def devF (w : List Await) : Dev := { dev with img := { dev.img with st := ⟨[[], [0, 0, 0, 0, 7, 0]], 0, 0⟩ }, fab := { dev.fab with waits := w } }
def turn (k : Nat) (d : Dev) (p : Packet) : Prop :=
  d.fabUp = true ∧ p.kind.toNat = k ∧ p.dst.toNat = d.fab.pkgid ∧ d.fab.gone.contains p.src.toNat = false ∧ p.sseq.toNat = SMap.get 0 d.fab.sin (streamKey p) ∧ d.fab.ingress = [] ∧ d.fab.held = []

theorem met_packets :
    let d := devF []
    let a := 0x40002000
    let old : Dev := { d with fab := { d.fab with sin := [(1, 1)] } }
    let x : BCtx := { ((cmdOf 0x30 [(0x28, 2 ^ 62 + 2 ^ 32 + 2 ^ 16)]).arrival 7).open_ 0 with cmds := [cmd0], got := 1 }
    (turn 1 d (pkt 1 a 8 []) ∧ d.remoteOwner (pkt 1 a 8 []) a 8 = some 0 ∧ d.lit a = true ∧ touchesCredit [(.loc a, 8)] = false ∧ d.bad a 8 = none ∧ d.remoteOwner (pkt 1 0 8 []) 0 8 = none) ∧
      (turn 2 d (pkt 2 a 0 [1]) ∧ (pkt 2 a 0 [1]).opinfo.getLsbD 63 = false ∧ d.remoteOwner (pkt 2 a 0 [1]) a 1 = some 0 ∧ d.copying 0 = false ∧ d.winCovers a 1 = none ∧ d.badEdge a 1 = none) ∧
      (turn 3 d (pkt 3 a 5 [0, 3]) ∧ d.remoteOwner (pkt 3 a 5 [0, 3]) a 8 = some 0 ∧ inCreditBlock a 8 = false ∧ d.winCovers a 8 = none) ∧
      (turn 5 d (pkt 5 store0 (2 ^ 32) []) ∧ d.remoteOwner (pkt 5 store0 (2 ^ 32) []) store0 1 = some 0 ∧ (d.win (tileWin (tKey 0 0) 0)).en = true) ∧
      (turn 4 (devF [⟨0, 1, .rowWrite cmd0 0⟩]) (pkt 4 0 0 []) ∧ (devF [⟨0, 1, .rowWrite cmd0 0⟩]).fab.waits.find? (fun y => y.tid == 0 && y.pkg == 1) = some ⟨0, 1, .rowWrite cmd0 0⟩) ∧
      (turn 6 (devF [⟨0, 1, .credit cmd0 0⟩]) (pkt 6 0 0 [])) ∧ turn 8 d (pkt 8 0 0 []) ∧ turn 9 d (pkt 9 0 0 [0, 0]) ∧ turn 10 d (pkt 10 0 0 []) ∧
      ({ d with fab := { d.fab with ctxs := [x] } } : Dev).ctxAt 0 7 0 0 = some x ∧ x.blen = 0 ∧
      32768 ≤ ((pkt 1 a 8 []).sseq.toNat + 65536 - SMap.get 0 old.fab.sin (streamKey (pkt 1 a 8 []))) % 65536 := by
  repeat' first | decide +kernel | constructor

def lref : LinkRef := ⟨0, 1, 0⟩
def link (up : Bool) : Link := ⟨lref, up, 0, 0, [], 0, 0, [], [], [], []⟩
def devL (up : Bool) : Dev :=
  { devF [] with un := { dev.un with port := 1 }, fab := { (devF []).fab with links := [link up], lanes := [(0, { Lane.off with ppkg := 1, up := up })] } }

theorem met_links :
    let d := devL true
    (d.link lref = some (link true) ∧ d.fabUp = true ∧ (!flitOk [1] && decide (bfld (mkFlit 5 0 0 []) 0 63 50 ≠ (link true).rx)) = true ∧ (devL false).link lref = some (link false) ∧
        (devL false).portIn 0 = true ∧ (devL false).fab.noid = false ∧ sameChassis 1 (devL false).fab.pkgid = true) ∧
      ((d.laneAt 0 0).up = true ∧ d.lanesOf lref = [0] ∧ (d.laneAt 0 1).up = false) ∧ (turn 16 (devF []) (pkt 16 0 2 []) ∧ turn 17 (devF []) (pkt 17 0 1 []) ∧ (devF []).fab.pkgid ≠ 1) ∧
      ((devL false).live = true ∧ ((devL false).fab.links.filter fun l => l.ref.ppkg.toNat == 1 && !(devL false).linkIsSwitch l.ref) = [link false]) ∧
      (turn 18 (devF []) (pkt 18 0 1 []) ∧ (devF []).st.jobtag 0 = 7 ∧ ((devF []).part 0).st = 1 ∧ (devF []).answers = true ∧ (devF []).fab.jgo = false) ∧ turn 19 (devF []) (pkt 19 0 0 []) := by
  repeat' first | decide +kernel | constructor

theorem met_flits : (pkt 2 0x40002000 0 [1]).data.length ≤ 208 ∧ (devL true).fabUp = true ∧ (devL true).link lref = some (link true) ∧ (link true).part = [] ∧ (link true).rx < 2 ^ 14 := by
  repeat' first | decide +kernel | constructor

theorem met_exceptions :
    (devA 1).executes anvil 4 [] ∧ (intReg 0x7FF 0 0 0).isSome = false ∧ pl1Reg 0x0FF = false ∧ ((devA 0).core 0).cpl = 0 ∧ (devA 0).executes anvil 4 [] ∧ pl1Reg 0 = true ∧ pl0Reg 0 = false ∧
      ((((devA 1).core 0).rx 0 + (1 : BitVec 11).signExtend 64).toNat % 2 ^ 3 ≠ 0) ∧ devS.agentReady smith = true ∧ devS.fetchStop smith 4 = none ∧ devS.reservedReg smith [0, 0] = false ∧
      devS.unitsOpen smith = false ∧ (devS.reg smith 0 false 0 + (1 : BitVec 11).signExtend 64).toNat % 2 ^ 3 ≠ 0 ∧ 0x80000 ≤ (devS.reg smith 0 false 0 + (0x400 : BitVec 11).signExtend 64).toNat := by
  repeat' first | decide +kernel | constructor

theorem met_debug :
    let on_ := BitVec.ofNat 64 (2 ^ 63)
    let d (g : Dbg → Dbg) : Dev := { dev with img := { dev.img with st := ⟨[[], [], [], [], [], [], [], [0, 0, 0, 0, 0, 0, 0, 0, 1]], 0, 0⟩ }, parts := [(0, { Part.absent with st := 1, d := g .reset })] }
    let q := { d (fun g => { g with hangms := 1 }) with cmds := [cKernel] }
    (dev.answers = true ∧ on_.getLsbD 63 = true ∧ dev.st.traceen 0 = false ∧ (d id).st.traceen 0 = true ∧
        (let g := ((d fun g => { g with trlen := 64 }).part 0).d; 0 < g.trlen ∧ g.trbase + g.trlen ≤ 2 ^ 20 ∧ ∀ o < 64, (d id).st.yown ((g.trbase + o) / 4096) = 0) ∧ (d id).tiles = [] ∧
        ∀ c ∈ (d id).coresOf 0, ((d id).core c).run = false) ∧
      (((d id).part 0).d.hgo = false ∧ ((d id).part 0).d.cap = none ∧ (d id).pkg.level < 3) ∧
      (q.live = true ∧ (q.part 0).d.hangms ≠ 0 ∧ cKernel.part = 0 ∧ cKernel.open_ = true ∧ q.now < (q.part 0).d.last + 1000000) ∧
      (((d fun g => { g with cap := some (0, false, []) }).part 0).d.cap.isSome = true ∧ (d id).bell.failedAt = none) := by
  repeat' first | decide +kernel | constructor

theorem met_register_accesses : dev.answers = true ∧ dev.pkg.err.testBit 0 = false ∧ dev.pkg.err < 2 ^ 7 ∧ dev.pkg.intEn < 2 ^ 8 ∧ (dev.part 0).st ≠ 0 ∧ (0x100000 : BitVec 26).toNat % 8 = 0 := by
  repeat' first | decide +kernel | constructor

theorem met_steps_in_order : step ⟨dev, [.flr 0]⟩ = exec (.flr 0) ⟨dev, []⟩ ∧ step ⟨dev, []⟩ = .next ⟨{ dev with now := 1 }, []⟩ := ⟨rfl, rfl⟩
/-! ### Ill-formed commands, one for each check -/

theorem wf_refuses_bounds :
    Instr.wf (.bar2Access 0 0 (some []) 0) = false ∧ Instr.wf (.bar2Access 0 0 none 0) = false ∧ Instr.wf (.scrub false 24 0 .clean) = false ∧
      Instr.wf (.ingressCreditGrant 128 0 1) = false ∧ Instr.wf (.ingressCreditGrant 0 0 0) = false ∧ Instr.wf (.ingressCreditGrant 0 0 17) = false ∧
      Instr.wf (.siteWithdrawal false 39) = false ∧ Instr.wf (.loopback hdr false 24 true) = false ∧ Instr.wf (.memoryTrainingComplete [(false, 24)]) = false ∧
      Instr.wf (.telSub hdr 1001 0) = false ∧ Instr.wf (.slotWrite hdr .a 0 (List.replicate 1025 0)) = false ∧ Instr.wf (.slotRead hdr .a 0 1025) = false ∧
      Instr.wf (.partialMsg hdr 0 (List.replicate 1025 0) true) = false ∧ Instr.wf (.fwWrite hdr 0 (List.replicate 1025 0)) = false ∧
      Instr.wf (.spdm hdr (List.replicate 1201 0)) = false ∧ Instr.wf (.inputOutOfRange 48000 1) = false ∧ Instr.wf (.flitReceive lref []) = false ∧
      Instr.wf (.vfBar2SizeWrite 20 false) = false ∧ Instr.wf (.vfBar2SizeWrite 37 false) = false := by decide +kernel

theorem wf_refuses_packets :
    let p := pkt 0x3F 0 0 []
    [Instr.readPkt p, .writePkt p, .amoPacket p, .respPkt p, .credreq p, .credgnt p, .barArrive p, .barRelease p, .bcast p, .timePkt p, .depart p, .jobreset p, .route p].all (fun c => !c.wf) = true ∧
      Instr.wf (.readPkt (pkt 1 0 0 (List.replicate 257 0))) = false ∧ Instr.wf (.respPkt (pkt 4 0 0 [])) = false := by decide +kernel

theorem wf_takes_the_limits :
    Instr.wf (.scrub true 39 0 .clean) = true ∧ Instr.wf (.ingressCreditGrant 127 0 16) = true ∧ Instr.wf (.telSub hdr 0 0) = true ∧ Instr.wf (.telSub hdr 1000 0) = true ∧
      Instr.wf (.inputOutOfRange 39999 1) = true ∧ Instr.wf (.readPkt (pkt 1 0 0 (List.replicate 256 0))) = true ∧ Instr.wf (.respPkt { pkt 4 0 0 [] with vc := 1 }) = true ∧
      Instr.wf (.vfBar2SizeWrite 21 false) = true ∧ Instr.wf (.vfBar2SizeWrite 36 false) = true := by decide +kernel

/-! ### One step each, with results from the spec's own tables and worked examples -/

/-- The package after a command; a stop leaves it as it was. -/
def after (c : Instr) (d : Dev) : Dev := match exec c ⟨d, []⟩ with | .next s => s.dev | _ => d
/-- Anvil core 0 with values in x2 and x3. -/
def devX (u v : Word) : Dev := { devA 1 with cores := [(0, { (devA 1).core 0 with x := [(2, u), (3, v)] })] }
def x4 (c : Instr) (d : Dev) : Word := ((after c d).core 0).rx 4

/-- R165: overflow wraps. -/
theorem test_add_wraps : x4 (.intRegOp anvil 4 2 3 0x00) (devX (BitVec.allOnes 64) 1) = 0 := by decide +kernel
/-- Table 5.5, W = 1: the 32-bit result is sign-extended. -/
theorem test_addw_extends : x4 (.intRegOp anvil 4 2 3 0x400) (devX 0x7FFFFFFF 1) = 0xFFFFFFFF80000000 := by decide +kernel
/-- R165: DIV by 0 gives 0, REM by 0 the dividend; the most negative value over −1 gives itself and remainder 0. -/
theorem test_division_corners :
    x4 (.intRegOp anvil 4 2 3 0x0D) (devX 7 0) = 0 ∧ x4 (.intRegOp anvil 4 2 3 0x0F) (devX 7 0) = 7 ∧
      x4 (.intRegOp anvil 4 2 3 0x0D) (devX 0x8000000000000000 (BitVec.allOnes 64)) = 0x8000000000000000 ∧
      x4 (.intRegOp anvil 4 2 3 0x0F) (devX 0x8000000000000000 (BitVec.allOnes 64)) = 0 := by decide +kernel
/-- R165: a shift amount is not masked. -/
theorem test_shifts_past_the_width :
    x4 (.intRegOp anvil 4 2 3 0x05) (devX 1 64) = 0 ∧ x4 (.intRegOp anvil 4 2 3 0x07) (devX 0x8000000000000000 (2 ^ 40)) = BitVec.allOnes 64 := by decide +kernel
/-- Table 5.6, R166: 1.5 + 2.25 = 3.75 in F32, as fractions of powers of two. -/
theorem test_fadd_f32 :
    ((after (.fop anvil 1 2 3 0) { devA 1 with cores := [(0, { (devA 1).core 0 with f := [(2, 0x3FC00000), (3, 0x40100000)] })] }).core 0).rf 1 = 0x40700000 := by decide +kernel
/-- R178, R179: TRET at PL0 traps with cause PRIV to the vector at PL1. -/
theorem test_tret_at_pl0 : let c := (after (.tret anvil 0 0 0) (devA 0)).core 0; c.cpl = 1 ∧ c.cause = 1 ∧ c.epc = 0x8040000100 ∧ c.pc = 0x40000200 := by decide +kernel
/-- Chapter 05's example: an apart-mode F16 pass over 256 vectors on all four courses is 0x551E_08FF_0000_0000. -/
theorem test_course_word : courseEncode 5 5 0 0xF 0 0 0 1 255 0 0 0 = 0x551E08FF00000000 := by decide +kernel
/-- R152's example: MPUSH, MAND m1 and MELSE m1 on the threads below 20. -/
def grpM (m0 : Word) (st : List (Word × Word)) : Dev :=
  { dev with tiles := [(0, { tileS with groups := setV (.replicate 8 none) 0 (some { grp with m := #v[m0, 0xFFFFF, 0, 0, 0, 0, 0, 0], stack := st }), launch := some ⟨0x40000100, 0, 1, 1, 0, false, 1, 0⟩ })] }
theorem test_mand : ((after (.mand group 0 1 0) (grpM (BitVec.allOnes 64) [(BitVec.allOnes 64, 0x40001C40)])).grp tile0 0).m0 = 0xFFFFF := by decide +kernel
theorem test_melse : ((after (.melse group 0 1 0) (grpM 0xFFFFF [(BitVec.allOnes 64, 0x40001C40)])).grp tile0 0).m0 = 0xFFFFFFFFFFF00000 := by decide +kernel
/-- R108's example: acc 12,345 with MULT 1,099,511,628, SHIFT 40 and BIAS 3 gives 16,872,005,930,988 / 2^40, which rounds to 15 and draws to 16 when the draw is small. -/
theorem test_integer_rescale :
    convValue { par .q8 with mult := List.replicate 32 1099511628, bias := List.replicate 32 3, shift := List.replicate 32 40 } false 12345 0 = some (.fin false 16872005930988 (-40)) := by decide +kernel
/-- R109's example: a T4 block of maximum 100.0: scale byte 0x84; 100.0, 10.0, −7.0 and 0.01 (F32 0x3C23D70A) become 0x5, 0x1, 0x8 and 0x0, with two flushes. -/
theorem test_t4_block : (let r := tBlock .t4 .rne [.fin false 100 0, .fin false 10 0, .fin true 7 0, FF.f32.dec 0x3C23D70A] 0; (r.1, r.2.1, r.2.2.1)) = (0x84, [5, 1, 8, 0], 2) := by decide +kernel
/-- R113's example: digits of 2^53 + 2 and of 3 · 2^52. -/
theorem test_weld_digits : digits 7 (2 ^ 53 + 2) = [32, 0, 0, 0, 0, 0, 2] ∧ digits 7 (3 * 2 ^ 52) = [48, 0, 0, 0, 0, 0, 0] := by decide +kernel
/-- R201's example: 0x8000_0000_0040_0400 gives counter CC4 of tile 17 a window of 64 granules at granule 0x400. -/
theorem test_credit_configuration :
    (let w := (after (.creditCfgWrite (.tile ⟨0, 17⟩ 4) 0x8000000000400400) dev).win (tileWin 17 4); (w.en, w.len, w.base, w.badcfg)) = (true, 64, 0x400, false) := by decide +kernel
/-- R269's example: HKV 8, DH 128, T8: a billet is 34,048 bytes. -/
theorem test_billet_size : ({ Tng.reset with bfmt := 3, hkv := 7, dhc := 3 } : Tng).bilBytes = 34048 := by decide +kernel
/-- R276's example: CHUNK 512, MAXTOK 600, cursor at slot 5: items (5, 700, 0), (9, 0, 1) and (3, 1,024, 401) of 1, 400 and 199 tokens; the cursor goes to slot 3. -/
theorem test_batch_assembly :
    (let e (slot ctx inlen plen : Nat) (hold : Bool) : SeqE := ⟨slot, 1, 0, 0, ctx, hold, inlen, 4096, plen, 0⟩
     let a := assemble 600 4096 512 [e 5 700 701 10 false, e 9 0 400 400 false, e 12 0 9 9 true, e 3 1024 1300 1300 false]
     (a.items.map fun i => (i.slot, i.pos, i.tokoff, i.ntok), a.used, a.cut)) = ([(5, 700, 0, 1), (9, 0, 1, 400), (3, 1024, 401, 199)], 600, some 3) := by decide +kernel
/-- R387's example: the clamp point of a 60 % cap on an LK-9600 is 0.60 V. -/
theorem test_clamp_point : pointOf (clampStep .lk9600 60) = (600, 16) := by decide +kernel
/-- R339: a doorbell beyond the depth sets BADDB and leaves the tail. -/
theorem test_bad_doorbell : (let q := (after (.doorbell qr 16) devQ).queue 64; (q.tail, q.baddb)) = (1, true) := by decide +kernel
/-- Chapter 10's example: the record of the second command goes to completion slot 0 with its SLOT and PHASE 1, while SQHEAD stays at the reserved slot 0. -/
theorem test_record_order :
    (let c (i : Nat) (p : Phase) : Cmd := { cmdOf 2 [] with ref := ⟨1, 0, BitVec.ofNat 16 i⟩, phase := p }
     let d := after (.completionRecordWrite ⟨1, 0, 1⟩) { devQ with cmds := [c 0 .running, c 1 .done], queues := [(64, { que with log := 3, acc := 2, tail := 2, out := [1] })] }
     (SMap.get 0 d.mem.dram 0x40020000, SMap.get 0 d.mem.dram 0x40020007, (d.queue 64).sqhead, (d.queue 64).cqtail)) = (1, 0x80, 0, 1) := by decide +kernel
/-- R367: of a packet acted on once, a second copy changes nothing. -/
theorem test_duplicate_packet : (let p := pkt 2 0x40002000 0 [1]; let e := after (.writePkt p) (devF []); decide (after (.writePkt p) e = e)) = true := by decide +kernel
/-- R399, R404: COOLANT_OK falling quenches a running package with cause 1. -/
theorem test_coolant_quench : (let p := (after .coolantOkDeasserted devR).pwr; (p.q, p.qcause)) = (2, 1) := by decide +kernel
/-- Chapter 16's example: tile 5 of logical brick 2 withdrawn: detail word 0x0100_0105. -/
theorem test_withdrawn_word : unitWord dev (.tile ⟨2, 5⟩) = 0x01000105 := by decide +kernel
/-- No row of the command table gives bits, so no word spells a command. -/
theorem test_no_word_spells_a_command : decodeTableWord 32 0x12345678 = none ∧ State.reset.withFetchWord 32 0x12345678 = State.reset := by constructor <;> rfl

end Sys2Proof.Tests
end

/-! The mask instructions of a thread group (R152, R153, R174, R175): what an instruction of a group changes, what a failing one ends, and what each mask instruction makes of the group. -/

namespace Sys2Proof.Machine

open Sys2Proof

/-! ### Words -/

theorem sxw_eq_signExtend {w : Nat} (x : BitVec w) : sxw w x.toNat = x.signExtend 64 := by
  have hx : x.toNat % 2 ^ w = x.toNat := Nat.mod_eq_of_lt x.isLt
  have hm : x.toNat.testBit (w - 1) = x.msb := by rw [BitVec.msb_eq_getLsbD_last]; rfl
  simp [sxw, sx, BitVec.signExtend, BitVec.toInt_eq_msb_cond, hx, hm]

theorem toNat_append_eq_add {m n : Nat} (x : BitVec m) (y : BitVec n) : (x ++ y).toNat = x.toNat * 2 ^ n + y.toNat := by
  rw [BitVec.toNat_append, ← Nat.shiftLeft_add_eq_or_of_lt y.isLt, Nat.shiftLeft_eq]

/-- The word of an MBR of the reserved COND 3 is the concatenation of its fields (Table 5.3). -/
theorem mbrWord_reserved (mc : BitVec 3) (off : BitVec 16) :
    mbrWord 3 mc.toNat 0 off.toNat = (0x2A#6 ++ 3#2 ++ mc ++ 0#5 ++ off).toNat := by
  simp only [toNat_append_eq_add, mbrWord, insWord, BitVec.toNat_ofNat]
  omega

/-! ### Mask registers -/

theorem Group.mask_fin (g : Group) (i : Fin 8) : g.mask i.val = g.m[i] := by
  simp [Group.mask, nthV]

theorem Group.m0_eq (g : Group) : g.m0 = g.m[0] := g.mask_fin 0

/-- The group with m[i] replaced by v over its thread bits. -/
def Group.put (g : Group) (i : Fin 8) (v : Word) : Group := { g with m := g.m.set i.val (v &&& g.full) }

theorem Group.setMask_eq_put (g : Group) (i : Fin 8) (v : Word) : g.setMask i.val v = g.put i v := by
  have hv : setV g.m i.val (v &&& g.full) = g.m.set i.val (v &&& g.full) := by
    apply Vector.ext
    intro j hj
    simp [setV, Vector.getElem_setIfInBounds, Vector.getElem_set]
  simp only [Group.setMask, Group.put, hv]

theorem Group.mand_eq (g : Group) (i : Fin 8) : g.mand i.val = g.put 0 (g.m[0] &&& g.m[i]) := by
  rw [Group.mand, Group.m0_eq, Group.mask_fin]
  exact g.setMask_eq_put 0 _

/-- The mask of the top entry of the stack, or the full thread mask. -/
def Group.top (g : Group) : Word := match g.stack with | e :: _ => e.1 | [] => g.full

theorem Group.melse_eq (g : Group) (i : Fin 8) : g.melse i.val = g.put 0 (g.top &&& ~~~g.m[i]) := by
  rw [Group.melse, Group.mask_fin, Group.top]
  cases g.stack <;> exact g.setMask_eq_put 0 _

theorem Group.mpop_cons (g : Group) {e : Word × Word} {rest : List (Word × Word)} (hst : g.stack = e :: rest) :
    g.mpop = { g.put 0 e.1 with stack := rest } := by
  rw [Group.mpop, hst]
  exact Group.setMask_eq_put { g with stack := rest } 0 e.1

theorem Group.mpop_nil (g : Group) (hst : g.stack = []) : g.mpop = g.put 0 g.full := by
  rw [Group.mpop, hst]
  exact g.setMask_eq_put 0 g.full

/-- R174: the bits of the active threads for which f holds. -/
def Group.hits (g : Group) (f : Nat → Bool) : Word := BitVec.ofNat 64 (g.active.foldl (fun m th => if f th then setBit m th else m) 0)

theorem Group.compare_eq (g : Group) (i : Fin 8) (f : Nat → Bool) : g.compare i.val f = g.put i (g.hits f) := g.setMask_eq_put i _

/-- MRD is a write of one register of every active thread. -/
theorem Group.mrd_eq (g : Group) (rd : Nat) (i : Fin 8) : g.mrd rd i.val = g.active.foldl (fun z th => z.wr false th rd g.m[i]) g := by
  rw [Group.mrd, Group.mask_fin]
  rfl

/-- Where an MBR takes the group: its target, or the next instruction. -/
def Group.mbrPc (g : Group) (cond : BitVec 2) (mc : BitVec 3) (off : BitVec 16) : Word :=
  if g.branches cond.toNat mc.toNat then g.pc + off.signExtend 64 * 4 else g.pc + 4

/-- COND 0 to 2 test m[mc] AND m0 (R175). -/
theorem Group.branches_iff (g : Group) {cond : BitVec 2} (hc : cond ≠ 3#2) (mc : BitVec 3) :
    g.branches cond.toNat mc.toNat = true ↔
      (cond = 0#2 ∧ g.m[mc.toNat] &&& g.m[0] ≠ 0) ∨ (cond = 1#2 ∧ g.m[mc.toNat] &&& g.m[0] = g.m[0]) ∨ (cond = 2#2 ∧ g.m[mc.toNat] &&& g.m[0] = 0) := by
  have hmask : g.mask mc.toNat = g.m[mc.toNat] := g.mask_fin ⟨mc.toNat, mc.isLt⟩
  have hcond : cond = 0#2 ∨ cond = 1#2 ∨ cond = 2#2 := by
    revert cond
    decide
  rcases hcond with rfl | rfl | rfl <;> simp [Group.branches, hmask, Group.m0_eq]

theorem Group.mbrPc_eq (g : Group) {cond : BitVec 2} (hc : cond ≠ 3#2) (mc : BitVec 3) (off : BitVec 16) :
    g.mbrPc cond mc off =
      if (cond = 0#2 ∧ g.m[mc.toNat] &&& g.m[0] ≠ 0) ∨ (cond = 1#2 ∧ g.m[mc.toNat] &&& g.m[0] = g.m[0]) ∨ (cond = 2#2 ∧ g.m[mc.toNat] &&& g.m[0] = 0)
      then g.pc + off.signExtend 64 * 4 else g.pc + 4 :=
  if_congr (g.branches_iff hc mc) rfl rfl

/-! ### What an instruction of a group changes -/

/-- Of the package, group g of tile t alone has changed, to z, beside the counters. -/
def Dev.groupBecame (d e : Dev) (t : TileRef) (g : Fin 8) (z : Group) : Prop :=
  e = { d with tiles := e.tiles, cntQ := e.cntQ, cntP := e.cntP } ∧
    (∀ k, e.tile k = { d.tile k with groups := (e.tile k).groups }) ∧ e.grp t g = z ∧
    ∀ u j, ¬(u = t ∧ j = g) → e.grp u j = d.grp u j

/-- Instruction i takes group g of tile t on at pc, with the masks and the stack of z, and the reconvergence check (R152). -/
def Dev.steersGroup (d : Dev) (q : List Instr) (t : TileRef) (g : Fin 8) (i : Instr) (z : Group) (pc : Word) : Prop :=
  ∃ e, exec i ⟨d, q⟩ = .next ⟨e, q⟩ ∧ d.groupBecame e t g (z.goto pc)

/-- Instruction i ends the task of the group's tile with DETECTED_ERROR, a fault reason and an instruction word (Table 15.2). -/
def Dev.endsAtGroup (d : Dev) (q : List Instr) (t : TileRef) (g : Fin 8) (i : Instr) (reason word : Nat) : Prop :=
  ∃ e, exec i ⟨d, q⟩ = .next ⟨e, q⟩ ∧ e.tile t.key = { d.tile t.key with fin := some ⟨0x20, reason, 1, 0, 0, word, (d.grp t g).pc⟩ } ∧
    (∀ k, k ≠ t.key → e.tile k = d.tile k) ∧ (∀ k, e.core k = d.core k) ∧ e.mem = d.mem

theorem Tile.onGroup_eq (x : Tile) (g : Fin 8) (f : Group → Group) : x.onGroup g f = { x with groups := (x.onGroup g f).groups } := by
  unfold Tile.onGroup
  cases x.group g.val <;> rfl

/-- Only what f makes of the group as it stands matters. -/
theorem Dev.setGrp_congr {d : Dev} {t : TileRef} {g : Fin 8} {f h : Group → Group} (hfh : f (d.grp t g) = h (d.grp t g)) :
    d.setGrp t g f = d.setGrp t g h := by
  have hx : (d.tile t.key).onGroup g f = (d.tile t.key).onGroup g h := by
    unfold Tile.onGroup
    cases hg : (d.tile t.key).group g.val with
    | none => rfl
    | some y =>
      simp only [Dev.grp, hg, Option.getD_some] at hfh
      simp only [hfh]
  simp only [Dev.setGrp_eq, Dev.setTile, SMap.upd]
  exact congrArg (fun x => { d with tiles := SMap.put Tile.clear d.tiles t.key x }) hx

theorem Dev.groupBecame_setGrp (d : Dev) (t : TileRef) (g : Fin 8) (f : Group → Group) (hs : ((d.tile t.key).group g.val).isSome = true) :
    d.groupBecame (d.setGrp t g f) t g (f (d.grp t g)) := by
  refine ⟨rfl, fun k => ?_, Dev.grp_setGrp_self d t g f hs, fun u j h => Dev.grp_setGrp_ne d t u g j f h⟩
  rw [Dev.setGrp_eq, Dev.tile_setTile]
  by_cases hk : k = t.key
  · subst hk
    rw [if_pos rfl]
    exact Tile.onGroup_eq _ g f
  · rw [if_neg hk]

theorem Dev.groupBecame_of_count {d e : Dev} {t : TileRef} {g : Fin 8} {z : Group} {a : Acct} {v n : Nat}
    (h : (d.count a v n).groupBecame e t g z) : d.groupBecame e t g z := by
  obtain ⟨hrest, htile, hgrp, hothers⟩ := h
  simp only [Dev.tile_count, Dev.grp_count] at htile hothers
  rw [Dev.count_eq] at hrest
  exact ⟨hrest, htile, hgrp, hothers⟩

section
variable {d : Dev} {q : List Instr} {t : TileRef} {g : Fin 8} (h : d.executes (.group t g) 4 [])
include h

/-- A legal instruction of a group is counted, and the group goes on with what the instruction makes of it. -/
theorem Dev.groupInsn_eq {w p : Nat} {ok : Bool} {k : Group → Except Exc Group} {z : Group} (hok : ok = true)
    (hk : k (d.grp t g) = .ok z) (hpc : z.pc = (d.grp t g).pc) :
    d.groupInsn (.group t g) w ok k p =
      ((d.countInsn (.group t g)).count (d.acctOf (.group t g)) 27 p).setGrp t g fun _ => z.goto ((d.grp t g).pc + 4) := by
  have hs := Dev.executes_group h
  have hnext : ∀ e : Dev, ((e.tile t.key).group g.val).isSome = true →
      (e.setGrp t g fun _ => z).next (.group t g) 4 = e.setGrp t g fun _ => z.goto ((d.grp t g).pc + 4) := by
    intro e he
    simp only [Dev.next, Dev.goto, Dev.pcOf, Dev.grp_setGrp_self e t g _ he, hpc, Dev.setGrp_setGrp]
    rfl
  unfold Dev.groupInsn
  rw [Dev.insn_of_executes h, hok]
  simp only [Bool.not_true, Bool.false_eq_true, if_false, hk]
  exact hnext _ (by simpa only [Dev.countInsn, Dev.tile_count] using hs)

theorem Dev.groupInsn_became {w p : Nat} {ok : Bool} {k : Group → Except Exc Group} {z : Group} (hok : ok = true)
    (hk : k (d.grp t g) = .ok z) (hpc : z.pc = (d.grp t g).pc) :
    d.groupBecame (d.groupInsn (.group t g) w ok k p) t g (z.goto ((d.grp t g).pc + 4)) := by
  rw [Dev.groupInsn_eq h hok hk hpc]
  have hs := Dev.executes_group h
  exact Dev.groupBecame_of_count (Dev.groupBecame_of_count
    (Dev.groupBecame_setGrp _ t g (fun _ => z.goto _) (by simpa only [Dev.tile_count] using hs)))

/-- A group's instruction that only goes on at pc. -/
theorem Dev.goto_became (pc : Word) :
    d.groupBecame ((d.countInsn (.group t g)).goto (.group t g) pc) t g ((d.grp t g).goto pc) := by
  have hs := Dev.executes_group h
  have hb := Dev.groupBecame_setGrp (d.countInsn (.group t g)) t g (fun x => x.goto pc) (by simpa only [Dev.countInsn, Dev.tile_count] using hs)
  simp only [Dev.countInsn, Dev.grp_count] at hb
  exact Dev.groupBecame_of_count hb

theorem Dev.groupInsn_error {w p : Nat} {ok : Bool} {k : Group → Except Exc Group} {e : Exc} (hok : ok = true)
    (hk : k (d.grp t g) = .error e) : d.groupInsn (.group t g) w ok k p = d.raise (.group t g) 0 e := by
  unfold Dev.groupInsn
  rw [Dev.insn_of_executes h, hok]
  simp only [Bool.not_true, Bool.false_eq_true, if_false, hk]

/-- A group fails an instruction for a reason other than poison or parity, and the tile's task runs, so no end stands there yet (R153, R161). -/
theorem Dev.raise_endsAtGroup {i : Instr} {e : Exc} {reason word : Nat} (hx : exec i ⟨d, q⟩ = .next ⟨d.raise (.group t g) 0 e, q⟩)
    (he : e.fin = (0x20, reason, 0, word)) (hq : ∀ pa, e ≠ .poison pa ∧ e ≠ .parity pa) : d.endsAtGroup q t g i reason word := by
  have hfin : (d.tile t.key).fin = none := by
    have hr := h.1
    simp only [Dev.agentReady, Tile.runs, Bool.and_eq_true, Option.isNone_iff_eq_none] at hr
    obtain ⟨-, ⟨⟨-, -, hnone⟩, -⟩, -⟩ := hr
    exact hnone
  have hraise : d.raise (.group t g) 0 e =
      (d.forget fun w => w.by_ == some (.group t g)).setTile t.key fun x => x.fail e 1 0 (d.grp t g).pc := by
    cases e with
    | poison pa => exact absurd rfl (hq pa).1
    | parity pa => exact absurd rfl (hq pa).2
    | _ => rfl
  refine ⟨_, hx, ?_, fun k hk => ?_, fun k => ?_, ?_⟩ <;> rw [hraise]
  · rw [Dev.tile_setTile_self]
    exact (if_pos hfin).trans (by rw [he]; rfl)
  · rw [Dev.tile_setTile, if_neg hk]
    rfl
  · rfl
  · rfl

/-! ### The mask instructions -/

theorem mpush_steers (imm : BitVec 16) (hroom : (d.grp t g).stack.length < 16) :
    d.steersGroup q t g (.mpush (.group t g) 0 0 imm)
      { d.grp t g with stack := ((d.grp t g).m[0], (d.grp t g).pc + imm.signExtend 64 * 4) :: (d.grp t g).stack } ((d.grp t g).pc + 4) := by
  refine ⟨_, rfl, Dev.groupInsn_became h rfl ?_ rfl⟩
  rw [Group.push, if_neg (by omega), Group.m0_eq, sxw_eq_signExtend]

theorem mpush_full_ends (imm : BitVec 16) (hfull : 16 ≤ (d.grp t g).stack.length) :
    d.endsAtGroup q t g (.mpush (.group t g) 0 0 imm) 3 0 := by
  have hk : (d.grp t g).push imm = .error .maskStack := if_pos hfull
  have hx : exec (.mpush (.group t g) 0 0 imm) ⟨d, q⟩ = .next ⟨d.raise (.group t g) 0 .maskStack, q⟩ := by
    rw [← Dev.groupInsn_error h (k := fun y => y.push imm) rfl hk]
    rfl
  exact Dev.raise_endsAtGroup h hx rfl fun _ => ⟨nofun, nofun⟩

theorem mand_steers (i : Fin 8) (rs1 : BitVec 5) (hi : rs1.toNat = i.val) :
    d.steersGroup q t g (.mand (.group t g) 0 rs1 0) ((d.grp t g).put 0 ((d.grp t g).m[0] &&& (d.grp t g).m[i])) ((d.grp t g).pc + 4) :=
  ⟨_, rfl, Dev.groupInsn_became h (by simp [hi]) (by rw [hi, Group.mand_eq]) rfl⟩

theorem melse_steers (i : Fin 8) (rs1 : BitVec 5) (hi : rs1.toNat = i.val) :
    d.steersGroup q t g (.melse (.group t g) 0 rs1 0) ((d.grp t g).put 0 ((d.grp t g).top &&& ~~~(d.grp t g).m[i])) ((d.grp t g).pc + 4) :=
  ⟨_, rfl, Dev.groupInsn_became h (by simp [hi]) (by rw [hi, Group.melse_eq]) rfl⟩

theorem mpop_entry_steers {e : Word × Word} {rest : List (Word × Word)} (hst : (d.grp t g).stack = e :: rest) :
    d.steersGroup q t g (.mpop (.group t g) 0 0 0) { (d.grp t g).put 0 e.1 with stack := rest } ((d.grp t g).pc + 4) :=
  ⟨_, rfl, Dev.groupInsn_became h rfl (by rw [Group.mpop_cons _ hst]) rfl⟩

theorem mpop_empty_steers (hst : (d.grp t g).stack = []) :
    d.steersGroup q t g (.mpop (.group t g) 0 0 0) ((d.grp t g).put 0 (d.grp t g).full) ((d.grp t g).pc + 4) :=
  ⟨_, rfl, Dev.groupInsn_became h rfl (by rw [Group.mpop_nil _ hst]) rfl⟩

theorem mland_steers (op : MaskOp) (i j k : Fin 8) (rd rs1 rs2 : BitVec 5) (hi : rd.toNat = i.val) (hj : rs1.toNat = j.val) (hk : rs2.toNat = k.val) :
    d.steersGroup q t g (.mland (.group t g) op rd rs1 rs2) ((d.grp t g).put i (maskOp op (d.grp t g).m[j] (d.grp t g).m[k])) ((d.grp t g).pc + 4) :=
  ⟨_, rfl, Dev.groupInsn_became h (by simp [hi, hj, hk]) (by rw [hi, hj, hk, Group.mask_fin, Group.mask_fin, Group.setMask_eq_put]) rfl⟩

theorem mceq_steers (op : IntCmp) (i : Fin 8) (rd rs1 rs2 : BitVec 5) (hi : rd.toNat = i.val) :
    d.steersGroup q t g (.mceq (.group t g) op rd rs1 rs2)
      ((d.grp t g).put i ((d.grp t g).hits fun th => intCmp op ((d.grp t g).rx th rs1.toNat) ((d.grp t g).rx th rs2.toNat))) ((d.grp t g).pc + 4) :=
  ⟨_, rfl, Dev.groupInsn_became h (by simp [hi]) (by rw [hi, Group.compare_eq]) rfl⟩

theorem mfeq_steers (op : FloatCmp) (dbl : Bool) (i : Fin 8) (rd rs1 rs2 : BitVec 5) (hi : rd.toNat = i.val) :
    d.steersGroup q t g (.mfeq (.group t g) op dbl rd rs1 rs2)
      ((d.grp t g).put i ((d.grp t g).hits fun th => floatCmp op dbl ((d.grp t g).rf th rs1.toNat) ((d.grp t g).rf th rs2.toNat))) ((d.grp t g).pc + 4) :=
  ⟨_, rfl, Dev.groupInsn_became h (by simp [hi]) (by rw [hi, Group.compare_eq]) rfl⟩

theorem mwr_steers (i : Fin 8) (rd rs1 : BitVec 5) (hi : rd.toNat = i.val) {th : Nat} (hth : (d.grp t g).active.getLast? = some th) :
    d.steersGroup q t g (.mwr (.group t g) rd rs1 0) ((d.grp t g).put i ((d.grp t g).rx th rs1.toNat)) ((d.grp t g).pc + 4) :=
  ⟨_, rfl, Dev.groupInsn_became h (by simp [hi]) (by rw [hi, Group.mwr, hth]; exact congrArg _ (Group.setMask_eq_put _ i _)) rfl⟩

/-- MRD does what an integer instruction with the mask as its result does. -/
theorem mrd_eq_compute (j : Fin 8) (rd rs1 : BitVec 5) (hj : rs1.toNat = j.val) :
    exec (.mrd (.group t g) rd rs1 0) ⟨d, q⟩ =
      .next ⟨d.compute (.group t g) 4 0 true [] rd.toNat fun _ _ => xRes (d.grp t g).m[j], q⟩ := by
  have hpc : ((d.grp t g).mrd rd.toNat rs1.toNat).pc = (d.grp t g).pc := by
    rw [hj, Group.mrd_eq, Group.foldl_wr_eq]
  have hinsn := Dev.groupInsn_eq h (w := maskWord 0x020 rd.toNat rs1.toNat 0) (p := 0) (ok := (0 : BitVec 5) == 0 && decide (rs1.toNat < 8))
    (k := fun y => .ok (y.mrd rd.toNat rs1.toNat)) (by simp [hj]) rfl hpc
  rw [Dev.compute_group (flt := false) h fun _ _ => rfl]
  refine congrArg (fun e => Host.Outcome.next (State.mk e q)) (hinsn.trans (Dev.setGrp_congr ?_))
  rw [hj, Group.mrd_eq]
  simp only [Dev.countInsn, Dev.grp_count]
  rfl

theorem mrd_reads (j : Fin 8) (rd rs1 : BitVec 5) (hj : rs1.toNat = j.val) :
    ∃ e, exec (.mrd (.group t g) rd rs1 0) ⟨d, q⟩ = .next ⟨e, q⟩ ∧ d.leftAlone e (.group t g) ∧
      d.wentOn e (.group t g) ((d.grp t g).pc + 4) ∧ d.setsReg e (.group t g) false rd.toNat fun _ => (d.grp t g).m[j] := by
  obtain ⟨hleft, hreg, hpc, -, -⟩ := Dev.compute_intDone (w := 0) (rd := rd.toNat) (v := fun _ _ => (d.grp t g).m[j]) h rd.isLt
  exact ⟨_, mrd_eq_compute h j rd rs1 hj, hleft, hpc, hreg⟩

theorem Dev.mbr_eq_goto {cond : BitVec 2} (hc : cond ≠ 3#2) (mc : BitVec 3) (off : BitVec 16) :
    d.mbr (.group t g) cond.toNat mc.toNat 0 off = (d.countInsn (.group t g)).goto (.group t g) ((d.grp t g).mbrPc cond mc off) := by
  have hlegal : ¬(cond.toNat = 3 ∨ 0 ≠ 0) := by
    rintro (h3 | h0)
    · exact hc (BitVec.eq_of_toNat_eq h3)
    · exact h0 rfl
  unfold Dev.mbr
  rw [Dev.insn_of_executes h]
  simp only [hlegal, if_false, sxw_eq_signExtend, Group.mbrPc]

theorem mbr_steers {cond : BitVec 2} (hc : cond ≠ 3#2) (mc : BitVec 3) (off : BitVec 16) :
    d.steersGroup q t g (.mbr (.group t g) cond mc 0 off) (d.grp t g) ((d.grp t g).mbrPc cond mc off) :=
  ⟨_, congrArg (fun e => Host.Outcome.next (State.mk e q)) (Dev.mbr_eq_goto h hc mc off), Dev.goto_became h _⟩

theorem mbr_reserved_ends (mc : BitVec 3) (off : BitVec 16) :
    d.endsAtGroup q t g (.mbr (.group t g) 3 mc 0 off) 1 (0x2A#6 ++ 3#2 ++ mc ++ 0#5 ++ off).toNat := by
  have hx : exec (.mbr (.group t g) 3 mc 0 off) ⟨d, q⟩ = .next ⟨d.raise (.group t g) 0 (.illegal (mbrWord 3 mc.toNat 0 off.toNat)), q⟩ := by
    show Host.Outcome.next (State.mk (d.mbr _ _ _ _ _) q) = _
    unfold Dev.mbr
    rw [Dev.insn_of_executes h]
    rfl
  rw [← mbrWord_reserved]
  exact Dev.raise_endsAtGroup h hx rfl fun _ => ⟨nofun, nofun⟩

end

/-- Settles O12: each mask instruction makes of its group what its own lemma above says (Table 5.10, R175), and only a full MPUSH and a reserved MBR end the task (R153). -/
theorem maskInstructionsSteerTheGroup : Obligations.MaskInstructionsSteerTheGroup := by
  unfold Obligations.MaskInstructionsSteerTheGroup
  intro t g d q rd rs1 rs2 a y full put yields ends cmpBits h
  refine ⟨fun imm => mpush_steers h imm, fun imm => mpush_full_ends h imm, fun i hi => ⟨mand_steers h i rs1 hi, melse_steers h i rs1 hi⟩,
    fun e rest => mpop_entry_steers h, mpop_empty_steers h, fun i j k hi hj hk op => mland_steers h op i j k rd rs1 rs2 hi hj hk,
    fun i hi => ⟨fun op => mceq_steers h op i rd rs1 rs2 hi, fun op dbl => mfeq_steers h op dbl i rd rs1 rs2 hi, fun th => mwr_steers h i rd rs1 hi⟩,
    fun j hj => mrd_reads h j rd rs1 hj, fun cond mc off hc => ?_, fun mc off => mbr_reserved_ends h mc off⟩
  have hbr := mbr_steers (q := q) h hc mc off
  rw [Group.mbrPc_eq _ hc] at hbr
  exact hbr

end Sys2Proof.Machine

/-! The integer instructions (Tables 5.4, 5.5 and 5.9, R164, R165): what each operation computes on bit vectors, proved for every width and then read at 64 bits and at 32, and the registers the instructions write. -/

namespace Sys2Proof.Machine

open Sys2Proof

/-! ### Operations on bit vectors of one width -/

/-- The result of an OP of Table 5.5 on w bits, before sign extension; none is reserved. -/
def intRes (w op A B : Nat) : Option (BitVec w) := (intOp w op A B).map (BitVec.ofInt w)

theorem intRes_of_int {w op A B : Nat} {i : Int} {z : BitVec w} (h : intOp w op A B = some i) (hz : BitVec.ofInt w i = z) :
    intRes w op A B = some z := by
  rw [intRes, h, ← hz]
  rfl

theorem intRes_of_nat {w op A B : Nat} {z : BitVec w} (h : intOp w op A B = some (z.toNat : Int)) : intRes w op A B = some z :=
  intRes_of_int h (by rw [BitVec.ofInt_natCast, BitVec.ofNat_toNat, BitVec.setWidth_eq])

/-- An operation on w bits takes the low w bits of its first operand. -/
theorem intRes_low (w op A B : Nat) : intRes w op (A % 2 ^ w) B = intRes w op A B := by
  have hs : sx w (A % 2 ^ w) = sx w A := by simp only [sx, Nat.mod_mod]
  simp only [intRes, intOp, hs, Nat.mod_mod]

theorem sx_toNat {w : Nat} (x : BitVec w) : sx w x.toNat = x.toInt := by
  have hx : x.toNat % 2 ^ w = x.toNat := Nat.mod_eq_of_lt x.isLt
  have hm : x.toNat.testBit (w - 1) = x.msb := by rw [BitVec.msb_eq_getLsbD_last]; rfl
  simp [sx, BitVec.toInt_eq_msb_cond, hx, hm]

/-- The high v bits of a number of w + v bits are its floored quotient by 2^w. -/
theorem extractLsb'_ofInt (w v : Nat) (i : Int) : (BitVec.ofInt (w + v) i).extractLsb' w v = BitVec.ofInt v (i / 2 ^ w) := by
  have hn : ((BitVec.ofInt (w + v) i).toNat : Int) = i % 2 ^ (w + v) := by
    rw [BitVec.toNat_ofInt, Int.toNat_of_nonneg (Int.emod_nonneg _ (by positivity)), Nat.cast_pow, Nat.cast_two]
  have hi : i = (BitVec.ofInt (w + v) i).toNat + 2 ^ w * (2 ^ v * (i / 2 ^ (w + v))) := by
    rw [hn, ← mul_assoc, ← pow_add, Int.emod_add_mul_ediv]
  generalize (BitVec.ofInt (w + v) i) = z at hi
  apply BitVec.eq_of_toNat_eq
  rw [BitVec.extractLsb'_toNat, BitVec.toNat_ofInt, hi, Int.add_mul_ediv_left _ _ (by positivity), Nat.cast_pow, Nat.cast_two,
    Int.add_mul_emod_self_left, Nat.shiftRight_eq_div_pow]
  norm_cast

section
variable {w : Nat} (x y : BitVec w) (n : Nat)

theorem toInt_eq_zero_iff : y.toInt = 0 ↔ y = 0 := by
  rw [← BitVec.toInt_zero (w := w), BitVec.toInt_inj]
  rfl

theorem toNat_eq_zero_iff : y.toNat = 0 ↔ y = 0 := by
  rw [BitVec.toNat_eq]
  rfl

theorem toInt_ediv_two_pow_of_le (h : w ≤ n) : x.toInt / 2 ^ n = if x.toInt < 0 then -1 else 0 := by
  have hlo := BitVec.le_two_mul_toInt (x := x)
  have hhi := BitVec.two_mul_toInt_lt (x := x)
  have hp : (2 : Int) ^ w ≤ 2 ^ n := pow_le_pow_right₀ (by decide) h
  split
  · exact Int.ediv_eq_neg_one_of_neg_of_le (by omega) (by omega)
  · exact Int.ediv_eq_zero_of_lt (by omega) (by omega)

theorem intRes_add : intRes w 0x00 x.toNat y.toNat = some (x + y) := by
  refine intRes_of_int rfl ?_
  rw [sx_toNat, sx_toNat, BitVec.ofInt_add, BitVec.ofInt_toInt, BitVec.ofInt_toInt]

theorem intRes_sub : intRes w 0x01 x.toNat y.toNat = some (x - y) := by
  refine intRes_of_int rfl (BitVec.eq_of_toInt_eq ?_)
  rw [sx_toNat, sx_toNat, BitVec.toInt_ofInt, BitVec.toInt_sub]

theorem intRes_and : intRes w 0x02 x.toNat y.toNat = some (x &&& y) := by
  refine intRes_of_nat (congrArg some ?_)
  rw [Nat.mod_eq_of_lt x.isLt, Nat.mod_eq_of_lt y.isLt, BitVec.toNat_and]

theorem intRes_or : intRes w 0x03 x.toNat y.toNat = some (x ||| y) := by
  refine intRes_of_nat (congrArg some ?_)
  rw [Nat.mod_eq_of_lt x.isLt, Nat.mod_eq_of_lt y.isLt, BitVec.toNat_or]

theorem intRes_xor : intRes w 0x04 x.toNat y.toNat = some (x ^^^ y) := by
  refine intRes_of_nat (congrArg some ?_)
  rw [Nat.mod_eq_of_lt x.isLt, Nat.mod_eq_of_lt y.isLt, BitVec.toNat_xor]

theorem intRes_sll : intRes w 0x05 x.toNat n = some (x <<< n) := by
  by_cases h : w ≤ n
  · exact intRes_of_int (congrArg some (if_pos h)) (by rw [BitVec.shiftLeft_eq_zero h]; rfl)
  · refine intRes_of_int (congrArg some (if_neg h)) ?_
    rw [BitVec.ofInt_natCast, Nat.mod_eq_of_lt x.isLt, ← Nat.shiftLeft_eq]
    rfl

theorem intRes_srl : intRes w 0x06 x.toNat n = some (x >>> n) := by
  by_cases h : w ≤ n
  · exact intRes_of_int (congrArg some (if_pos h)) (by rw [BitVec.ushiftRight_eq_zero h]; rfl)
  · refine intRes_of_nat (congrArg some ((if_neg h).trans ?_))
    rw [Nat.mod_eq_of_lt x.isLt, BitVec.toNat_ushiftRight, Nat.shiftRight_eq_div_pow]

theorem intRes_sra : intRes w 0x07 x.toNat n = some (x.sshiftRight n) := by
  have hs : x.sshiftRight n = BitVec.ofInt w (x.toInt / 2 ^ n) := by
    rw [BitVec.sshiftRight, Int.shiftRight_eq_div_pow, Nat.cast_pow, Nat.cast_two]
  by_cases h : w ≤ n
  · refine intRes_of_int (congrArg some (if_pos h)) ?_
    rw [hs, toInt_ediv_two_pow_of_le x n h, sx_toNat]
  · exact intRes_of_int (congrArg some (if_neg h)) (by rw [hs, sx_toNat])

theorem intRes_slt : intRes w 0x08 x.toNat y.toNat = some (if x.slt y then 1 else 0) := by
  refine intRes_of_int rfl ?_
  rw [sx_toNat, sx_toNat, BitVec.slt_eq_decide]
  by_cases h : x.toInt < y.toInt <;> simp [h]

theorem intRes_sltu : intRes w 0x09 x.toNat y.toNat = some (if x.ult y then 1 else 0) := by
  refine intRes_of_int rfl ?_
  rw [Nat.mod_eq_of_lt x.isLt, Nat.mod_eq_of_lt y.isLt, BitVec.ult_eq_decide]
  by_cases h : x.toNat < y.toNat <;> simp [h]

theorem intRes_mul : intRes w 0x0A x.toNat y.toNat = some (x * y) := by
  refine intRes_of_int rfl ?_
  rw [sx_toNat, sx_toNat, BitVec.ofInt_mul, BitVec.ofInt_toInt, BitVec.ofInt_toInt]

theorem intRes_mulh : intRes w 0x0B x.toNat y.toNat = some ((x.signExtend (w + w) * y.signExtend (w + w)).extractLsb' w w) := by
  refine intRes_of_int rfl ?_
  rw [sx_toNat, sx_toNat, ← extractLsb'_ofInt, BitVec.ofInt_mul]
  rfl

theorem intRes_mulhu : intRes w 0x0C x.toNat y.toNat = some ((x.setWidth (w + w) * y.setWidth (w + w)).extractLsb' w w) := by
  refine intRes_of_int rfl ?_
  rw [Nat.mod_eq_of_lt x.isLt, Nat.mod_eq_of_lt y.isLt, Int.natCast_ediv, Nat.cast_pow, Nat.cast_two, ← extractLsb'_ofInt, BitVec.ofInt_natCast,
    BitVec.ofNat_mul, BitVec.ofNat_toNat, BitVec.ofNat_toNat]

theorem intRes_div : intRes w 0x0D x.toNat y.toNat = some (if y = 0 then 0 else x.sdiv y) := by
  refine intRes_of_int rfl ?_
  simp only [sx_toNat, toInt_eq_zero_iff]
  split
  · rfl
  · apply BitVec.eq_of_toInt_eq
    rw [BitVec.toInt_ofInt, BitVec.toInt_sdiv]

theorem intRes_divu : intRes w 0x0E x.toNat y.toNat = some (if y = 0 then 0 else x / y) := by
  refine intRes_of_nat (congrArg some ?_)
  simp only [Nat.mod_eq_of_lt x.isLt, Nat.mod_eq_of_lt y.isLt, toNat_eq_zero_iff]
  split
  · rfl
  · rw [BitVec.toNat_udiv]

theorem intRes_rem : intRes w 0x0F x.toNat y.toNat = some (if y = 0 then x else x.srem y) := by
  refine intRes_of_int rfl ?_
  simp only [sx_toNat, toInt_eq_zero_iff]
  split
  · exact BitVec.ofInt_toInt
  · rw [← BitVec.toInt_srem, BitVec.ofInt_toInt]

theorem intRes_remu : intRes w 0x10 x.toNat y.toNat = some (if y = 0 then x else x % y) := by
  refine intRes_of_nat (congrArg some ?_)
  simp only [Nat.mod_eq_of_lt x.isLt, Nat.mod_eq_of_lt y.isLt, toNat_eq_zero_iff]
  split
  · rfl
  · rw [BitVec.toNat_umod]

theorem intRes_min : intRes w 0x11 x.toNat y.toNat = some (if x.sle y then x else y) := by
  refine intRes_of_int rfl ?_
  rw [sx_toNat, sx_toNat, BitVec.sle_eq_decide, min_def]
  by_cases h : x.toInt ≤ y.toInt <;> simp [h]

theorem intRes_max : intRes w 0x12 x.toNat y.toNat = some (if x.sle y then y else x) := by
  refine intRes_of_int rfl ?_
  rw [sx_toNat, sx_toNat, BitVec.sle_eq_decide, max_def]
  by_cases h : x.toInt ≤ y.toInt <;> simp [h]

theorem intRes_minu : intRes w 0x13 x.toNat y.toNat = some (if x.ule y then x else y) := by
  refine intRes_of_nat (congrArg some ?_)
  rw [Nat.mod_eq_of_lt x.isLt, Nat.mod_eq_of_lt y.isLt, BitVec.ule_eq_decide, min_def]
  by_cases h : x.toNat ≤ y.toNat <;> simp [h]

theorem intRes_maxu : intRes w 0x14 x.toNat y.toNat = some (if x.ule y then y else x) := by
  refine intRes_of_nat (congrArg some ?_)
  rw [Nat.mod_eq_of_lt x.isLt, Nat.mod_eq_of_lt y.isLt, BitVec.ule_eq_decide, max_def]
  by_cases h : x.toNat ≤ y.toNat <;> simp [h]

theorem intRes_andn : intRes w 0x15 x.toNat y.toNat = some (x &&& ~~~y) := by
  refine intRes_of_nat (congrArg some ?_)
  rw [Nat.mod_eq_of_lt x.isLt, Nat.mod_eq_of_lt y.isLt, BitVec.toNat_and, BitVec.toNat_not]

end

/-! ### Counts of bits -/

section
variable {k m i : Nat}

theorem leadZeros_le (k m : Nat) : leadZeros k m ≤ k := by
  unfold leadZeros
  split <;> omega

theorem testBit_above_leadZeros (hm : m < 2 ^ k) (hi : k ≤ i + leadZeros k m) : m.testBit i = false := by
  unfold leadZeros at hi
  split at hi
  case isTrue h0 => rw [h0, Nat.zero_testBit]
  case isFalse h0 =>
    have hl : m.log2 < k := (Nat.log2_lt h0).mpr hm
    exact Nat.testBit_lt_two_pow ((Nat.log2_lt h0).mp (by omega))

theorem testBit_at_leadZeros (hm : m < 2 ^ k) (hlt : leadZeros k m < k) : m.testBit (k - 1 - leadZeros k m) = true := by
  unfold leadZeros at hlt ⊢
  split at hlt
  case isTrue => omega
  case isFalse h0 =>
    have hl : m.log2 < k := (Nat.log2_lt h0).mpr hm
    rw [if_neg h0, show k - 1 - (k - 1 - m.log2) = m.log2 by omega]
    exact Nat.testBit_log2 h0

theorem trailZeros_le (k m : Nat) : trailZeros k m ≤ k := by
  induction k generalizing m with
  | zero => rfl
  | succ k ih =>
    have := ih (m / 2)
    unfold trailZeros
    split <;> omega

theorem testBit_below_trailZeros (hi : i < trailZeros k m) : m.testBit i = false := by
  induction k generalizing m i with
  | zero => exact absurd hi (Nat.not_lt_zero i)
  | succ k ih =>
    unfold trailZeros at hi
    split at hi
    case isTrue => omega
    case isFalse heven =>
      cases i with
      | zero => simpa using heven
      | succ i =>
        rw [Nat.testBit_succ]
        exact ih (by omega)

theorem testBit_at_trailZeros (hlt : trailZeros k m < k) : m.testBit (trailZeros k m) = true := by
  induction k generalizing m with
  | zero => omega
  | succ k ih =>
    unfold trailZeros at hlt ⊢
    split at hlt
    case isTrue hodd => simp [hodd]
    case isFalse heven =>
      rw [if_neg heven, Nat.add_comm, Nat.testBit_succ]
      exact ih (by omega)

theorem popc_eq_length_filter (k m : Nat) : popc k m = ((List.range k).filter m.testBit).length := by
  induction k with
  | zero => rfl
  | succ k ih =>
    rw [popc, ih, List.range_succ, List.filter_append, List.length_append, Nat.add_comm]
    cases hb : m.testBit k <;> simp [hb, b2n]

/-- The low k bits of a word are its bits below k. -/
theorem testBit_low (a : Word) (hi : i < k) : (a.toNat % 2 ^ k).testBit i = a.getLsbD i := by
  rw [Nat.testBit_mod_two_pow, decide_eq_true hi, Bool.true_and]
  rfl

theorem popc_le (k m : Nat) : popc k m ≤ k := by
  rw [popc_eq_length_filter]
  exact (List.length_filter_le _ _).trans (List.length_range).le

end

/-! ### Register operations: 64 bits, or W = 1 and the low 32 -/

/-- What a register operation of width w writes is its result, sign-extended (R164). -/
theorem map_sxw_intOp (w op A B : Nat) :
    ((intOp w op A B).map fun i => sxw w (i % (2 : Int) ^ w).toNat) = (intRes w op A B).map fun z => z.signExtend 64 := by
  have hz : ∀ i : Int, sxw w (i % (2 : Int) ^ w).toNat = (BitVec.ofInt w i).signExtend 64 := by
    intro i
    rw [← sxw_eq_signExtend, BitVec.toNat_ofInt, Nat.cast_pow, Nat.cast_two]
  rw [intRes, Option.map_map]
  exact congrArg (Option.map · _) (funext hz)

/-- A result of 64 bits is written as it is. -/
theorem map_signExtend_wide {op A B : Nat} {z : Word} (h : intRes 64 op A B = some z) : ((intRes 64 op A B).map fun z => z.signExtend 64) = some z := by
  rw [h, Option.map_some, BitVec.signExtend_eq]

/-- With W = 1 the first operand is cut to 32 bits. -/
theorem map_signExtend_narrow {op B : Nat} {a : Word} {z : BitVec 32} (h : intRes 32 op (a.setWidth 32).toNat B = some z) :
    ((intRes 32 op a.toNat B).map fun z => z.signExtend 64) = some (z.signExtend 64) := by
  rw [← intRes_low, ← BitVec.toNat_setWidth, h, Option.map_some]

section
variable {op rs2 : Nat} {a b : Word}

/-- A legal OP without W. -/
theorem intReg_wide {z : Word} (h : intRes 64 op a.toNat b.toNat = some z) (hop : op < 64 := by decide) (hrs : 0x16 ≤ op → rs2 = 0 := by omega) :
    intReg op rs2 a b = some z := by
  have hw : op.testBit 10 = false := Nat.testBit_lt_two_pow (by omega)
  have hlow : fld op 5 0 = op := Nat.mod_eq_of_lt hop
  have hmid : fld op 9 6 = 0 := by
    simp only [fld, Nat.shiftRight_eq_div_pow]
    omega
  have hlegal : ¬(0 ≠ 0 ∨ (0x16 ≤ op ∧ rs2 ≠ 0)) := by omega
  simp only [intReg, hw, hlow, hmid, hlegal, Bool.false_eq_true, if_false, false_and, map_sxw_intOp]
  exact map_signExtend_wide h

/-- A legal OP with W = 1: both operands are cut to 32 bits, a shift amount is not. -/
theorem intReg_narrow_of_amount {z : BitVec 32} (hop : op < 64) (hrs : 0x16 ≤ op → rs2 = 0)
    (h : intRes 32 op (a.setWidth 32).toNat (if 0x05 ≤ op ∧ op ≤ 0x07 then b.toNat else (b.setWidth 32).toNat) = some z) :
    intReg (op + 0x400) rs2 a b = some (z.signExtend 64) := by
  have hw : (op + 0x400).testBit 10 = true := by
    rw [Nat.add_comm]
    exact (Nat.testBit_two_pow_add_eq op 10).trans (by rw [Nat.testBit_lt_two_pow (by omega)]; rfl)
  have hlow : fld (op + 0x400) 5 0 = op := by
    simp only [fld, Nat.shiftRight_eq_div_pow]
    omega
  have hmid : fld (op + 0x400) 9 6 = 0 := by
    simp only [fld, Nat.shiftRight_eq_div_pow]
    omega
  have hlegal : ¬(0 ≠ 0 ∨ (0x16 ≤ op ∧ rs2 ≠ 0)) := by omega
  simp only [intReg, hw, hlow, hmid, hlegal, if_true, if_false, true_and, ite_not, map_sxw_intOp]
  exact map_signExtend_narrow h

theorem intReg_narrow {z : BitVec 32} (h : intRes 32 op (a.setWidth 32).toNat (b.setWidth 32).toNat = some z)
    (hop : op < 64 ∧ ¬(0x05 ≤ op ∧ op ≤ 0x07) := by decide) (hrs : 0x16 ≤ op → rs2 = 0 := by omega) :
    intReg (op + 0x400) rs2 a b = some (z.signExtend 64) :=
  intReg_narrow_of_amount hop.1 hrs (by rwa [if_neg hop.2])

theorem intReg_narrow_shift {z : BitVec 32} (h : intRes 32 op (a.setWidth 32).toNat b.toNat = some z)
    (hop : 0x05 ≤ op ∧ op ≤ 0x07 := by decide) : intReg (op + 0x400) rs2 a b = some (z.signExtend 64) :=
  intReg_narrow_of_amount (by omega) (by omega) (by rwa [if_pos hop])

/-- A comparison with W = 1 writes 1 or 0. -/
theorem intReg_narrow_flag {c : Bool} (h : intRes 32 op (a.setWidth 32).toNat (b.setWidth 32).toNat = some (if c then 1 else 0))
    (hop : op < 64 ∧ ¬(0x05 ≤ op ∧ op ≤ 0x07) := by decide) (hrs : 0x16 ≤ op → rs2 = 0 := by omega) :
    intReg (op + 0x400) rs2 a b = some (if c then 1 else 0) := by
  rw [intReg_narrow h hop hrs]
  cases c <;> rfl

end

/-! ### Counts and the corners of R165 -/

section
variable {a b : Word}

theorem signExtend_ofNat_of_lt {n : Nat} (h : n < 2 ^ 31) : (BitVec.ofNat 32 n).signExtend 64 = BitVec.ofNat 64 n := by
  rw [BitVec.signExtend_eq_setWidth_of_msb_false]
  · apply BitVec.eq_of_toNat_eq
    simp only [BitVec.toNat_setWidth, BitVec.toNat_ofNat]
    omega
  · rw [BitVec.msb_eq_false_iff_two_mul_lt, BitVec.toNat_ofNat]
    omega

/-- A count of bits, legal with rs2 = 0, is at most the width, so its sign extension is itself. -/
theorem intReg_count {op : Nat} {f : Nat → Nat → Nat} (hf : ∀ k A B, intOp k op A B = some (f k (A % 2 ^ k) : Nat)) (hle : ∀ k m, f k m ≤ k)
    (hop : 0x16 ≤ op ∧ op < 64) (w : Bool) :
    intReg (if w then 0x400 + op else op) 0 a b = some (BitVec.ofNat 64 (f (if w then 32 else 64) (a.toNat % 2 ^ if w then 32 else 64))) := by
  have hres : ∀ k B, intRes k op a.toNat B = some (BitVec.ofNat k (f k (a.toNat % 2 ^ k))) := fun k B =>
    intRes_of_int (hf k a.toNat B) (BitVec.ofInt_natCast k _)
  cases w with
  | false => exact intReg_wide (hres 64 b.toNat) hop.2 fun _ => rfl
  | true =>
    have hnarrow : intRes 32 op (a.setWidth 32).toNat (b.setWidth 32).toNat = some (BitVec.ofNat 32 (f 32 (a.toNat % 2 ^ 32))) := by
      rw [BitVec.toNat_setWidth, intRes_low]
      exact hres 32 _
    have hlt : f 32 (a.toNat % 2 ^ 32) < 2 ^ 31 := lt_of_le_of_lt (hle 32 _) (by decide)
    simp only [if_true, Nat.add_comm 0x400]
    rw [intReg_narrow hnarrow ⟨hop.2, by omega⟩ fun _ => rfl, signExtend_ofNat_of_lt hlt]

/-- LZC counts the zeros above the highest 1. -/
theorem intReg_lzc (w : Bool) :
    let bits := if w then 32 else 64
    ∃ n, intReg (if w then 0x400 + 0x16 else 0x16) 0 a b = some (BitVec.ofNat 64 n) ∧ n ≤ bits ∧ (∀ i < bits, bits ≤ i + n → a.getLsbD i = false) ∧
      (n < bits → a.getLsbD (bits - 1 - n) = true) := by
  intro bits
  have hm : a.toNat % 2 ^ bits < 2 ^ bits := Nat.mod_lt _ (by positivity)
  refine ⟨_, intReg_count (fun _ _ _ => rfl) leadZeros_le (by decide) w, leadZeros_le _ _, fun i hi hn => ?_, fun hn => ?_⟩
  · rw [← testBit_low a hi]
    exact testBit_above_leadZeros hm hn
  · rw [← testBit_low (k := bits) a (by omega)]
    exact testBit_at_leadZeros hm hn

/-- TZC counts the zeros below the lowest 1. -/
theorem intReg_tzc (w : Bool) :
    let bits := if w then 32 else 64
    ∃ n, intReg (if w then 0x400 + 0x17 else 0x17) 0 a b = some (BitVec.ofNat 64 n) ∧ n ≤ bits ∧ (∀ i < n, a.getLsbD i = false) ∧
      (n < bits → a.getLsbD n = true) := by
  intro bits
  have hle := trailZeros_le bits (a.toNat % 2 ^ bits)
  refine ⟨_, intReg_count (fun _ _ _ => rfl) trailZeros_le (by decide) w, hle, fun i hi => ?_, fun hn => ?_⟩
  · rw [← testBit_low a (lt_of_lt_of_le hi hle)]
    exact testBit_below_trailZeros hi
  · rw [← testBit_low a hn]
    exact testBit_at_trailZeros hn

/-- POPC counts the ones. -/
theorem intReg_popc (w : Bool) :
    intReg (if w then 0x400 + 0x18 else 0x18) 0 a b = some (BitVec.ofNat 64 ((List.range (if w then 32 else 64)).filter a.getLsbD).length) := by
  rw [intReg_count (fun _ _ _ => rfl) popc_le (by decide) w, popc_eq_length_filter]
  rw [List.filter_congr fun i hi => testBit_low a (List.mem_range.mp hi)]

/-- R165: the overflow of a signed division. -/
theorem intReg_div_overflow (rs2 : Nat) :
    intReg 0x0D rs2 (BitVec.intMin 64) (BitVec.allOnes 64) = some (BitVec.intMin 64) ∧ intReg 0x0F rs2 (BitVec.intMin 64) (BitVec.allOnes 64) = some 0 :=
  ⟨intReg_wide (intRes_div _ _), intReg_wide (intRes_rem _ _)⟩

/-- R165: an amount of 64 or more shifts every bit out. -/
theorem intReg_shift_past_width (rs2 : Nat) (h : 64 ≤ b.toNat) :
    intReg 0x05 rs2 a b = some 0 ∧ intReg 0x06 rs2 a b = some 0 ∧ intReg 0x07 rs2 a b = some (if a.msb then BitVec.allOnes 64 else 0) := by
  refine ⟨?_, ?_, ?_⟩
  · rw [intReg_wide (intRes_sll a b.toNat), BitVec.shiftLeft_eq_zero h]
    rfl
  · rw [intReg_wide (intRes_srl a b.toNat), BitVec.ushiftRight_eq_zero h]
    rfl
  · rw [intReg_wide (intRes_sra a b.toNat), BitVec.sshiftRight, Int.shiftRight_eq_div_pow, Nat.cast_pow, Nat.cast_two, toInt_ediv_two_pow_of_le a _ h]
    rw [BitVec.msb_eq_toInt]
    by_cases hneg : a.toInt < 0
    · rw [if_pos hneg, if_pos (decide_eq_true hneg)]
      rfl
    · rw [if_neg hneg, if_neg (by simpa using hneg)]
      rfl

end

/-! ### Immediates -/

/-- A field of an immediate is the number its bits spell. -/
theorem fld_toNat {w : Nat} (x : BitVec w) (hi lo : Nat) : fld x.toNat hi lo = (x.extractLsb' lo (hi + 1 - lo)).toNat := (BitVec.extractLsb'_toNat ..).symm

theorem immOp_eq (op : ImmOp) (x : Word) (imm : BitVec 16) :
    immOp op x imm = match op with
      | .addi => x + imm.signExtend 64
      | .andi => x &&& imm.signExtend 64
      | .ori => x ||| imm.signExtend 64
      | .xori => x ^^^ imm.signExtend 64
      | .slti => if x.slt (imm.signExtend 64) then 1 else 0 := by
  cases op <;> simp only [immOp, sxw_eq_signExtend, BitVec.slt_eq_decide, decide_eq_true_eq]

theorem longOp_eq (op : LongOp) (x : Word) (imm : BitVec 42) :
    longOp op x imm = match op with
      | .addil => x + imm.signExtend 64
      | .andil => x &&& imm.signExtend 64
      | .oril => x ||| imm.signExtend 64
      | .xoril => x ^^^ imm.signExtend 64 := by
  cases op <;> simp only [longOp, sxw_eq_signExtend]

theorem sxw_lui (imm : BitVec 16) : sxw 32 (imm.toNat * 2 ^ 16) = (imm ++ 0#16).signExtend 64 := by
  rw [← sxw_eq_signExtend, toNat_append_eq_add, BitVec.toNat_ofNat, Nat.zero_mod]
  exact congrArg (sxw 32) (Nat.add_zero _).symm

/-- What a legal SHI writes: bits 15:14 say which shift, bit 13 is W, and the amount is bits 5:0. -/
def shiVal (x : Word) (imm : BitVec 16) : Word :=
  let n := (imm.extractLsb' 0 6).toNat
  match imm.getLsbD 13, (imm.extractLsb' 14 2).toNat with
  | false, 0 => x <<< n
  | false, 1 => x >>> n
  | false, _ => x.sshiftRight n
  | true, 0 => ((x.setWidth 32) <<< n).signExtend 64
  | true, 1 => ((x.setWidth 32) >>> n).signExtend 64
  | true, _ => ((x.setWidth 32).sshiftRight n).signExtend 64

theorem shiOp_eq {imm : BitVec 16} (hk : imm.extractLsb' 14 2 ≠ 3#2) (hz : imm.extractLsb' 6 7 = 0#7) (x : Word) : shiOp x imm = some (shiVal x imm) := by
  have h3 : (imm.extractLsb' 14 2).toNat ≠ 3 := fun h => hk (BitVec.eq_of_toNat_eq h)
  have h4 : (imm.extractLsb' 14 2).toNat < 4 := (imm.extractLsb' 14 2).isLt
  have h0 : (imm.extractLsb' 6 7).toNat = 0 := by rw [hz]; rfl
  have hlegal : ¬((imm.extractLsb' 14 2).toNat = 3 ∨ (imm.extractLsb' 6 7).toNat ≠ 0) := by simp only [h3, h0, ne_eq, not_true, or_self, not_false_eq_true]
  have hw : imm.toNat.testBit 13 = imm.getLsbD 13 := rfl
  simp only [shiOp, fld_toNat, hlegal, if_false, map_sxw_intOp, hw, shiVal]
  generalize (imm.extractLsb' 0 6).toNat = n
  obtain hsll | hsrl | hsra : (imm.extractLsb' 14 2).toNat = 0 ∨ (imm.extractLsb' 14 2).toNat = 1 ∨ (imm.extractLsb' 14 2).toNat = 2 := by omega
  · rw [hsll]
    cases imm.getLsbD 13
    · exact map_signExtend_wide (intRes_sll x n)
    · exact map_signExtend_narrow (intRes_sll (x.setWidth 32) n)
  · rw [hsrl]
    cases imm.getLsbD 13
    · exact map_signExtend_wide (intRes_srl x n)
    · exact map_signExtend_narrow (intRes_srl (x.setWidth 32) n)
  · rw [hsra]
    cases imm.getLsbD 13
    · exact map_signExtend_wide (intRes_sra x n)
    · exact map_signExtend_narrow (intRes_sra (x.setWidth 32) n)

theorem lihOp_eq {imm : BitVec 42} (hz : imm.extractLsb' 22 20 = 0#20) (x : Word) :
    lihOp x imm = some (imm.extractLsb' 0 22 ++ x.extractLsb' 0 42) := by
  have hlegal : ¬(imm.extractLsb' 22 20).toNat ≠ 0 := by simp [hz]
  simp only [lihOp, fld_toNat, hlegal, if_false]
  have hval : (imm.extractLsb' 0 22).toNat * 2 ^ 42 + x.toNat % 2 ^ 42 = (imm.extractLsb' 0 22 ++ x.extractLsb' 0 42).toNat := by
    rw [toNat_append_eq_add, BitVec.extractLsb'_toNat 0 42 x, Nat.shiftRight_zero]
  exact congrArg some ((congrArg (BitVec.ofNat 64) hval).trans (by rw [BitVec.ofNat_toNat, BitVec.setWidth_eq]))

/-! ### The instructions -/

/-- A legal instruction that computes an integer register from registers is done. -/
theorem exec_intDone {d : Dev} {q : List Instr} {a : Agent} {i : Instr} {len w rd : Nat} {ok : Bool} {xs : List Nat}
    {v : (Nat → Word) → Word} {r : Nat → Word} (hx : exec i ⟨d, q⟩ = .next ⟨d.compute a len w ok xs rd fun x _ => xRes (v x), q⟩) (hok : ok = true)
    (h : d.executes a len xs) (hrd : rd < 32) (hv : ∀ th, v (d.reg a th false) = r th) :
    ∃ e, exec i ⟨d, q⟩ = .next ⟨e, q⟩ ∧ d.intDone e a len rd r := by
  obtain rfl : (fun th => v (d.reg a th false)) = r := funext hv
  subst hok
  exact ⟨_, hx, Dev.compute_intDone h hrd⟩

/-- Settles O2: each instruction computes one register (`exec_intDone`), and each operation is its bit-vector counterpart at 64 bits and, with W = 1, at 32. -/
theorem integerInstructionsWriteTheirResult : Obligations.IntegerInstructionsWriteTheirResult := by
  unfold Obligations.IntegerInstructionsWriteTheirResult
  refine ⟨fun a d q rd rs1 rs2 =>
    ⟨fun fn hok h => exec_intDone rfl hok h rd.isLt fun _ => rfl,
      fun op imm h => exec_intDone rfl rfl h rd.isLt fun _ => immOp_eq op _ imm,
      fun imm hk hz h => exec_intDone rfl (Option.isSome_of_eq_some (shiOp_eq hk hz 0)) h rd.isLt fun _ => congrArg (Option.getD · 0) (shiOp_eq hk hz _),
      fun imm h => exec_intDone rfl rfl h rd.isLt fun _ => sxw_lui imm,
      fun imm h => exec_intDone rfl rfl h rd.isLt fun _ => sxw_eq_signExtend imm,
      fun imm hz h => exec_intDone rfl (Option.isSome_of_eq_some (lihOp_eq hz 0)) h rd.isLt fun _ => congrArg (Option.getD · 0) (lihOp_eq hz _),
      fun op imm h => exec_intDone rfl rfl h rd.isLt fun _ => longOp_eq op _ imm⟩, fun rs2 a b => ?_⟩
  intro x y
  refine ⟨intReg_wide (intRes_add a b), intReg_narrow (intRes_add x y), intReg_wide (intRes_sub a b), intReg_narrow (intRes_sub x y),
    intReg_wide (intRes_and a b), intReg_wide (intRes_or a b), intReg_wide (intRes_xor a b), ?_⟩
  refine ⟨intReg_wide (intRes_sll a _), intReg_narrow_shift (intRes_sll x _), intReg_wide (intRes_srl a _), intReg_narrow_shift (intRes_srl x _),
    intReg_wide (intRes_sra a _), intReg_narrow_shift (intRes_sra x _), intReg_wide (intRes_slt a b), intReg_wide (intRes_sltu a b), ?_⟩
  refine ⟨intReg_wide (intRes_mul a b), intReg_narrow (intRes_mul x y), intReg_wide (intRes_mulh a b), intReg_wide (intRes_mulhu a b), ?_⟩
  refine ⟨intReg_wide (intRes_div a b), intReg_narrow (intRes_div x y), intReg_wide (intRes_divu a b), intReg_wide (intRes_rem a b),
    intReg_narrow (intRes_rem x y), intReg_wide (intRes_remu a b), intReg_narrow (intRes_remu x y), ?_⟩
  refine ⟨intReg_wide (intRes_min a b), intReg_wide (intRes_max a b), intReg_wide (intRes_minu a b), intReg_wide (intRes_maxu a b), ?_⟩
  refine ⟨intReg_wide (intRes_andn a b), intReg_narrow (intRes_and x y), intReg_narrow (intRes_or x y), intReg_narrow (intRes_xor x y),
    intReg_narrow (intRes_andn x y), intReg_narrow_flag (intRes_slt x y), intReg_narrow_flag (intRes_sltu x y), ?_⟩
  refine ⟨intReg_narrow (intRes_mulh x y), intReg_narrow (intRes_mulhu x y), intReg_narrow (intRes_divu x y), intReg_narrow (intRes_min x y),
    intReg_narrow (intRes_max x y), intReg_narrow (intRes_minu x y), intReg_narrow (intRes_maxu x y), ?_⟩
  refine ⟨fun w => ⟨intReg_lzc w, intReg_tzc w, intReg_popc w⟩, ?_, intReg_shift_past_width rs2⟩
  rintro rfl rfl
  exact intReg_div_overflow rs2

end Sys2Proof.Machine

/-! Sealed flash: what of flash no operation rewrites but a message of the management port (R297, R298, R304, R405). The lemma `X_sealed` says of
the operation X of the model that it keeps sealed flash; the operations are taken in the order of their definitions, so that each lemma rests on those before it. -/

namespace Sys2Proof.Machine

open Sys2Proof

/-- What of flash only a message of the management port rewrites: all but the event log, which every event adds to, and the
rollback floor, which an image may raise when it is loaded (R305). -/
def Flash.sealed (f : Flash) : Flash := { f with log := [], floor := 0 }

/-- The sealed flash of a package. -/
def Dev.sealed (d : Dev) : Flash := d.flash.sealed

@[simp] theorem Dev.sealed_mk {var now fi start pkg un img fab pwr bell mem tiles wins ingr cores tng tongs keys nextKey parts queues cmds vecs
    cntQ cntP rem hang trace qstrokes corr uncorr out} (d : Dev) :
    (Dev.mk var now fi start pkg un img d.flash fab pwr bell mem tiles wins ingr cores tng tongs keys nextKey parts queues cmds vecs
      cntQ cntP rem hang trace qstrokes corr uncorr out).sealed = d.sealed := by rfl

@[simp] theorem Dev.sealed_mk_log {var now fi start pkg un img fab pwr bell mem tiles wins ingr cores tng tongs keys nextKey parts queues cmds vecs
    cntQ cntP rem hang trace qstrokes corr uncorr out} (d : Dev) (l : List (Nat × Nat × Word)) :
    (Dev.mk var now fi start pkg un img { d.flash with log := l } fab pwr bell mem tiles wins ingr cores tng tongs keys nextKey parts queues cmds vecs
      cntQ cntP rem hang trace qstrokes corr uncorr out).sealed = d.sealed := by rfl

@[simp] theorem Dev.sealed_mk_floor {var now fi start pkg un img fab pwr bell mem tiles wins ingr cores tng tongs keys nextKey parts queues cmds vecs
    cntQ cntP rem hang trace qstrokes corr uncorr out} (d : Dev) (n : Nat) :
    (Dev.mk var now fi start pkg un img { d.flash with floor := n } fab pwr bell mem tiles wins ingr cores tng tongs keys nextKey parts queues cmds vecs
      cntQ cntP rem hang trace qstrokes corr uncorr out).sealed = d.sealed := by rfl

@[simp] theorem Dev.sealed_ite (c : Prop) [Decidable c] (d e : Dev) : (if c then d else e).sealed = if c then d.sealed else e.sealed :=
  apply_ite Dev.sealed c d e

@[simp] theorem Dev.sealed_fst_ite {α : Type} (c : Prop) [Decidable c] (x y : Dev × α) :
    (if c then x else y).1.sealed = if c then x.1.sealed else y.1.sealed := apply_ite (·.1.sealed) c x y

@[simp] theorem Dev.sealed_foldl {α : Type} {f : Dev → α → Dev} (hf : ∀ d x, (f d x).sealed = d.sealed) (l : List α) (d : Dev) :
    (l.foldl f d).sealed = d.sealed := by
  induction l generalizing d with
  | nil => rfl
  | cons x l ih => exact (ih _).trans (hf d x)

theorem Dev.sealed_foldl_fst {α β : Type} {f : Dev × β → α → Dev × β} (hf : ∀ p x, (f p x).1.sealed = p.1.sealed) (l : List α) (p : Dev × β) :
    (l.foldl f p).1.sealed = p.1.sealed := by
  induction l generalizing p with
  | nil => rfl
  | cons x l ih => exact (ih _).trans (hf p x)

/-- A fold that may stop keeps what each of its steps keeps. -/
theorem foldl_bind_keeps {σ α β : Type} (π : σ → β) {f : α → σ → Option σ} (hf : ∀ x s t, f x s = some t → π t = π s) (l : List α) {s t : σ}
    (h : l.foldl (fun o x => o.bind (f x)) (some s) = some t) : π t = π s := by
  induction l generalizing s with
  | nil => exact congrArg π (Option.some.inj h).symm
  | cons x l ih =>
    cases hx : f x s with
    | none =>
      have hnone : ∀ l : List α, l.foldl (fun o x => o.bind (f x)) (none : Option σ) = none := fun l => by induction l with
        | nil => rfl
        | cons y l ih => exact ih
      simp [hx, hnone] at h
    | some u =>
      simp only [List.foldl_cons, Option.bind_some, hx] at h
      exact (ih h).trans (hf x s u hx)

theorem Dev.sealed_getD {o : Option Dev} {d e : Dev} (ho : ∀ x, o = some x → x.sealed = e.sealed) (hd : d.sealed = e.sealed) :
    (o.getD d).sealed = e.sealed := by
  cases o with
  | none => exact hd
  | some x => exact ho x rfl

theorem Dev.ite_sealed {c : Prop} [Decidable c] {d e : Dev} {f : Flash} (hd : d.sealed = f) (he : e.sealed = f) :
    (if c then d else e).sealed = f := by
  split <;> assumption

theorem Dev.sealed_of_flash {d e : Dev} (h : e.flash = d.flash) : e.sealed = d.sealed := by simp [Dev.sealed, h]

theorem Dev.Touched.sealed {d e : Dev} (h : d.Touched e) : e.sealed = d.sealed := Dev.sealed_of_flash h.flash

/-! ### The operations over the package (Machine/Ops.lean) -/

@[simp] theorem Dev.setPart_sealed (d : Dev) (n : Nat) (f : Part → Part) : (d.setPart n f).sealed = d.sealed := by rfl

@[simp] theorem Dev.setQueue_sealed (d : Dev) (k : Nat) (f : Queue → Queue) : (d.setQueue k f).sealed = d.sealed := by rfl

@[simp] theorem Dev.setTile_sealed (d : Dev) (k : Nat) (f : Tile → Tile) : (d.setTile k f).sealed = d.sealed := by rfl

@[simp] theorem Dev.setCore_sealed (d : Dev) (c : Nat) (f : Core → Core) : (d.setCore c f).sealed = d.sealed := by rfl

@[simp] theorem Dev.setServing_sealed (d : Dev) (n : Nat) (f : Tng → Tng) : (d.setServing n f).sealed = d.sealed := by rfl

@[simp] theorem Dev.setBrick_sealed (d : Dev) (p : Nat) (f : Brick → Brick) : (d.setBrick p f).sealed = d.sealed := by rfl

@[simp] theorem Dev.putWin_sealed (d : Dev) (k : Nat) (w : Win) : (d.putWin k w).sealed = d.sealed := by rfl

@[simp] theorem Dev.free_sealed (d : Dev) : d.free.2.sealed = d.sealed := by rfl

@[simp] theorem Dev.emit_sealed (d : Dev) (o : Out) : (d.emit o).sealed = d.sealed := by rfl

@[simp] theorem Dev.sendVec_sealed (d : Dev) (fn v : Nat) : (d.sendVec fn v).sealed = d.sealed := by simp [Dev.sendVec]

@[simp] theorem Dev.raisePkg_sealed (d : Dev) (i : Nat) : (d.raisePkg i).sealed = d.sealed := by simp [Dev.raisePkg]

@[simp] theorem Dev.raiseEvt_sealed (d : Dev) (n e : Nat) : (d.raiseEvt n e).sealed = d.sealed := by simp [Dev.raiseEvt]

@[simp] theorem Dev.pkgErr_sealed (d : Dev) (b : Nat) : (d.pkgErr b).sealed = d.sealed := by simp [Dev.pkgErr]

@[simp] theorem Dev.event_sealed (d : Dev) (code : Nat) (detail : Word) : (d.event code detail).sealed = d.sealed := by simp [Dev.event]

@[simp] theorem Dev.count_sealed (d : Dev) (a : Acct) (e n : Nat) : (d.count a e n).sealed = d.sealed := by
  unfold Dev.count
  (repeat' split) <;> simp

@[simp] theorem Dev.countK_sealed (d : Dev) (a : Acct) (e n : Nat) : (d.countK a e n).sealed = d.sealed := by simp [Dev.countK]

@[simp] theorem Dev.setCmd_sealed (d : Dev) (c : CmdRef) (f : Cmd → Cmd) : (d.setCmd c f).sealed = d.sealed := by rfl

@[simp] theorem Dev.ring_sealed (d : Dev) (ukind unit code : Nat) (c : Option Cmd) (detail : Word) (wctr : Nat) (wyard : Bool) (part : Nat) :
    (d.ring ukind unit code c detail wctr wyard part).sealed = d.sealed := by simp [Dev.ring]

@[simp] theorem Dev.fireDumps_sealed (d : Dev) (part layer oper step : Nat) (r : CmdRef) (node : Option Nat) :
    (d.fireDumps part layer oper step r node).sealed = d.sealed := by rfl

@[simp] theorem Dev.complete_sealed (d : Dev) (r : CmdRef) (status reason : Nat) : (d.complete r status reason).sealed = d.sealed := by
  unfold Dev.complete
  split <;> simp

/-! ### Packets, streams and requests (Machine/Net.lean) -/

@[simp] theorem Dev.setLink_sealed (d : Dev) (r : LinkRef) (f : Link → Link) : (d.setLink r f).sealed = d.sealed := by rfl

@[simp] theorem Dev.drainLink_sealed (d : Dev) (r : LinkRef) : (d.drainLink r).sealed = d.sealed := by
  unfold Dev.drainLink
  split <;> simp

theorem Dev.sendPkt_sealed {d e : Dev} {p : Packet} (h : d.sendPkt p = some e) : e.sealed = d.sealed := by
  unfold Dev.sendPkt at h
  dsimp only at h
  split at h
  · simp at h
  · split at h
    · simp at h
    · obtain rfl := Option.some.inj h
      simp

@[simp] theorem Dev.post_sealed (d : Dev) (dst kind vc jobtag : Nat) (tid : BitVec 16) (addr : Nat) (op : Word) (data : List Byte) :
    (d.post dst kind vc jobtag tid addr op data).sealed = d.sealed := by
  unfold Dev.post
  generalize hp : d.sendPkt _ = r
  cases r with
  | none => rfl
  | some e => exact Dev.sendPkt_sealed hp

theorem Dev.request_sealed {d e : Dev} {n port pkg kind addr : Nat} {op : Word} {data : List Byte} {who : Waiter} {acct : Acct}
    (h : d.request n port pkg kind addr op data who acct = some e) : e.sealed = d.sealed := by
  unfold Dev.request at h
  dsimp only at h
  split at h
  · simp at h
  next x hx =>
    obtain rfl := Option.some.inj h
    simp [Dev.sendPkt_sealed hx]

@[simp] theorem Dev.forget_sealed (d : Dev) (p : Waiter → Bool) : (d.forget p).sealed = d.sealed := by rfl

/-! ### Credit counters and memory (Machine/Store.lean) -/

@[simp] theorem Dev.failReq_sealed (d : Dev) (r : CReq) : (d.failReq r).sealed = d.sealed := by
  unfold Dev.failReq
  split <;> simp

@[simp] theorem Dev.winCfg_sealed (d : Dev) (k : Nat) (v : Word) : (d.winCfg k v).sealed = d.sealed := by simp [Dev.winCfg]

@[simp] theorem Dev.winRing_sealed (d : Dev) (k code n : Nat) : (d.winRing k code n).sealed = d.sealed := by simp [Dev.winRing]

@[simp] theorem Dev.winRelease_sealed (d : Dev) (k n : Nat) : (d.winRelease k n).sealed = d.sealed := by simp [Dev.winRelease]

@[simp] theorem Dev.winWrite_sealed (d : Dev) (k w : Nat) (v : Word) : (d.winWrite k w v).sealed = d.sealed := by
  unfold Dev.winWrite
  split <;> simp

@[simp] theorem Dev.countTier_sealed (d : Dev) (q : Req) (a n : Nat) : (d.countTier q a n).sealed = d.sealed := by simp [Dev.countTier]

@[simp] theorem Dev.read_sealed (d : Dev) (q : Req) (a n : Nat) : (d.read q a n).1.sealed = d.sealed := by
  unfold Dev.read
  (repeat' split) <;> simp

@[simp] theorem Dev.write_sealed (d : Dev) (q : Req) (a : Nat) (bs : List Byte) : (d.write q a bs).sealed = d.sealed := by
  unfold Dev.write
  (repeat' split) <;> simp

@[simp] theorem Dev.hostRead_sealed (d : Dev) (q : Req) (bus n : Nat) : (d.hostRead q bus n).1.sealed = d.sealed := by simp [Dev.hostRead]

@[simp] theorem Dev.hostWrite_sealed (d : Dev) (q : Req) (bus : Nat) (bs : List Byte) : (d.hostWrite q bus bs).sealed = d.sealed := by
  simp [Dev.hostWrite]

@[simp] theorem Dev.sawBad_sealed (d : Dev) (q : Acct) (tile : Bool) (a : Nat) : (d.sawBad q tile a).sealed = d.sealed := by
  unfold Dev.sawBad
  split <;> simp

/-! ### Translation, checked accesses and the fault ring (Machine/Xlat.lean) -/

@[simp] theorem walkGo_sealed (q : Req) (lo : Nat) (tok : Nat → Option Nat) (va : Nat) (lvs : List Nat) (tbl : Nat) (d : Dev) :
    (walkGo q lo tok va lvs tbl d).1.sealed = d.sealed := (Dev.touched_walkGo q lo tok va lvs tbl d).sealed

@[simp] theorem Dev.walkE_sealed (d : Dev) (n va : Nat) (acct : Acct) : (d.walkE n va acct).1.sealed = d.sealed := by
  unfold Dev.walkE
  dsimp only
  (repeat' split) <;> simp

@[simp] theorem Dev.xlateE_sealed (d : Dev) (n va : Nat) (acct : Acct) : (d.xlateE n va acct).1.sealed = d.sealed := by
  unfold Dev.xlateE
  dsimp only
  (repeat' split) <;> simp

@[simp] theorem Dev.wantWake_sealed (d : Dev) (a : Nat) : (d.wantWake a).sealed = d.sealed := by
  unfold Dev.wantWake
  split <;> simp

@[simp] theorem Dev.heatPage_sealed (d : Dev) (n va a : Nat) : (d.heatPage n va a).sealed = d.sealed := by simp [Dev.heatPage]

@[simp] theorem Dev.accE_sealed (d : Dev) (n va len : Nat) (write : Bool) (acct : Acct) : (d.accE n va len write acct).1.sealed = d.sealed := by
  unfold Dev.accE
  dsimp only
  (repeat' split) <;> simp

@[simp] theorem Dev.accRange_sealed (n : Nat) (write : Bool) (acct : Acct) (l : List (Nat × Nat)) (d : Dev) :
    (Dev.accRange n write acct l d).1.sealed = d.sealed := (Dev.touched_accRange n write acct l d).sealed

@[simp] theorem Dev.readAll_sealed (q : Req) (l : List (Acc × Nat)) (d : Dev) : (Dev.readAll q l d).1.sealed = d.sealed := by
  induction l generalizing d with
  | nil => rfl
  | cons x l ih =>
    unfold Dev.readAll
    rw [ih]
    split <;> simp

@[simp] theorem Dev.writeAll_sealed (q : Req) (l : List (Acc × Nat)) (bs : List Byte) (d : Dev) : (Dev.writeAll q l bs d).sealed = d.sealed := by
  induction l generalizing bs d with
  | nil => rfl
  | cons x l ih =>
    unfold Dev.writeAll
    rw [ih]
    split <;> simp

@[simp] theorem Dev.badWr_sealed (d : Dev) (k : Nat) : (d.badWr k).sealed = d.sealed := by rfl

@[simp] theorem Dev.farAmo_sealed (d : Dev) (q : Req) (a : Acc) (bytes : Nat) (f : Nat → Option Nat) (core : Option Nat) :
    (d.farAmo q a bytes f core).1.sealed = d.sealed := by
  unfold Dev.farAmo
  dsimp only
  (repeat' split) <;> simp

@[simp] theorem Dev.nearAmo_sealed (d : Dev) (core kid a bytes : Nat) (f : Nat → Option Nat) :
    (d.nearAmo core kid a bytes f).1.sealed = d.sealed := by rfl

@[simp] theorem Dev.walkA_sealed (d : Dev) (core va : Nat) : (d.walkA core va).1.sealed = d.sealed := by simp [Dev.walkA]

@[simp] theorem Dev.accA_sealed (d : Dev) (core va len kind : Nat) : (d.accA core va len kind).1.sealed = d.sealed := by
  unfold Dev.accA
  dsimp only
  (repeat' split) <;> simp

@[simp] theorem Dev.readA_sealed (d : Dev) (core : Nat) (a : Acc) (cached : Bool) (n : Nat) : (d.readA core a cached n).1.sealed = d.sealed := by
  unfold Dev.readA
  split <;> simp

@[simp] theorem Dev.writeA_sealed (d : Dev) (core : Nat) (a : Acc) (cached : Bool) (bs : List Byte) :
    (d.writeA core a cached bs).1.sealed = d.sealed := by
  unfold Dev.writeA
  (repeat' split) <;> simp

@[simp] theorem Dev.faultEntry_sealed (d : Dev) (n rtype : Nat) (body : List Byte) (pf : Bool) (layer : Nat) (addr : Word) :
    (d.faultEntry n rtype body pf layer addr).sealed = d.sealed := by
  unfold Dev.faultEntry
  dsimp only
  (repeat' split) <;> simp

@[simp] theorem Dev.xferFault_sealed (d : Dev) (c : Cmd) (va : Nat) (parked side : Bool) (kind row fgen : Nat) :
    (d.xferFault c va parked side kind row fgen).sealed = d.sealed := by simp [Dev.xferFault]

@[simp] theorem Dev.kernelFault_sealed (d : Dev) (c : Cmd) (k : KFault) : (d.kernelFault c k).sealed = d.sealed := by simp [Dev.kernelFault]

/-! ### The life of a command (Machine/Cmds.lean) -/

@[simp] theorem Dev.start_sealed {k : Cmd → Dev → Dev} (hk : ∀ c e, (k c e).sealed = e.sealed) (d : Dev) (r : CmdRef) (op : Nat) :
    (d.start_ r op k).sealed = d.sealed := by
  unfold Dev.start_
  split <;> simp [hk]

@[simp] theorem Dev.partFault_sealed (d : Dev) (n : Nat) : (d.partFault n).sealed = d.sealed := by simp [Dev.partFault]

@[simp] theorem Dev.writeRank_sealed (d : Dev) (k : Nat) (t : Task) : (d.writeRank k t).sealed = d.sealed := by rfl

@[simp] theorem Dev.setTasks_sealed (d : Dev) (r : CmdRef) (p : TRun → Bool) (f : TRun → TRun) : (d.setTasks r p f).sealed = d.sealed := by rfl

@[simp] theorem Dev.stopTile_sealed (d : Dev) (k : Nat) : (d.stopTile k).sealed = d.sealed := by rfl

@[simp] theorem Dev.withdraw_sealed (d : Dev) (p : Task → Bool) : (d.withdraw p).sealed = d.sealed := by rfl

@[simp] theorem Dev.stopTasks_sealed (d : Dev) (p : Task → Bool) : (d.stopTasks p).sealed = d.sealed := by simp [Dev.stopTasks]

@[simp] theorem Dev.failCmd_sealed (d : Dev) (r : CmdRef) (status : Nat) (f : Option KFault) : (d.failCmd r status f).sealed = d.sealed := by
  unfold Dev.failCmd
  (repeat' split) <;> simp

@[simp] theorem Dev.rerun_sealed (d : Dev) (r : CmdRef) (p : Task → Bool) : (d.rerun r p).sealed = d.sealed := by
  unfold Dev.rerun
  split <;> simp

@[simp] theorem Dev.xferError_sealed (d : Dev) (r : CmdRef) (a : Nat) : (d.xferError r a).sealed = d.sealed := by
  unfold Dev.xferError
  split <;> simp

/-! ### Instruction trace (Machine/Trace.lean) -/

@[simp] theorem Dev.traceRaw_sealed (d : Dev) (n : Nat) (bs : List Byte) : (d.traceRaw n bs).sealed = d.sealed := by simp [Dev.traceRaw]

@[simp] theorem Dev.srcRec_sealed (d : Dev) (n key typ info data : Nat) : (d.srcRec n key typ info data).sealed = d.sealed := by simp [Dev.srcRec]

@[simp] theorem Dev.flushTnt_sealed (d : Dev) (n key : Nat) : (d.flushTnt n key).sealed = d.sealed := by simp [Dev.flushTnt]

@[simp] theorem Dev.sync_sealed (d : Dev) (n key : Nat) (next : Word) : (d.sync n key next).sealed = d.sealed := by simp [Dev.sync]

@[simp] theorem Dev.traceEv_sealed (d : Dev) (key typ info data : Nat) (next : Word) : (d.traceEv key typ info data next).sealed = d.sealed := by
  unfold Dev.traceEv
  split <;> simp

@[simp] theorem Dev.traceBranch_sealed (d : Dev) (key : Nat) (taken : Bool) (next : Word) : (d.traceBranch key taken next).sealed = d.sealed := by
  unfold Dev.traceBranch
  split <;> simp

@[simp] theorem Dev.traceTarget_sealed (d : Dev) (key : Nat) (tgt : Word) : (d.traceTarget key tgt).sealed = d.sealed := by simp [Dev.traceTarget]

@[simp] theorem Dev.traceBegin_sealed (d : Dev) (key : Nat) (pc : Word) : (d.traceBegin key pc).sealed = d.sealed := by
  unfold Dev.traceBegin
  split <;> simp

/-! ### Doorbells, acceptance and completion (Machine/Queues.lean) -/

@[simp] theorem Dev.ringAcc_sealed (d : Dev) (fn va len : Nat) (write : Bool) : (d.ringAcc fn va len write).1.sealed = d.sealed := by
  unfold Dev.ringAcc
  dsimp only
  (repeat' split) <;> simp

@[simp] theorem Dev.ringFault_sealed (d : Dev) (qk va : Nat) (completion : Bool) (layer : Nat) :
    (d.ringFault qk va completion layer).sealed = d.sealed := by simp [Dev.ringFault]

@[simp] theorem Dev.advance_sealed (d : Dev) (qk k : Nat) : (d.advance qk k).sealed = d.sealed := by
  induction k generalizing d with
  | zero => rfl
  | succ k ih => simp [Dev.advance, ih]

@[simp] theorem Dev.clearBank_sealed (d : Dev) (qk : Nat) : (d.clearBank qk).sealed = d.sealed := by rfl

@[simp] theorem Dev.settleQueue_sealed (d : Dev) (qk : Nat) : (d.settleQueue qk).sealed = d.sealed := by simp [Dev.settleQueue]

@[simp] theorem Dev.releaseSlot_sealed (d : Dev) (r : CmdRef) : (d.releaseSlot r).sealed = d.sealed := by simp [Dev.releaseSlot]

@[simp] theorem Dev.queueIrq_sealed (d : Dev) (qk : Nat) : (d.queueIrq qk).sealed = d.sealed := by simp [Dev.queueIrq]

@[simp] theorem Dev.writeRecord_sealed (d : Dev) (r : CmdRef) (drop : Bool) : (d.writeRecord r drop).sealed = d.sealed := by
  unfold Dev.writeRecord
  dsimp only
  (repeat' split) <;> simp

@[simp] theorem Dev.armDump_sealed (d : Dev) (r : CmdRef) : (d.armDump r).sealed = d.sealed := by
  unfold Dev.armDump
  split <;> simp

@[simp] theorem Dev.enroll_sealed (d : Dev) (c : Cmd) : (d.enroll c).sealed = d.sealed := by simp [Dev.enroll]

@[simp] theorem Dev.accept_sealed (d : Dev) (fn : Fin 33) (qn : Fin 64) : (d.accept fn qn).sealed = d.sealed := by
  unfold Dev.accept
  dsimp only
  (repeat' split) <;> simp

@[simp] theorem Dev.doorbell_sealed (d : Dev) (fn qn v : Nat) : (d.doorbell fn qn v).sealed = d.sealed := by simp [Dev.doorbell]

/-! ### Partition reset and starts (Machine/Parts.lean) -/

@[simp] theorem Dev.dropRows_sealed (d : Dev) (r : CmdRef) : (d.dropRows r).sealed = d.sealed :=
  Dev.sealed_foldl (fun d k => by simp) _ d

@[simp] theorem Dev.abort_sealed (d : Dev) (r : CmdRef) (status reason : Nat) : (d.abort r status reason).sealed = d.sealed := by
  unfold Dev.abort
  split <;> simp

@[simp] theorem Dev.clearWins_sealed (d : Dev) (p : Nat → Bool) : (d.clearWins p).sealed = d.sealed := by simp [Dev.clearWins]

@[simp] theorem Dev.clearTile_sealed (d : Dev) (k : Nat) : (d.clearTile k).sealed = d.sealed := by simp [Dev.clearTile]

@[simp] theorem Dev.clearYard_sealed (d : Dev) (u : Nat) : (d.clearYard u).sealed = d.sealed := by simp [Dev.clearYard]

@[simp] theorem Dev.stopCore_sealed (d : Dev) (core : Nat) : (d.stopCore core).sealed = d.sealed := by rfl

@[simp] theorem Dev.newKey_sealed (d : Dev) (kid : Nat) : (d.newKey kid).sealed = d.sealed := by rfl

@[simp] theorem Dev.partReset_sealed (d : Dev) (n reason : Nat) : (d.partReset n reason).sealed = d.sealed := by simp [Dev.partReset]

@[simp] theorem Dev.closeBarriers_sealed (d : Dev) (tag : Nat) : (d.closeBarriers tag).sealed = d.sealed := by rfl

@[simp] theorem Dev.clearPart_sealed (d : Dev) (n : Nat) (flr : Bool) : (d.clearPart n flr).sealed = d.sealed := by simp [Dev.clearPart]

@[simp] theorem Dev.partResetDone_sealed (d : Dev) (n : Nat) : (d.partResetDone n).sealed = d.sealed := by simp [Dev.partResetDone]

@[simp] theorem Dev.partResume_sealed (d : Dev) (n : Nat) : (d.partResume n).sealed = d.sealed := by simp [Dev.partResume]

@[simp] theorem Dev.flr_sealed (d : Dev) (f : Nat) : (d.flr f).sealed = d.sealed := by simp [Dev.flr]

@[simp] theorem Dev.startCore_sealed (d : Dev) (core : Nat) (root pc : Word) (x11 : Option Word) :
    (d.startCore core root pc x11).sealed = d.sealed := by simp [Dev.startCore]

@[simp] theorem Dev.astart_sealed (d : Dev) (n : Nat) (v : Word) : (d.astart n v).sealed = d.sealed := by simp [Dev.astart]

@[simp] theorem Dev.setTown_sealed (d : Dev) (u o : Nat) : (d.setTown u o).sealed = d.sealed := by rfl

set_option maxRecDepth 4000 in
theorem Dev.replaceUnits_cons (u o : Nat) (l : List (Nat × Nat)) (d : Dev) : Dev.replaceUnits ((u, o) :: l) d =
    match d.spareUnit u with | none => none | some v => Dev.replaceUnits l ((d.setTown v o).setTown u 0xFF) := rfl

theorem Dev.replaceUnits_sealed {l : List (Nat × Nat)} {d e : Dev} (h : Dev.replaceUnits l d = some e) : e.sealed = d.sealed := by
  induction l generalizing d with
  | nil =>
    change some d = some e at h
    exact congrArg Dev.sealed (Option.some.inj h).symm
  | cons x l ih =>
    obtain ⟨u, o⟩ := x
    rw [Dev.replaceUnits_cons] at h
    split at h
    · cases h
    · exact (ih h).trans (by simp)

@[simp] theorem Dev.makeWhole_sealed (d : Dev) (lost : List (Nat × List (Nat × Nat))) : (d.makeWhole lost).sealed = d.sealed := by
  refine Dev.sealed_foldl (fun d e => ?_) _ d
  split
  next x hx => simp [Dev.replaceUnits_sealed hx]
  · simp

@[simp] theorem Dev.mark_sealed (d : Dev) (r : CmdRef) : (d.mark r).sealed = d.sealed := by rfl

@[simp] theorem Dev.qReset_sealed (d : Dev) (qk : Nat) : (d.qReset qk).sealed = d.sealed := by simp [Dev.qReset]

@[simp] theorem Dev.qWrite_sealed (d : Dev) (fn qn w : Nat) (v : Word) : (d.qWrite fn qn w v).sealed = d.sealed := by
  unfold Dev.qWrite
  split <;> simp

/-! ### Brick roles and power states of domains (Machine/Roles.lean) -/

@[simp] theorem Dev.changeRole_sealed (d : Dev) (p role : Nat) : (d.changeRole p role).sealed = d.sealed := by
  unfold Dev.changeRole
  dsimp only
  split <;> simp

@[simp] theorem Dev.reqDone_sealed (d : Dev) (err : Bool) : (d.reqDone err).sealed = d.sealed := by simp [Dev.reqDone]

@[simp] theorem Dev.roleChange_sealed (d : Dev) (p role : Nat) : (d.roleChange p role).sealed = d.sealed := by
  unfold Dev.roleChange
  split <;> simp

@[simp] theorem Dev.tngReq_sealed (d : Dev) (v : Word) : (d.tngReq v).sealed = d.sealed := by
  unfold Dev.tngReq
  dsimp only
  (repeat' split) <;> simp

@[simp] theorem Dev.setPstate_sealed (d : Dev) (p : PDom) (s : Nat) : (d.setPstate p s).sealed = d.sealed := by
  unfold Dev.setPstate
  split <;> simp

@[simp] theorem Dev.settleReq_sealed (d : Dev) (p : PDom) : (d.settleReq p).sealed = d.sealed := by simp [Dev.settleReq]

@[simp] theorem Dev.banking_sealed (d : Dev) (p : PDom) : (d.banking p).sealed = d.sealed := by
  unfold Dev.banking
  split <;> simp

@[simp] theorem Dev.banked_sealed (d : Dev) (p : PDom) : (d.banked p).sealed = d.sealed := by simp [Dev.banked]

@[simp] theorem Dev.loseRegion_sealed (d : Dev) (r : Nat) : (d.loseRegion r).sealed = d.sealed := by rfl

@[simp] theorem Dev.coldDom_sealed (d : Dev) (p : PDom) : (d.coldDom p).sealed = d.sealed := by
  unfold Dev.coldDom
  split <;> simp

@[simp] theorem Dev.wake_sealed (d : Dev) (p : PDom) : (d.wake p).sealed = d.sealed := by
  unfold Dev.wake
  dsimp only
  (repeat' split) <;> simp

@[simp] theorem Dev.pwrctl_sealed (d : Dev) (v : Word) : (d.pwrctl v).sealed = d.sealed := by rfl

@[simp] theorem Dev.rebalance_sealed (d : Dev) (n : Nat) : (d.rebalance n).sealed = d.sealed := by
  unfold Dev.rebalance
  dsimp only
  (repeat' split) <;> simp

/-! ### Memory control and invalidation (Machine/MemCtl.lean) -/

@[simp] theorem Dev.hearthCtl_sealed (d : Dev) (v : Word) : (d.hearthCtl v).sealed = d.sealed := by rfl

@[simp] theorem Dev.sramErr_sealed (d : Dev) (v : Word) : (d.sramErr v).sealed = d.sealed := by rfl

@[simp] theorem Dev.hearthFlush_sealed (d : Dev) : d.hearthFlush.sealed = d.sealed := by rfl

@[simp] theorem Dev.hearthFlushDone_sealed (d : Dev) : d.hearthFlushDone.sealed = d.sealed := by simp [Dev.hearthFlushDone]

@[simp] theorem Dev.predClr_sealed (d : Dev) : d.predClr.sealed = d.sealed := by rfl

@[simp] theorem Dev.cohCtl_sealed (d : Dev) (v : Word) : (d.cohCtl v).sealed = d.sealed := by simp [Dev.cohCtl]

@[simp] theorem Dev.setXlat_sealed (d : Dev) (n : Nat) (f : Xlat → Xlat) : (d.setXlat n f).sealed = d.sealed := by rfl

@[simp] theorem Dev.invalidate_sealed (d : Dev) (n : Nat) (v : Word) : (d.invalidate n v).sealed = d.sealed := by simp [Dev.invalidate]

@[simp] theorem Dev.invalidateDone_sealed (d : Dev) (n : Nat) : (d.invalidateDone n).sealed = d.sealed := by simp [Dev.invalidateDone]

@[simp] theorem Dev.xlatWrite_sealed (d : Dev) (n w : Nat) (v : Word) : (d.xlatWrite n w v).sealed = d.sealed := by
  unfold Dev.xlatWrite
  split <;> simp

/-! ### Partial images (Machine/Partial.lean) -/

@[simp] theorem Dev.partialBegin_sealed (d : Dev) (fromMgmt : Bool) (raw : Except ImgErr (List Byte)) :
    (d.partialBegin fromMgmt raw).sealed = d.sealed := by
  unfold Dev.partialBegin
  dsimp only
  split <;> simp

@[simp] theorem Dev.imgGo_sealed (d : Dev) : d.imgGo.sealed = d.sealed := by simp [Dev.imgGo]

@[simp] theorem Dev.imgPctl_sealed (d : Dev) (v : Word) : (d.imgPctl v).sealed = d.sealed := by simp [Dev.imgPctl]

@[simp] theorem Dev.partialEnd_sealed (d : Dev) (state : Nat) : (d.partialEnd state).sealed = d.sealed := by simp [Dev.partialEnd]

@[simp] theorem Dev.partialAbandon_sealed (d : Dev) (checkingOnly : Bool) : (d.partialAbandon checkingOnly).sealed = d.sealed := by
  simp [Dev.partialAbandon]

@[simp] theorem Dev.partialApply_sealed (d : Dev) : d.partialApply.sealed = d.sealed := by
  unfold Dev.partialApply
  (repeat' split) <;> simp

@[simp] theorem Dev.partialGrants_sealed (d : Dev) (st : Struct) (p : Nat) : (d.partialGrants st p).sealed = d.sealed := by simp [Dev.partialGrants]

@[simp] theorem Dev.partialDone_sealed (d : Dev) : d.partialDone.sealed = d.sealed := by
  unfold Dev.partialDone
  split <;> simp

@[simp] theorem Dev.resetComplete_sealed (d : Dev) (n : Nat) : (d.resetComplete n).sealed = d.sealed := by simp [Dev.resetComplete]

/-! ### Traps and interrupts of the Anvil cores (Machine/Anvil.lean) -/

@[simp] theorem Dev.trap_sealed (d : Dev) (core : Nat) (epc : Word) (cause : Nat) (tval : Word) : (d.trap core epc cause tval).sealed = d.sealed := by
  simp [Dev.trap]

@[simp] theorem Dev.takeIrq_sealed (d : Dev) (core : Nat) : (d.takeIrq core).sealed = d.sealed := by
  unfold Dev.takeIrq
  split <;> simp

@[simp] theorem Dev.timerIrq_sealed (d : Dev) (core : Nat) : (d.timerIrq core).sealed = d.sealed := by simp [Dev.timerIrq]

/-! ### Tasks on tiles (Machine/Tasks.lean) -/

@[simp] theorem Dev.dispatch_sealed (d : Dev) (k : Nat) (t : Task) (tries : Nat) : (d.dispatch k t tries).sealed = d.sealed := by simp [Dev.dispatch]

@[simp] theorem Dev.placeTasks_sealed (d : Dev) (r : CmdRef) (ks : List Nat) (mk : Nat → Task) : (d.placeTasks r ks mk).sealed = d.sealed := by
  simp [Dev.placeTasks]

@[simp] theorem Dev.settleKernel_sealed (d : Dev) (r : CmdRef) : (d.settleKernel r).sealed = d.sealed := by
  unfold Dev.settleKernel
  split <;> simp

@[simp] theorem Dev.endTask_sealed (d : Dev) (k status : Nat) (wbound : Bool) : (d.endTask k status wbound).sealed = d.sealed := by
  unfold Dev.endTask
  split <;> simp

@[simp] theorem Dev.endReady_sealed (d : Dev) (t : Task) (k : Nat) : (d.endReady t k).sealed = d.sealed := by simp [Dev.endReady]

@[simp] theorem Dev.replace_sealed (d : Dev) (r : CmdRef) : (d.replace r).sealed = d.sealed := by
  unfold Dev.replace
  split <;> simp

@[simp] theorem Dev.restartNode_sealed (d : Dev) (r : CmdRef) (i : Nat) : (d.restartNode r i).sealed = d.sealed := by
  unfold Dev.restartNode
  split <;> simp

@[simp] theorem Dev.restrike_sealed (d : Dev) (t : Task) : (d.restrike t).sealed = d.sealed := by simp [Dev.restrike]

@[simp] theorem Dev.taskFails_sealed (d : Dev) (t : Task) (status : Nat) (f : Option KFault) : (d.taskFails t status f).sealed = d.sealed := by
  unfold Dev.taskFails
  split <;> simp

@[simp] theorem Dev.tileLost_sealed (d : Dev) (lost : Nat → Bool) (brick : Option Nat) (r : CmdRef) :
    (d.tileLost lost brick r).sealed = d.sealed := by
  unfold Dev.tileLost
  split <;> simp

/-! ### Links, barriers that end early and departures (Machine/Links.lean) -/

@[simp] theorem Dev.barRing_sealed (d : Dev) (i code tag : Nat) : (d.barRing i code tag).sealed = d.sealed := by simp [Dev.barRing]

@[simp] theorem Dev.dropCtx_sealed (d : Dev) (x : BCtx) : (d.dropCtx x).sealed = d.sealed := by simp [Dev.dropCtx]

@[simp] theorem Dev.postRelease_sealed (d : Dev) (x : BCtx) (pkg status : Nat) : (d.postRelease x pkg status).sealed = d.sealed := by
  simp [Dev.postRelease]

@[simp] theorem Dev.endCtxGo_sealed (status k : Nat) (x : BCtx) (d : Dev) : (Dev.endCtxGo status k x d).sealed = d.sealed := by
  induction k generalizing x d with
  | zero => simp [Dev.endCtxGo]
  | succ k ih =>
    unfold Dev.endCtxGo
    dsimp only
    rw [Dev.sealed_foldl fun d p => ?_]
    · simp
    · split
      · split <;> simp [ih]
      · simp

@[simp] theorem Dev.endCtx_sealed (d : Dev) (x : BCtx) (status : Nat) : (d.endCtx x status).sealed = d.sealed := by simp [Dev.endCtx]

@[simp] theorem Dev.lose_sealed (d : Dev) (w : Waiter) : (d.lose w).sealed = d.sealed := by
  unfold Dev.lose
  (repeat' split) <;> simp

@[simp] theorem Dev.loseWaits_sealed (d : Dev) (p : Await → Bool) : (d.loseWaits p).sealed = d.sealed := by simp [Dev.loseWaits]

@[simp] theorem Dev.setPort_sealed (d : Dev) (p : Nat) (f : Port → Port) : (d.setPort p f).sealed = d.sealed := by rfl

@[simp] theorem Dev.settlePort_sealed (d : Dev) (p : Nat) : (d.settlePort p).sealed = d.sealed := by simp [Dev.settlePort]

@[simp] theorem Dev.moveOut_sealed (d : Dev) (r : LinkRef) : (d.moveOut r).sealed = d.sealed := by
  unfold Dev.moveOut
  split
  · rfl
  · exact (Dev.sealed_foldl (fun d p => by split <;> simp) _ _).trans (Dev.setLink_sealed d r _)

@[simp] theorem Dev.settleMaster_sealed (d : Dev) : d.settleMaster.sealed = d.sealed := by simp [Dev.settleMaster]

@[simp] theorem Dev.linkDown_sealed (d : Dev) (r : LinkRef) : (d.linkDown r).sealed = d.sealed := by
  unfold Dev.linkDown
  split <;> simp

@[simp] theorem Dev.departed_sealed (d : Dev) (pkg : Nat) : (d.departed pkg).sealed = d.sealed := by simp [Dev.departed]

@[simp] theorem Dev.routeLost_sealed (d : Dev) (pkg : Nat) : (d.routeLost pkg).sealed = d.sealed := by simp [Dev.routeLost]

@[simp] theorem Dev.sendDepart_sealed (d : Dev) : d.sendDepart.sealed = d.sealed := by simp [Dev.sendDepart]

@[simp] theorem Dev.dropFabric_sealed (d : Dev) : d.dropFabric.sealed = d.sealed := by simp [Dev.dropFabric]

@[simp] theorem Dev.loseAll_sealed (d : Dev) : d.loseAll.sealed = d.sealed := by simp [Dev.loseAll]

@[simp] theorem Dev.departTimeout_sealed (d : Dev) (pkg : Nat) : (d.departTimeout pkg).sealed = d.sealed := by simp [Dev.departTimeout]

@[simp] theorem Dev.laneFailure_sealed (d : Dev) (p l : Nat) : (d.laneFailure p l).sealed = d.sealed := by simp [Dev.laneFailure]

@[simp] theorem Dev.closePort_sealed (d : Dev) (p : Nat) : (d.closePort p).sealed = d.sealed := by simp [Dev.closePort]

/-! ### Units that leave service (Machine/Withdraw.lean) -/

@[simp] theorem Dev.lostAccess_sealed (d : Dev) (at_ win : Nat → Bool) : (d.lostAccess at_ win).sealed = d.sealed :=
  (Dev.sealed_foldl (fun d q => by split <;> simp) _ _).trans (by simp)

@[simp] theorem Dev.siteLost_sealed (d : Dev) (s : Bool × Nat) : (d.siteLost s).sealed = d.sealed := by simp [Dev.siteLost]

@[simp] theorem Dev.effects_sealed (d : Dev) (u : HwUnit) : (d.effects u).sealed = d.sealed := by
  unfold Dev.effects
  split <;> simp

@[simp] theorem Dev.afterwards_sealed (d : Dev) (u : HwUnit) : (d.afterwards u).sealed = d.sealed := by
  unfold Dev.afterwards
  split <;> simp

@[simp] theorem Dev.withdrawUnit_sealed (d : Dev) (u : HwUnit) : (d.withdrawUnit u).sealed = d.sealed := by simp [Dev.withdrawUnit]

@[simp] theorem Dev.withdrawal_sealed (d : Dev) (u : HwUnit) : (d.withdrawal u).sealed = d.sealed := by
  unfold Dev.withdrawal
  split <;> simp

/-! ### Caps, quench and temperatures (Machine/Power.lean) -/

@[simp] theorem Dev.settleAlert_sealed (d : Dev) : d.settleAlert.sealed = d.sealed := by rfl

@[simp] theorem Dev.blank_sealed (d : Dev) : d.blank.sealed = d.sealed := by rfl

@[simp] theorem Dev.railsShut_sealed (d : Dev) (st : Stage) : (d.railsShut st).sealed = d.sealed := by simp [Dev.railsShut]

@[simp] theorem Dev.beginCold_sealed (d : Dev) (cause : Nat) : (d.beginCold cause).sealed = d.sealed := by simp [Dev.beginCold]

@[simp] theorem Dev.quenchShut_sealed (d : Dev) : d.quenchShut.sealed = d.sealed := by simp [Dev.quenchShut]

@[simp] theorem Dev.quench_sealed (d : Dev) (code : Nat) : (d.quench code).sealed = d.sealed := by simp [Dev.quench]

@[simp] theorem Dev.flushVecs_sealed (d : Dev) : d.flushVecs.sealed = d.sealed := by simp [Dev.flushVecs]

@[simp] theorem Dev.applyCap_sealed (d : Dev) (cap slope : Nat) : (d.applyCap cap slope).sealed = d.sealed := by rfl

@[simp] theorem Dev.release_sealed (d : Dev) : d.release.sealed = d.sealed := by
  unfold Dev.release
  dsimp only
  split <;> simp

@[simp] theorem Dev.holdExpiry_sealed (d : Dev) : d.holdExpiry.sealed = d.sealed := by
  unfold Dev.holdExpiry
  split <;> simp

@[simp] theorem Dev.toStep_sealed (d : Dev) (s : Nat) : (d.toStep s).sealed = d.sealed := by rfl

@[simp] theorem Dev.govSample_sealed (d : Dev) (w : Nat) : (d.govSample w).sealed = d.sealed := by simp [Dev.govSample]

@[simp] theorem Dev.govRaise_sealed (d : Dev) (w : Nat) : (d.govRaise w).sealed = d.sealed := by simp [Dev.govRaise]

@[simp] theorem Dev.dwellPeriod_sealed (d : Dev) (dom : Nat) : (d.dwellPeriod dom).sealed = d.sealed := by rfl

@[simp] theorem Dev.headroom_sealed (d : Dev) (unit w : Nat) : (d.headroom unit w).sealed = d.sealed := by simp [Dev.headroom]

@[simp] theorem Dev.converterFails_sealed (d : Dev) (i : Nat) : (d.converterFails i).sealed = d.sealed := by simp [Dev.converterFails]

@[simp] theorem Dev.packageFault_sealed (d : Dev) : d.packageFault.sealed = d.sealed := by simp [Dev.packageFault]

@[simp] theorem Dev.regulatorFails_sealed (d : Dev) (r : RegDom) : (d.regulatorFails r).sealed = d.sealed := by
  unfold Dev.regulatorFails
  (repeat' split) <;> simp

@[simp] theorem Dev.referenceLoss_sealed (d : Dev) : d.referenceLoss.sealed = d.sealed := by simp [Dev.referenceLoss]

@[simp] theorem Dev.thermalStep_sealed (d : Dev) : d.thermalStep.sealed = d.sealed := by
  unfold Dev.thermalStep
  dsimp only
  split <;> simp

@[simp] theorem Dev.stackStep_sealed (d : Dev) (s : Nat) : (d.stackStep s).sealed = d.sealed := by rfl

@[simp] theorem Dev.siteStep_sealed (d : Dev) (s : Nat) : (d.siteStep s).sealed = d.sealed := by rfl

@[simp] theorem Dev.tempSample_sealed (d : Dev) (l : List (Sensor × ℤ)) : (d.tempSample l).sealed = d.sealed := by simp [Dev.tempSample]

@[simp] theorem Dev.shareRecompute_sealed (d : Dev) : d.shareRecompute.sealed = d.sealed := by simp [Dev.shareRecompute]

/-! ### Starts, resets and pins (Machine/Startup.lean) -/

@[simp] theorem Dev.loadImage_sealed (d : Dev) : d.loadImage.sealed = d.sealed := by
  unfold Dev.loadImage
  dsimp only
  split <;> simp

@[simp] theorem Dev.imageValues_sealed (d : Dev) : d.imageValues.sealed = d.sealed := by simp [Dev.imageValues]

theorem Dev.boot_sealed {d e : Dev} (h : d.boot = some e) : e.sealed = d.sealed := by
  unfold Dev.boot at h
  split at h
  · simp at h
  · obtain rfl := Option.some.inj h
    simp

@[simp] theorem Dev.halt_sealed (d : Dev) : d.halt.sealed = d.sealed := by simp [Dev.halt]

@[simp] theorem Dev.railsUp_sealed (d : Dev) : d.railsUp.sealed = d.sealed := by simp [Dev.railsUp]

@[simp] theorem Dev.coldStart_sealed (d : Dev) : d.coldStart.sealed = d.sealed := by
  unfold Dev.coldStart
  dsimp only
  split
  · rfl
  · split
    · simp
    next e he => simp [Dev.boot_sealed he]

@[simp] theorem Dev.selfTest_sealed (d : Dev) (f : List TestFail) : (d.selfTest f).sealed = d.sealed := by simp [Dev.selfTest]

@[simp] theorem Dev.memTrained_sealed (d : Dev) (f : List (Bool × Nat)) : (d.memTrained f).sealed = d.sealed := by simp [Dev.memTrained]

@[simp] theorem Dev.trainLane_sealed (d : Dev) (i : LaneInfo) : (d.trainLane i).sealed = d.sealed := by simp [Dev.trainLane]

@[simp] theorem Dev.trainLanes_sealed (d : Dev) (ls : List LaneInfo) : (d.trainLanes ls).sealed = d.sealed := by simp [Dev.trainLanes]

@[simp] theorem Dev.createParts_sealed (d : Dev) : d.createParts.sealed = d.sealed := by simp [Dev.createParts]

@[simp] theorem Dev.tryReady_sealed (d : Dev) : d.tryReady.sealed = d.sealed := by simp [Dev.tryReady]

@[simp] theorem Dev.fabricTrained_sealed (d : Dev) (ls : List LaneInfo) (peer : Option Nat) : (d.fabricTrained ls peer).sealed = d.sealed := by
  unfold Dev.fabricTrained
  split
  · rfl
  · cases peer <;>
      simp only [Dev.tryReady_sealed, Dev.sealed_mk, Dev.sealed_ite, Dev.createParts_sealed, Dev.trainLanes_sealed, ite_self]

@[simp] theorem Dev.warmReset_sealed (d : Dev) (cause : Nat) : (d.warmReset cause).sealed = d.sealed := by
  unfold Dev.warmReset
  dsimp only
  split
  · rfl
  · split
    · simp
    next e he => simp [Dev.boot_sealed he]

@[simp] theorem Dev.pwrGoodOff_sealed (d : Dev) : d.pwrGoodOff.sealed = d.sealed := by simp [Dev.pwrGoodOff]

@[simp] theorem Dev.pwrGoodOn_sealed (d : Dev) : d.pwrGoodOn.sealed = d.sealed := by rfl

@[simp] theorem Dev.pkgResetPin_sealed (d : Dev) (us : Nat) (released : Bool) : (d.pkgResetPin us released).sealed = d.sealed := by
  simp [Dev.pkgResetPin]

@[simp] theorem Dev.coolantOff_sealed (d : Dev) : d.coolantOff.sealed = d.sealed := by simp [Dev.coolantOff]

@[simp] theorem Dev.coolantOn_sealed (d : Dev) : d.coolantOn.sealed = d.sealed := by simp [Dev.coolantOn]

@[simp] theorem Dev.inputIn_sealed (d : Dev) : d.inputIn.sealed = d.sealed := by simp [Dev.inputIn]

@[simp] theorem Dev.aonLoss_sealed (d : Dev) : d.aonLoss.sealed = d.sealed := by rfl

@[simp] theorem Dev.inputOut_sealed (d : Dev) (mv : ℤ) (us : Nat) : (d.inputOut mv us).sealed = d.sealed := by simp [Dev.inputOut]

@[simp] theorem Dev.perstAssert_sealed (d : Dev) : d.perstAssert.sealed = d.sealed := by simp [Dev.perstAssert]

@[simp] theorem Dev.perstRelease_sealed (d : Dev) : d.perstRelease.sealed = d.sealed := by simp [Dev.perstRelease]

@[simp] theorem Dev.linkSample_sealed (d : Dev) (up : Bool) : (d.linkSample up).sealed = d.sealed := by simp [Dev.linkSample]

@[simp] theorem Dev.tapInsn_sealed (d : Dev) (c : Byte) : (d.tapInsn c).sealed = d.sealed := by simp [Dev.tapInsn]

/-! ### The management port (Machine/Bellows.lean) -/

theorem Dev.bmp_keeps {α : Type} (π : Flash → α) {d : Dev} {k : Dev → Dev × Nat × List Byte} (hk : π (k d).1.flash = π d.flash)
    (h : BmpHdr) (typ : Nat) (hw : Bool) : π (d.bmp h typ hw k).flash = π d.flash := by
  unfold Dev.bmp
  split
  · rfl
  · split
    · rfl
    · dsimp only
      split
      · rfl
      · exact hk

theorem p4_keeps {α : Type} (π : Flash → α) {d : Dev} {k : Dev → Dev × Nat × List Byte} (hk : π (k d).1.flash = π d.flash) :
    π (p4 k d).1.flash = π d.flash := by
  unfold p4
  split
  · rfl
  · exact hk

theorem authed_keeps {α : Type} (π : Flash → α) {d : Dev} {k : Dev → Dev × Nat × List Byte} (hk : π (k d).1.flash = π d.flash) :
    π (authed k d).1.flash = π d.flash := by
  unfold authed
  split
  · rfl
  · exact hk

@[simp] theorem Dev.bmp_sealed {k : Dev → Dev × Nat × List Byte} (hk : ∀ e, (k e).1.sealed = e.sealed) (d : Dev) (h : BmpHdr) (typ : Nat) (hw : Bool) :
    (d.bmp h typ hw k).sealed = d.sealed := bmp_keeps Flash.sealed (hk d) h typ hw

@[simp] theorem p4_sealed {k : Dev → Dev × Nat × List Byte} (hk : ∀ e, (k e).1.sealed = e.sealed) (d : Dev) : (p4 k d).1.sealed = d.sealed :=
  p4_keeps Flash.sealed (hk d)

@[simp] theorem authed_sealed {k : Dev → Dev × Nat × List Byte} (hk : ∀ e, (k e).1.sealed = e.sealed) (d : Dev) : (authed k d).1.sealed = d.sealed :=
  authed_keeps Flash.sealed (hk d)

@[simp] theorem Dev.capSet_sealed (d : Dev) (h : BmpHdr) (cap slope : Nat) : (d.capSet h cap slope).sealed = d.sealed := by simp [Dev.capSet]

@[simp] theorem Dev.capGet_sealed (d : Dev) (h : BmpHdr) : (d.capGet h).sealed = d.sealed := by simp [Dev.capGet]

@[simp] theorem Dev.quenchMsg_sealed (d : Dev) (h : BmpHdr) : (d.quenchMsg h).sealed = d.sealed := by simp [Dev.quenchMsg]

@[simp] theorem Dev.releaseMsg_sealed (d : Dev) (h : BmpHdr) : (d.releaseMsg h).sealed = d.sealed := by simp [Dev.releaseMsg]

@[simp] theorem Dev.telSub_sealed (d : Dev) (h : BmpHdr) (ms : Nat) (dst : BitVec 144) : (d.telSub h ms dst).sealed = d.sealed := by simp [Dev.telSub]

@[simp] theorem Dev.telemetry_sealed (d : Dev) (i : Nat) : (d.telemetry i).sealed = d.sealed := by
  unfold Dev.telemetry
  split <;> simp

@[simp] theorem Dev.slotRead_sealed (d : Dev) (h : BmpHdr) (s : Slot) (off len : Nat) : (d.slotRead h s off len).sealed = d.sealed := by
  simp [Dev.slotRead]

@[simp] theorem Dev.partialMsg_sealed (d : Dev) (h : BmpHdr) (off : Nat) (bs : List Byte) (last : Bool) :
    (d.partialMsg h off bs last).sealed = d.sealed := by simp [Dev.partialMsg]

@[simp] theorem Dev.spdm_sealed (d : Dev) (h : BmpHdr) (bs : List Byte) : (d.spdm h bs).sealed = d.sealed := by simp [Dev.spdm]

@[simp] theorem Dev.jobReset_sealed (d : Dev) (tag scope reason : Nat) : (d.jobReset tag scope reason).sealed = d.sealed := by simp [Dev.jobReset]

@[simp] theorem Dev.resetMsg_sealed (d : Dev) (h : BmpHdr) (k : ResetMsg) : (d.resetMsg h k).sealed = d.sealed := by
  unfold Dev.resetMsg
  split <;> simp

@[simp] theorem Dev.loopback_sealed (d : Dev) (h : BmpHdr) (deep : Bool) (s : Nat) (pass : Bool) : (d.loopback h deep s pass).sealed = d.sealed := by
  simp [Dev.loopback]

@[simp] theorem Dev.logRead_sealed (d : Dev) (h : BmpHdr) (i n : Nat) : (d.logRead h i n).sealed = d.sealed := by simp [Dev.logRead]

@[simp] theorem Dev.shedUpdate_sealed (d : Dev) (load : Nat) (above95 below : Bool) : (d.shedUpdate load above95 below).sealed = d.sealed := by
  simp [Dev.shedUpdate]

@[simp] theorem Dev.loadWrite_sealed (d : Dev) (v : Word) : (d.loadWrite v).sealed = d.sealed := by rfl

@[simp] theorem Dev.watchdog_sealed (d : Dev) : d.watchdog.sealed = d.sealed := by
  unfold Dev.watchdog
  split <;> simp

@[simp] theorem Dev.watchdogEnd_sealed (d : Dev) : d.watchdogEnd.sealed = d.sealed := by
  unfold Dev.watchdogEnd
  split <;> simp

/-! ### Hang captures (Machine/Debug.lean) -/

@[simp] theorem Dev.setDbg_sealed (d : Dev) (n : Nat) (f : Dbg → Dbg) : (d.setDbg n f).sealed = d.sealed := by rfl

@[simp] theorem Dev.captureStart_sealed (d : Dev) (n : Nat) (auto : Bool) : (d.captureStart n auto).sealed = d.sealed := by simp [Dev.captureStart]

@[simp] theorem Dev.hgctlGo_sealed (d : Dev) (n : Nat) : (d.hgctlGo n).sealed = d.sealed := by simp [Dev.hgctlGo]

@[simp] theorem Dev.hangAuto_sealed (d : Dev) (n : Nat) : (d.hangAuto n).sealed = d.sealed := by simp [Dev.hangAuto]

@[simp] theorem Dev.captureEnd_sealed (d : Dev) (n : Nat) : (d.captureEnd n).sealed = d.sealed := by
  unfold Dev.captureEnd
  dsimp only
  split
  · rfl
  · split
    · rfl
    · simp only [Dev.raiseEvt_sealed, Dev.setDbg_sealed]
      exact Dev.sealed_foldl (fun d p => by split <;> simp) _ d

@[simp] theorem Dev.frcfg_sealed (d : Dev) (n : Nat) (v : Word) (act : Bool) : (d.frcfg n v act).sealed = d.sealed := by simp [Dev.frcfg]

@[simp] theorem Dev.trctl_sealed (d : Dev) (n : Nat) (v : Word) (act : Bool) : (d.trctl n v act).sealed = d.sealed := by simp [Dev.trctl]

@[simp] theorem Dev.dbgWrite_sealed (d : Dev) (n w : Nat) (v : Word) (lo hi : Bool) : (d.dbgWrite n w v lo hi).sealed = d.sealed := by
  unfold Dev.dbgWrite
  split <;> simp

/-! ### The register space (Machine/Regs.lean) -/

@[simp] theorem Dev.accessError_sealed (d : Dev) (func off : Nat) (write : Bool) (len : Nat) :
    (d.accessError func off write len).sealed = d.sealed := by simp [Dev.accessError]

@[simp] theorem Dev.pkgWrite_sealed (d : Dev) (o : Nat) (v : Word) : (d.pkgWrite o v).sealed = d.sealed := by simp [Dev.pkgWrite]

@[simp] theorem Dev.partCtl_sealed (d : Dev) (priv : Bool) (n : Nat) (v : Word) : (d.partCtl priv n v).sealed = d.sealed := by simp [Dev.partCtl]

@[simp] theorem Dev.partWrite_sealed (d : Dev) (priv : Bool) (n o : Nat) (v : Word) : (d.partWrite priv n o v).sealed = d.sealed := by
  simp [Dev.partWrite]

@[simp] theorem Dev.msixWrite_sealed (d : Dev) (fn o : Nat) (v : Word) : (d.msixWrite fn o v).sealed = d.sealed := by simp [Dev.msixWrite]

@[simp] theorem Dev.tngWrite_sealed (d : Dev) (n w : Nat) (v : Word) : (d.tngWrite n w v).sealed = d.sealed := by
  unfold Dev.tngWrite
  split <;> simp

@[simp] theorem Dev.settleJob_sealed (d : Dev) : d.settleJob.sealed = d.sealed := by simp [Dev.settleJob]

@[simp] theorem Dev.fabJobrst_sealed (d : Dev) (v : Word) : (d.fabJobrst v).sealed = d.sealed := by simp [Dev.fabJobrst]

@[simp] theorem Dev.fabWrite_sealed (d : Dev) (o : Nat) (v : Word) : (d.fabWrite o v).sealed = d.sealed := by simp [Dev.fabWrite]

@[simp] theorem Dev.regPut_sealed (d : Dev) (v : Option Nat) (o : Nat) (w : Word) (lo hi : Bool) : (d.regPut v o w lo hi).sealed = d.sealed := by
  unfold Dev.regPut
  dsimp only
  split <;> simp

@[simp] theorem Dev.viewRead_sealed (d : Dev) (func : Nat) (v : Option Nat) (off len : Nat) : (d.viewRead func v off len).1.sealed = d.sealed := by
  simp [Dev.viewRead]

@[simp] theorem Dev.viewWrite_sealed (d : Dev) (func : Nat) (v : Option Nat) (off : Nat) (bs : List Byte) :
    (d.viewWrite func v off bs).sealed = d.sealed := by simp [Dev.viewWrite]

@[simp] theorem Dev.regWrite_sealed (d : Dev) (view : View) (off : Nat) (half : Option Bool) (w : Word) :
    (d.regWrite view off half w).sealed = d.sealed := by
  unfold Dev.regWrite
  (repeat' split) <;> simp

@[simp] theorem Dev.regError_sealed (d : Dev) (view : View) (off : Nat) (write : Bool) (len : Nat) :
    (d.regError view off write len).sealed = d.sealed := by simp [Dev.regError]

@[simp] theorem Dev.fetch_sealed (q : Req) (l : List (Acc × Nat)) (d : Dev) : (Dev.fetch q l d).1.sealed = d.sealed := by
  induction l generalizing d with
  | nil => rfl
  | cons x l ih =>
    unfold Dev.fetch
    rw [ih]
    split
    · split <;> simp
    · simp
    · rfl

@[simp] theorem Dev.store_sealed (q : Req) (l : List (Acc × Nat)) (bs : List Byte) (d : Dev) : (Dev.store q l bs d).sealed = d.sealed := by
  induction l generalizing bs d with
  | nil => rfl
  | cons x l ih =>
    unfold Dev.store
    rw [ih]
    split
    · split <;> simp
    · simp
    · rfl

/-! ### Transfers (Machine/Transfers.lean) -/

@[simp] theorem Dev.undefine_sealed (d : Dev) (q : Req) (l : List (Nat × Nat)) : (d.undefine q l).sealed = d.sealed := by simp [Dev.undefine]

@[simp] theorem Dev.setMove_sealed (d : Dev) (r : CmdRef) (f : MoveRun → MoveRun) : (d.setMove r f).sealed = d.sealed := by rfl

@[simp] theorem Dev.settleMove_sealed (d : Dev) (r : CmdRef) : (d.settleMove r).sealed = d.sealed := by
  unfold Dev.settleMove
  dsimp only
  (repeat' split) <;> simp

@[simp] theorem Dev.rowStop_sealed (d : Dev) (r : CmdRef) (f st : Nat) : (d.rowStop r f st).sealed = d.sealed := by simp [Dev.rowStop]

@[simp] theorem Dev.rowFault_sealed (d : Dev) (c : Cmd) (f va : Nat) (side : Bool) (kind : Nat) :
    (d.rowFault c f va side kind).sealed = d.sealed := by simp [Dev.rowFault]

@[simp] theorem Dev.rowWrote_sealed (d : Dev) (r : CmdRef) (row : Nat) : (d.rowWrote r row).sealed = d.sealed := by simp [Dev.rowWrote]

theorem Dev.sendWrites_sealed {d e : Dev} {n port pkg addr : Nat} {bs : List Byte} {who : Waiter} {acct : Acct}
    (h : d.sendWrites n port pkg addr bs who acct = some e) : e.sealed = d.sealed :=
  foldl_bind_keeps Dev.sealed (fun _ _ _ hx => Dev.request_sealed hx) _ h

theorem Dev.sendRow_sealed {d e : Dev} {c : Cmd} {row : Nat} {dst : List (Acc × Nat)} {bs : List Byte} (h : d.sendRow c row dst bs = some e) :
    e.sealed = d.sealed := by
  obtain ⟨p, hp, rfl⟩ := Option.map_eq_some_iff.mp h
  refine foldl_bind_keeps (fun p : Dev × List Byte => p.1.sealed) (fun x p t ht => ?_) _ hp
  split at ht
  · obtain ⟨u, hu, rfl⟩ := Option.map_eq_some_iff.mp ht
    exact Dev.sendWrites_sealed hu
  · exact congrArg (·.1.sealed) (Option.some.inj ht).symm

@[simp] theorem Dev.rowWrite_sealed (d : Dev) (r : CmdRef) (row : Nat) : (d.rowWrite r row).sealed = d.sealed := by
  unfold Dev.rowWrite
  dsimp only
  split
  · rfl
  · split
    · rfl
    · split
      · simp
      · split
        · simp
        · split
          · simp
          · split
            · simp
            next e he => split <;> simp [Dev.sendRow_sealed he]

theorem Dev.sendReads_sealed {d e : Dev} {c : Cmd} {row : Nat} {src : List (Acc × Nat)} (h : d.sendReads c row src = some e) : e.sealed = d.sealed := by
  obtain ⟨p, hp, rfl⟩ := Option.map_eq_some_iff.mp h
  refine foldl_bind_keeps (fun p : Dev × Nat => p.1.sealed) (fun x p t ht => ?_) _ hp
  split at ht
  · obtain ⟨u, hu, rfl⟩ := Option.map_eq_some_iff.mp ht
    exact foldl_bind_keeps Dev.sealed (fun _ _ _ hy => Dev.request_sealed hy) _ hu
  · exact congrArg (·.1.sealed) (Option.some.inj ht).symm

@[simp] theorem Dev.rowDst_sealed (d : Dev) (c : Cmd) (va len : Nat) : (d.rowDst c va len).1.sealed = d.sealed := by
  unfold Dev.rowDst
  dsimp only
  (repeat' split) <;> simp

@[simp] theorem Dev.accAmo_sealed (d : Dev) (n va : Nat) (acct : Acct) : (d.accAmo n va acct).1.sealed = d.sealed := by
  unfold Dev.accAmo
  dsimp only
  (repeat' split) <;> simp

@[simp] theorem Dev.rowCtr_sealed (d : Dev) (c : Cmd) : (d.rowCtr c).1.sealed = d.sealed := by simp [Dev.rowCtr]

@[simp] theorem Dev.startRowAt_sealed (d : Dev) (c : Cmd) (runs : List (Nat × Nat)) (sva dva len : Nat) :
    (d.startRowAt c runs sva dva len).sealed = d.sealed := by
  unfold Dev.startRowAt
  dsimp only
  split
  · simp
  · simp
  · split
    · simp
    · split
      · simp
      · split
        · simp
        · simp
        · split
          · simp
          · split
            · simp
            · simp
            · split
              · simp
              · split
                · simp
                next e he => simp [Dev.sendReads_sealed he]

@[simp] theorem Dev.startRow_sealed (d : Dev) (c : Cmd) : (d.startRow c).sealed = d.sealed := by simp [Dev.startRow]

@[simp] theorem Dev.moveGo_sealed (d : Dev) (r : CmdRef) (op : Nat) : (d.moveGo r op).sealed = d.sealed := by
  have hgo : ∀ e : Dev, (match e.running_ r op with
      | none => e
      | some c => if c.move.stop.isSome ∨ c.move.parked.isSome ∨ c.rows ≤ c.move.next ∨ c.marked ∨ e.snapHeld c then e else e.startRow c).sealed = e.sealed :=
    fun e => by split <;> simp
  unfold Dev.moveGo
  dsimp only
  split
  · split
    · exact Dev.start_sealed (fun c e => (hgo _).trans (by simp)) d r op
    · exact hgo d
  · rfl

@[simp] theorem Dev.rowDelivered_sealed (d : Dev) (r : CmdRef) : (d.rowDelivered r).sealed = d.sealed := by
  unfold Dev.rowDelivered
  dsimp only
  split
  · rfl
  · split
    · rfl
    · split
      · rfl
      · split
        · simp
        · split
          next e he => simp [Dev.request_sealed he]
          · simp
        · split
          · simp
          · split <;> simp

@[simp] theorem Dev.parkTimeout_sealed (d : Dev) (r : CmdRef) : (d.parkTimeout r).sealed = d.sealed := by
  unfold Dev.parkTimeout
  (repeat' split) <;> simp

@[simp] theorem Dev.resumeCmd_sealed (d : Dev) (r : CmdRef) : (d.resumeCmd r).sealed = d.sealed := by
  refine Dev.start_sealed (fun c e => ?_) d r 0x0A
  dsimp only
  split
  · simp
  · split <;> simp

@[simp] theorem Dev.ingrGrant_sealed (d : Dev) (rcv snd blocks : Nat) : (d.ingrGrant rcv snd blocks).sealed = d.sealed := by simp [Dev.ingrGrant]

@[simp] theorem Dev.creditReq_sealed (d : Dev) (r : CmdRef) : (d.creditReq r).sealed = d.sealed := by
  unfold Dev.creditReq
  dsimp only
  split
  · rfl
  · split
    · rfl
    · split
      · rfl
      · split
        · split <;> simp
        · split
          next e he => simp [Dev.request_sealed he]
          · simp
        · simp

@[simp] theorem Dev.creditGrant_sealed (d : Dev) (k : Nat) : (d.creditGrant k).sealed = d.sealed := by
  unfold Dev.creditGrant
  dsimp only
  (repeat' split) <;> simp

@[simp] theorem Dev.landBytes_sealed (d : Dev) (k : Nat) (w : Win) (q : CReq) : (d.landBytes k w q).sealed = d.sealed := by simp [Dev.landBytes]

@[simp] theorem Dev.rowLands_sealed (d : Dev) (k : Nat) : (d.rowLands k).sealed = d.sealed := by
  unfold Dev.rowLands
  dsimp only
  (repeat' split) <;> simp

@[simp] theorem Dev.rowRefused_sealed (d : Dev) (r : CmdRef) (row st : Nat) : (d.rowRefused r row st).sealed = d.sealed := by simp [Dev.rowRefused]

@[simp] theorem Dev.rowBytes_sealed (d : Dev) (r : CmdRef) (row off : Nat) (bs : List Byte) : (d.rowBytes r row off bs).sealed = d.sealed := by
  unfold Dev.rowBytes
  dsimp only
  split <;> simp

@[simp] theorem Dev.rowAnswered_sealed (d : Dev) (r : CmdRef) (row : Nat) : (d.rowAnswered r row).sealed = d.sealed := by
  unfold Dev.rowAnswered
  dsimp only
  split <;> simp

@[simp] theorem Dev.rowGranted_sealed (d : Dev) (r : CmdRef) (row pkg : Nat) (tid : BitVec 16) : (d.rowGranted r row pkg tid).sealed = d.sealed := by
  unfold Dev.rowGranted
  dsimp only
  split
  · rfl
  · split
    · rfl
    · simp only [Dev.sealed_mk, Dev.setMove_sealed]
      exact Dev.sealed_foldl (fun d x => Dev.sealed_getD (fun e he => Dev.sendPkt_sealed he) rfl) _ d

@[simp] theorem Dev.fillGo_sealed (c : Cmd) (l : List (Nat × Nat)) (d : Dev) : (Dev.fillGo c l d).1.sealed = d.sealed := by
  induction l generalizing d with
  | nil => rfl
  | cons x l ih =>
    unfold Dev.fillGo
    dsimp only
    split
    · simp
    · simp
    · simp
    · split
      next e he => simp [ih, Dev.sendWrites_sealed he]
      · simp
    · split
      · simp
      · split <;> simp [ih]

@[simp] theorem Dev.settleFill_sealed (d : Dev) (r : CmdRef) : (d.settleFill r).sealed = d.sealed := by
  unfold Dev.settleFill
  split <;> simp

@[simp] theorem Dev.fill_sealed (d : Dev) (r : CmdRef) : (d.fill r).sealed = d.sealed := by
  unfold Dev.fill
  dsimp only
  split
  · rfl
  · split
    · simp
    · split
      · rfl
      · exact Dev.start_sealed (fun c e => by split <;> simp) d r 0x05

@[simp] theorem Dev.movePage_sealed (d : Dev) (q : Req) (n va leafAt : Nat) (e : Word) (old new : Acc) (newPa : Nat) :
    (d.movePage q n va leafAt e old new newPa).sealed = d.sealed := by
  unfold Dev.movePage
  split <;> simp

@[simp] theorem Dev.prefetchPage_sealed (d : Dev) (r : CmdRef) : (d.prefetchPage r).sealed = d.sealed := by
  unfold Dev.prefetchPage
  split
  · rfl
  next c hc =>
    extract_lets n i va fail next la rd d1 pa host
    have hfail : ∀ e k, (fail e k).sealed = e.sealed := fun e k => by simp only [fail, complete_sealed, xferFault_sealed]
    have hnext : ∀ e, (next e).sealed = e.sealed := fun e => setCmd_sealed e _ _
    have h1 : d1.sealed = d.sealed := read_sealed d _ _ _
    clear_value fail next d1 va host
    split
    · rfl
    · split
      · simp only [complete_sealed]
      · split
        · exact hfail _ _
        · split
          · simp only [xferError_sealed]
          · split
            · split <;> simp only [hfail, xferError_sealed, h1]
            · split
              · simp only [hfail, h1]
              · split
                · simp only [hnext, h1]
                · split
                  · extract_lets olda wait port d2
                    have h2 : d2.sealed = d.sealed := by simp only [d2, sealed_ite, count_sealed, ite_self, h1]
                    clear_value olda wait port d2
                    split
                    · split <;> simp only [wantWake_sealed, h1]
                    · split
                      · simp only [xferError_sealed, h1]
                      · split
                        · simp only [complete_sealed, h1]
                        · simp only [hnext, movePage_sealed, h2]
                  · simp only [hfail, h1]

@[simp] theorem Dev.prefetch_sealed (d : Dev) (r : CmdRef) : (d.prefetch r).sealed = d.sealed := by
  unfold Dev.prefetch
  split <;> simp

@[simp] theorem Dev.advisePage_sealed (d : Dev) (c : Cmd) (va n : Nat) : (d.advisePage c va n).sealed = d.sealed := by
  unfold Dev.advisePage
  dsimp only
  (repeat' split) <;> simp

@[simp] theorem Dev.advise_sealed (d : Dev) (r : CmdRef) : (d.advise r).sealed = d.sealed := by simp [Dev.advise]

@[simp] theorem Dev.bar2Pf_sealed (d : Dev) (off : Nat) (wr : Option (List Byte)) (len : Nat) : (d.bar2Pf off wr len).sealed = d.sealed := by
  unfold Dev.bar2Pf
  extract_lets n unit d1 fail segs l q
  have hfail : fail.sealed = d.sealed := by
    unfold fail
    split <;> simp [d1]
  clear_value fail l segs
  split
  · exact hfail
  · split
    · simp
    · split
      · exact hfail
      · exact (Dev.emit_sealed _ _).trans (Dev.readAll_sealed q l d)

@[simp] theorem Dev.bar2Fault_sealed (d : Dev) (n va kind len : Nat) (wr : Bool) : (d.bar2Fault n va kind len wr).sealed = d.sealed := by
  simp [Dev.bar2Fault]

@[simp] theorem Dev.bar2Vf_sealed (d : Dev) (n off : Nat) (wr : Option (List Byte)) (len : Nat) : (d.bar2Vf n off wr len).sealed = d.sealed := by
  unfold Dev.bar2Vf
  extract_lets bs cnt va acct q x d1
  have h1 : d1.sealed = d.sealed := accRange_sealed _ _ _ _ d
  clear_value d1
  split
  · exact h1
  · simp [h1]
  · split
    · simp [h1]
    · split
      · simp [h1]
      · split
        · simp [h1]
        · extract_lets sent here
          have hsent : ∀ p, sent = some p → p.1.sealed = d.sealed := by
            refine fun p hp => (foldl_bind_keeps (fun p : Dev × Nat => p.1.sealed) (fun x s t ht => ?_) _ hp).trans h1
            obtain ⟨u, hu, rfl⟩ := Option.map_eq_some_iff.mp ht
            split at hu
            · exact foldl_bind_keeps Dev.sealed (fun _ _ _ hy => Dev.request_sealed hy) _ hu
            · exact congrArg Dev.sealed (Option.some.inj hu).symm
          clear_value sent here
          split
          · simp [h1]
          next e m =>
            have he : e.sealed = d.sealed := hsent _ rfl
            dsimp only
            split
            · split <;> simp [he]
            · split <;> simp [he]

@[simp] theorem Dev.bar2_sealed (d : Dev) (f off : Nat) (wr : Option (List Byte)) (len : Nat) : (d.bar2 f off wr len).sealed = d.sealed := by
  simp [Dev.bar2]

/-! ### SIGNAL, WAIT and the commands of synchronization (Machine/Sync.lean) -/

@[simp] theorem Dev.atomicError_sealed (d : Dev) (r : CmdRef) (a : Nat) : (d.atomicError r a).sealed = d.sealed := by
  unfold Dev.atomicError
  split <;> simp

@[simp] theorem Dev.waitRead_sealed (d : Dev) (r : CmdRef) : (d.waitRead r).sealed = d.sealed := by
  unfold Dev.waitRead
  dsimp only
  split
  · rfl
  · split
    · rfl
    · split
      · simp
      · simp
      · simp
      · exact Dev.sealed_getD (fun e he => by simp [Dev.request_sealed he]) (by simp)
      · split <;> simp

@[simp] theorem Dev.waitStart_sealed (d : Dev) (r : CmdRef) : (d.waitStart r).sealed = d.sealed := by simp [Dev.waitStart]

@[simp] theorem Dev.pollAll_sealed (d : Dev) (n : Nat) : (d.pollAll n).sealed = d.sealed := by simp [Dev.pollAll]

@[simp] theorem Dev.signalDone_sealed (d : Dev) (r : CmdRef) : (d.signalDone r).sealed = d.sealed := by
  unfold Dev.signalDone
  split <;> simp

@[simp] theorem Dev.signalAct_sealed (d : Dev) (r : CmdRef) : (d.signalAct r).sealed = d.sealed := by
  unfold Dev.signalAct
  dsimp only
  split
  · rfl
  · split
    · rfl
    · split
      · simp
      · split
        · simp
        · simp
        · simp
        · exact Dev.sealed_getD (fun e he => by simp [Dev.request_sealed he]) (by simp)
        · split
          · simp
          · split <;> simp

@[simp] theorem Dev.signal_sealed (d : Dev) (r : CmdRef) : (d.signal r).sealed = d.sealed := by
  unfold Dev.signal
  split <;> simp

@[simp] theorem Dev.syncResp_sealed (d : Dev) (r : CmdRef) (old : Nat) : (d.syncResp r old).sealed = d.sealed := by
  unfold Dev.syncResp
  split <;> simp

@[simp] theorem Dev.fenceCmd_sealed (d : Dev) (r : CmdRef) : (d.fenceCmd r).sealed = d.sealed := by
  unfold Dev.fenceCmd
  split <;> simp

@[simp] theorem Dev.nopCmd_sealed (d : Dev) (r : CmdRef) : (d.nopCmd r).sealed = d.sealed := by simp [Dev.nopCmd]

@[simp] theorem Dev.cancel_sealed (d : Dev) (r : CmdRef) : (d.cancel r).sealed = d.sealed := by
  unfold Dev.cancel
  split <;> simp

@[simp] theorem Dev.dump_sealed (d : Dev) (r : CmdRef) : (d.dump r).sealed = d.sealed := by simp [Dev.dump]

@[simp] theorem Dev.dumpFire_sealed (d : Dev) (r : CmdRef) : (d.dumpFire r).sealed = d.sealed := by
  unfold Dev.dumpFire
  split <;> simp

@[simp] theorem Dev.markCmd_sealed (d : Dev) (r : CmdRef) : (d.markCmd r).sealed = d.sealed := by simp [Dev.markCmd]

/-! ### Barriers and snapshots (Machine/Barrier.lean) -/

@[simp] theorem Dev.awake_sealed (d : Dev) : d.awake.sealed = d.sealed := by rfl

@[simp] theorem Dev.pushBytes_sealed (d : Dev) (n va : Nat) (bs : List Byte) (acct : Acct) : (d.pushBytes n va bs acct).1.sealed = d.sealed := by
  unfold Dev.pushBytes
  dsimp only
  split
  · simp
  · split
    · simp
    · split
      · simp
      · simp only [Dev.store_sealed]
        exact (Dev.sealed_foldl (fun d p => by split <;> simp) _ _).trans (by simp)

@[simp] theorem Dev.setCtx_sealed (d : Dev) (x : BCtx) (f : BCtx → BCtx) : (d.setCtx x f).sealed = d.sealed := by rfl

@[simp] theorem Dev.postPayload_sealed (d : Dev) (x : BCtx) (pkg tgt off : Nat) (bs : List Byte) :
    (d.postPayload x pkg tgt off bs).sealed = d.sealed := by simp [Dev.postPayload]

@[simp] theorem Dev.payload0_sealed (d : Dev) (tag barid gen off : Nat) (bs : List Byte) : (d.payload0 tag barid gen off bs).sealed = d.sealed := by
  unfold Dev.payload0
  split
  · rfl
  · split
    · rfl
    · extract_lets d1 d2
      have h2 : d2.sealed = d.sealed := by
        refine (Dev.sealed_foldl (fun e r => ?_) _ _).trans (Dev.setCtx_sealed d _ _)
        dsimp only
        split
        · split
          · rfl
          · split <;> simp
        · rfl
      split
      · exact h2
      · split <;> simp [h2]

@[simp] theorem Dev.passed_sealed (d : Dev) (x : BCtx) (n : Nat) : (d.passed x n).sealed = d.sealed := by
  unfold Dev.passed
  dsimp only
  split <;> simp

@[simp] theorem Dev.payload1Down_sealed (d : Dev) (tag barid gen off : Nat) (bs : List Byte) :
    (d.payload1Down tag barid gen off bs).sealed = d.sealed := by
  unfold Dev.payload1Down
  split <;> simp

@[simp] theorem Dev.payload2_sealed (d : Dev) (src tag barid gen off : Nat) (bs : List Byte) :
    (d.payload2 src tag barid gen off bs).sealed = d.sealed := by
  unfold Dev.payload2
  split <;> simp

@[simp] theorem Dev.payload1Up_sealed (d : Dev) (src tag barid gen off : Nat) (bs : List Byte) :
    (d.payload1Up src tag barid gen off bs).sealed = d.sealed := by
  unfold Dev.payload1Up
  split <;> simp

@[simp] theorem Dev.streamPayload_sealed (d : Dev) (x : BCtx) : (d.streamPayload x).sealed = d.sealed := by
  unfold Dev.streamPayload
  dsimp only
  (repeat' split) <;> simp

@[simp] theorem Dev.putGen_sealed (d : Dev) (x : BCtx) : (d.putGen x).sealed = d.sealed := by rfl

@[simp] theorem Dev.releaseCmd_sealed (d : Dev) (r : CmdRef) : (d.releaseCmd r).sealed = d.sealed := by
  unfold Dev.releaseCmd
  split <;> simp

@[simp] theorem Dev.releaseGo_sealed (tag barid gen status k : Nat) (d : Dev) : (Dev.releaseGo tag barid gen status k d).sealed = d.sealed := by
  induction k generalizing d with
  | zero =>
    unfold Dev.releaseGo
    dsimp only
    split
    · rfl
    · split
      · simp
      · split
        · simp
        · split <;> simp
  | succ k ih =>
    unfold Dev.releaseGo
    dsimp only
    split
    · rfl
    · simp [ih]

@[simp] theorem Dev.releaseTop_sealed (d : Dev) (x : BCtx) : (d.releaseTop x).sealed = d.sealed := by simp [Dev.releaseTop]

@[simp] theorem Dev.refuseArr_sealed (d : Dev) (level : Nat) (a : BArr) (w : BWho) : (d.refuseArr level a w).sealed = d.sealed := by
  unfold Dev.refuseArr
  (repeat' split) <;> simp

/-- One arrival at a context of a barrier: it is counted, and the last one releases the context or goes up; `up` is what an arrival at the level above does. -/
def Dev.barJoin (up : BArr → BWho → Dev → Dev) (level : Nat) (a : BArr) (w : BWho) (x : BCtx) (d : Dev) : Dev :=
  let y := match w with
    | .cmd r => { x with got := x.got + 1, bsrc := x.bsrc + a.bsrc, cmds := x.cmds ++ [r] }
    | .pkg p => { x with got := x.got + 1, bsrc := x.bsrc + a.bsrc, pkgs := x.pkgs ++ [p] }
  let full := decide (y.need ≤ y.got) && !y.sent
  let d := d.setCtx x fun _ => { y with sent := y.sent || full }
  if !full then d
  else if level = y.scope then d.releaseTop { y with sent := true }
  else
    let b : BArr := { a with bsrc := y.bsrc }
    let tgt := if level = 0 then a.chlead else a.root
    if tgt = d.fab.pkgid then up b (.pkg tgt) d
    else match d.sendPkt (b.packet d.fab.pkgid (level + 1)) with
      | some d => d
      | none => d.endCtx { y with sent := true } stLinkLost

/-- One level of `Dev.barIn`. -/
def Dev.barLevel (up : BArr → BWho → Dev → Dev) (level : Nat) (a : BArr) (w : BWho) (d : Dev) : Dev :=
  match d.barLook level a with
  | .waits => match w with
    | .cmd r => { d with fab := { d.fab with barWait := d.fab.barWait ++ [r] } }
    | .pkg p => { d with fab := { d.fab with barPkt := d.fab.barPkt ++ [a.packet p level] } }
  | .refused => d.refuseArr level a w
  | .join x => Dev.barJoin up level a w x d
  | .opens =>
    let x := a.open_ level
    let d : Dev := { d with fab := { d.fab with ctxs := d.fab.ctxs ++ [x] } }
    Dev.barJoin up level a w x (d.barRing (d.fab.ctxs.length - 1) 0x06 a.tag)

theorem Dev.barIn_zero (level : Nat) (a : BArr) (w : BWho) (d : Dev) : Dev.barIn 0 level a w d = Dev.barLevel (fun _ _ d => d) level a w d := rfl

theorem Dev.barIn_succ (k level : Nat) (a : BArr) (w : BWho) (d : Dev) : Dev.barIn (k + 1) level a w d = Dev.barLevel (Dev.barIn k (level + 1)) level a w d := rfl

theorem Dev.barJoin_sealed {up : BArr → BWho → Dev → Dev} (hup : ∀ a w e, (up a w e).sealed = e.sealed) (level : Nat) (a : BArr) (w : BWho) (x : BCtx) (d : Dev) :
    (Dev.barJoin up level a w x d).sealed = d.sealed := by
  unfold Dev.barJoin
  extract_lets y full d1 b tgt
  have h1 : d1.sealed = d.sealed := setCtx_sealed d _ _
  clear_value y full d1 b tgt
  split
  · exact h1
  · split
    · exact (releaseTop_sealed _ _).trans h1
    · split
      · exact (hup _ _ _).trans h1
      · split
        next e he => exact (sendPkt_sealed he).trans h1
        · exact (endCtx_sealed _ _ _).trans h1

theorem Dev.barLevel_sealed {up : BArr → BWho → Dev → Dev} (hup : ∀ a w e, (up a w e).sealed = e.sealed) (level : Nat) (a : BArr) (w : BWho) (d : Dev) :
    (Dev.barLevel up level a w d).sealed = d.sealed := by
  unfold Dev.barLevel
  split
  · split <;> simp
  · simp
  · exact barJoin_sealed hup _ _ _ _ _
  · exact (barJoin_sealed hup _ _ _ _ _).trans (by simp)

@[simp] theorem Dev.barIn_sealed (k level : Nat) (a : BArr) (w : BWho) (d : Dev) : (Dev.barIn k level a w d).sealed = d.sealed := by
  induction k generalizing level a w d with
  | zero =>
    rw [barIn_zero]
    exact barLevel_sealed (fun _ _ _ => rfl) level a w d
  | succ k ih =>
    rw [barIn_succ]
    exact barLevel_sealed (ih (level + 1)) level a w d

@[simp] theorem Dev.arriveCmd_sealed (d : Dev) (r : CmdRef) : (d.arriveCmd r).sealed = d.sealed := by
  unfold Dev.arriveCmd
  split <;> simp

@[simp] theorem Dev.arrivePkt_sealed (d : Dev) (p : Packet) : (d.arrivePkt p).sealed = d.sealed := by simp [Dev.arrivePkt]

@[simp] theorem Dev.barRetry_sealed (d : Dev) : d.barRetry.sealed = d.sealed := by simp [Dev.barRetry]

@[simp] theorem Dev.releasePkt_sealed (d : Dev) (p : Packet) : (d.releasePkt p).sealed = d.sealed := by simp [Dev.releasePkt]

@[simp] theorem Dev.bcastPkt_sealed (d : Dev) (p : Packet) : (d.bcastPkt p).sealed = d.sealed := by
  unfold Dev.bcastPkt
  split <;> simp

@[simp] theorem Dev.barrier_sealed (d : Dev) (r : CmdRef) : (d.barrier r).sealed = d.sealed := by simp [Dev.barrier]

@[simp] theorem Dev.snapDrained_sealed (d : Dev) (r : CmdRef) : (d.snapDrained r).sealed = d.sealed := by
  unfold Dev.snapDrained
  split <;> simp

@[simp] theorem Dev.snapCopy_sealed (d : Dev) (c : Cmd) : (d.snapCopy c).sealed = d.sealed := by
  unfold Dev.snapCopy
  dsimp only
  (repeat' split) <;> simp

@[simp] theorem Dev.snapshot_sealed (d : Dev) (r : CmdRef) : (d.snapshot r).sealed = d.sealed := by
  unfold Dev.snapshot
  split <;> simp

/-! ### KERNEL commands and the units of a tile (Machine/Kernel.lean) -/

@[simp] theorem Dev.kernel_sealed (d : Dev) (r : CmdRef) : (d.kernel r).sealed = d.sealed := by simp [Dev.kernel]

@[simp] theorem Dev.placement_sealed (d : Dev) (r : CmdRef) : (d.placement r).sealed = d.sealed := by
  unfold Dev.placement
  (repeat' split) <;> simp

@[simp] theorem Dev.toSlag_sealed (d : Dev) (m : Msg) : (d.toSlag m).sealed = d.sealed := by simp [Dev.toSlag]

@[simp] theorem Dev.dispatchArrival_sealed (d : Dev) (t : TileRef) : (d.dispatchArrival t).sealed = d.sealed := by
  unfold Dev.dispatchArrival
  (repeat' split) <;> simp

@[simp] theorem Dev.arbiterGrant_sealed (d : Dev) (t : TileRef) : (d.arbiterGrant t).sealed = d.sealed := by
  unfold Dev.arbiterGrant
  dsimp only
  split <;> simp

@[simp] theorem Dev.unit_sealed (d : Dev) (k : Nat) (f : Tile → Tile) : (d.unit k f).sealed = d.sealed := by
  unfold Dev.unit
  dsimp only
  (repeat' split) <;> simp

@[simp] theorem Dev.selfTestTile_sealed (d : Dev) (t : TileRef) (pass : Bool) : (d.selfTestTile t pass).sealed = d.sealed := by
  simp [Dev.selfTestTile]

@[simp] theorem Dev.cbarComplete_sealed (d : Dev) (t : TileRef) : (d.cbarComplete t).sealed = d.sealed := by
  unfold Dev.cbarComplete
  dsimp only
  (repeat' split) <;> simp

@[simp] theorem Dev.taskEnd_sealed (d : Dev) (r : TileRef) : (d.taskEnd r).sealed = d.sealed := by
  unfold Dev.taskEnd
  dsimp only
  (repeat' split) <;> simp

/-! ### Fetch, exceptions and registers (Machine/Operands.lean) -/

@[simp] theorem Dev.setGrp_sealed (d : Dev) (t : TileRef) (g : Fin 8) (f : Group → Group) : (d.setGrp t g f).sealed = d.sealed := by rfl

@[simp] theorem Dev.raise_sealed (d : Dev) (a : Agent) (th : Nat) (e : Exc) : (d.raise a th e).sealed = d.sealed := by
  unfold Dev.raise
  (repeat' split) <;> simp

theorem Dev.fetchWord_sealed {d e : Dev} {a : Agent} {va : Nat} (h : d.fetchWord a va = some (.inl e)) : e.sealed = d.sealed := by
  unfold Dev.fetchWord at h
  extract_lets w pick at h
  have hpick : ∀ x y, y.sealed = d.sealed → pick x y = some (.inl e) → e.sealed = d.sealed := by
    intro x y hy hp
    unfold pick at hp
    cases x with
    | bad k => simp at hp
    | wait => simp_all
    | loc p => simp at hp
    | host b => simp at hp
    | remote k p => simp at hp
  clear_value pick
  cases a with
  | anvil c =>
    dsimp only at h
    split at h
    · simp at h
    · exact hpick _ _ (by simp) h
  | smith t =>
    dsimp only at h
    split at h
    · simp at h
    · split at h
      · simp at h
      · exact hpick _ _ (by simp) h
  | group t g =>
    dsimp only at h
    split at h
    · simp at h
    · split at h
      · simp at h
      · exact hpick _ _ (by simp) h

theorem Dev.fetchStop_sealed {d e : Dev} {a : Agent} {len : Nat} (h : d.fetchStop a len = some (.inl e)) : e.sealed = d.sealed := by
  unfold Dev.fetchStop at h
  dsimp only at h
  split at h
  · simp at h
  · split at h
    next x hx => exact Dev.fetchWord_sealed (hx.trans h)
    · split at h
      · exact Dev.fetchWord_sealed h
      · simp at h

@[simp] theorem Dev.insn_sealed {k : Dev → Dev} (hk : ∀ e, (k e).sealed = e.sealed) (d : Dev) (a : Agent) (len : Nat) :
    (d.insn a len k).sealed = d.sealed := by
  unfold Dev.insn
  split
  · rfl
  · split
    next w hw => exact Dev.fetchStop_sealed hw
    · simp
    · rw [hk]
      cases a <;> simp

@[simp] theorem Dev.goto_sealed (d : Dev) (a : Agent) (pc : Word) : (d.goto a pc).sealed = d.sealed := by
  unfold Dev.goto
  split <;> simp

@[simp] theorem Dev.countInsn_sealed (d : Dev) (x : Agent) : (d.countInsn x).sealed = d.sealed := by
  unfold Dev.countInsn
  split <;> simp

@[simp] theorem Dev.next_sealed (d : Dev) (a : Agent) (len : Nat) : (d.next a len).sealed = d.sealed := by simp [Dev.next]

@[simp] theorem Dev.setReg_sealed (d : Dev) (a : Agent) (th : Nat) (flt : Bool) (r : Nat) (v : Word) : (d.setReg a th flt r v).sealed = d.sealed := by
  unfold Dev.setReg
  split <;> simp

@[simp] theorem Dev.addFlags_sealed (d : Dev) (a : Agent) (fl : Nat) : (d.addFlags a fl).sealed = d.sealed := by
  unfold Dev.addFlags
  split <;> simp

@[simp] theorem Dev.compute_sealed (d : Dev) (a : Agent) (len w : Nat) (ok : Bool) (xs : List Nat) (rd : Nat) (f : (Nat → Word) → (Nat → Word) → FRes) :
    (d.compute a len w ok xs rd f).sealed = d.sealed := by simp [Dev.compute]

/-! ### Integer and float instructions (Machine/Scalar.lean) -/

@[simp] theorem Dev.intReg_sealed (d : Dev) (a : Agent) (rd rs1 rs2 fn : Nat) : (d.intReg a rd rs1 rs2 fn).sealed = d.sealed := by simp [Dev.intReg]

@[simp] theorem Dev.immInsn_sealed (d : Dev) (a : Agent) (op : ImmOp) (rd rs1 : Nat) (imm : BitVec 16) :
    (d.immInsn a op rd rs1 imm).sealed = d.sealed := by simp [Dev.immInsn]

@[simp] theorem Dev.shi_sealed (d : Dev) (a : Agent) (rd rs1 : Nat) (imm : BitVec 16) : (d.shi a rd rs1 imm).sealed = d.sealed := by simp [Dev.shi]

@[simp] theorem Dev.lui_sealed (d : Dev) (a : Agent) (rd rs1 : Nat) (imm : BitVec 16) : (d.lui a rd rs1 imm).sealed = d.sealed := by simp [Dev.lui]

@[simp] theorem Dev.li_sealed (d : Dev) (a : Agent) (rd rs1 : Nat) (imm : BitVec 42) : (d.li a rd rs1 imm).sealed = d.sealed := by simp [Dev.li]

@[simp] theorem Dev.lih_sealed (d : Dev) (a : Agent) (rd rs1 : Nat) (imm : BitVec 42) : (d.lih a rd rs1 imm).sealed = d.sealed := by simp [Dev.lih]

@[simp] theorem Dev.longInsn_sealed (d : Dev) (a : Agent) (op : LongOp) (rd rs1 : Nat) (imm : BitVec 42) :
    (d.longInsn a op rd rs1 imm).sealed = d.sealed := by simp [Dev.longInsn]

@[simp] theorem Dev.fopInsn_sealed (d : Dev) (a : Agent) (rd rs1 rs2 fn : Nat) : (d.fopInsn a rd rs1 rs2 fn).sealed = d.sealed := by
  simp [Dev.fopInsn]

@[simp] theorem Dev.fmaInsn_sealed (d : Dev) (a : Agent) (rd rs1 rs2 rs3 fn : Nat) : (d.fmaInsn a rd rs1 rs2 rs3 fn).sealed = d.sealed := by
  simp [Dev.fmaInsn]

@[simp] theorem Dev.taken_sealed (d : Dev) (a : Agent) (op : BrOp) (rs1 rs2 : Nat) : (d.taken a op rs1 rs2).1.sealed = d.sealed := by
  unfold Dev.taken
  dsimp only
  split <;> simp

@[simp] theorem Dev.branch_sealed (d : Dev) (a : Agent) (op : BrOp) (rs1 rs2 : Nat) (off : BitVec 16) :
    (d.branch a op rs1 rs2 off).sealed = d.sealed := by
  unfold Dev.branch
  split <;> simp

@[simp] theorem Dev.jump_sealed (d : Dev) (a : Agent) (len rd : Nat) (tgt : Word) : (d.jump a len rd tgt).sealed = d.sealed := by simp [Dev.jump]

@[simp] theorem Dev.jl_sealed (d : Dev) (a : Agent) (rd : Nat) (off : BitVec 21) : (d.jl a rd off).sealed = d.sealed := by simp [Dev.jl]

@[simp] theorem Dev.jlr_sealed (d : Dev) (a : Agent) (rd rs1 : Nat) (imm : BitVec 16) : (d.jlr a rd rs1 imm).sealed = d.sealed := by
  unfold Dev.jlr
  (repeat' split) <;> simp

@[simp] theorem Dev.jll_sealed (d : Dev) (a : Agent) (rd rs1 : Nat) (imm : BitVec 42) : (d.jll a rd rs1 imm).sealed = d.sealed := by simp [Dev.jll]

@[simp] theorem Dev.fenceInsn_sealed (d : Dev) (a : Agent) (rd rs1 : Nat) (imm : BitVec 16) : (d.fenceInsn a rd rs1 imm).sealed = d.sealed := by
  simp [Dev.fenceInsn]

@[simp] theorem Dev.rdtime_sealed (d : Dev) (a : Agent) (rd rs1 rs2 : Nat) : (d.rdtime a rd rs1 rs2).sealed = d.sealed := by simp [Dev.rdtime]

@[simp] theorem Dev.passStrokes_sealed (d : Dev) (a : Agent) : (d.passStrokes a).sealed = d.sealed := by
  unfold Dev.passStrokes
  split <;> simp

@[simp] theorem Dev.rdstroke_sealed (d : Dev) (a : Agent) (rd rs1 rs2 : Nat) : (d.rdstroke a rd rs1 rs2).sealed = d.sealed := by simp [Dev.rdstroke]

/-! ### Loads, stores and AMOs (Machine/Loads.lean) -/

@[simp] theorem Dev.accCore_sealed (d : Dev) (core : Nat) (va : Word) (n kind : Nat) : (d.accCore core va n kind).1.sealed = d.sealed := by
  unfold Dev.accCore
  dsimp only
  (repeat' split) <;> simp

@[simp] theorem Dev.accTile_sealed (d : Dev) (a : Agent) (space : Nat) (va : Word) (n : Nat) (write whole : Bool) :
    (d.accTile a space va n write whole).1.sealed = d.sealed := by
  unfold Dev.accTile
  dsimp only
  (repeat' split) <;> simp

@[simp] theorem Dev.access_sealed (d : Dev) (a : Agent) (space : Nat) (va : Word) (n : Nat) (write whole : Bool) :
    (d.access a space va n write whole).1.sealed = d.sealed := by
  unfold Dev.access
  split <;> simp

@[simp] theorem Dev.accesses_sealed (a : Agent) (va : Nat → Word) (space n : Nat) (write whole : Bool) (l : List Nat) (d : Dev) :
    (Dev.accesses a va space n write whole l d).1.sealed = d.sealed := by
  induction l generalizing d with
  | nil => rfl
  | cons th l ih =>
    unfold Dev.accesses
    dsimp only
    split
    · simp
    · simp
    · split <;> simp [ih]

@[simp] theorem Dev.bankWrite_sealed (d : Dev) (k o : Nat) (bs : List Byte) : (d.bankWrite k o bs).1.sealed = d.sealed := by
  unfold Dev.bankWrite
  split <;> simp

@[simp] theorem Dev.lost_sealed (d : Dev) (a : Agent) (dst : Dest) (len : Nat) (va pa : Word) : (d.lost a dst len va pa).1.sealed = d.sealed := by
  simp [Dev.lost]

@[simp] theorem Dev.sendOut_sealed (d : Dev) (a : Agent) (dst : Dest) (len : Nat) (va : Word) (pkg pa kind : Nat) (op : Word) (data : List Byte) :
    (d.sendOut a dst len va pkg pa kind op data).1.sealed = d.sealed := by
  unfold Dev.sendOut
  dsimp only
  split
  next e he => exact Dev.request_sealed he
  · simp

@[simp] theorem Dev.readFor_sealed (d : Dev) (a : Agent) (x : Acc) (cached : Bool) (n : Nat) : (d.readFor a x cached n).1.sealed = d.sealed := by
  unfold Dev.readFor
  dsimp only
  (repeat' split) <;> simp

@[simp] theorem Dev.writeFor_sealed (d : Dev) (a : Agent) (x : Acc) (cached : Bool) (va : Word) (bs : List Byte) :
    (d.writeFor a x cached va bs).1.sealed = d.sealed := by
  unfold Dev.writeFor
  (repeat' split) <;> simp

@[simp] theorem Dev.orRaise_sealed (d : Dev) (a : Agent) (th : Nat) (x : Option Exc) : (d.orRaise a th x).1.sealed = d.sealed := by
  unfold Dev.orRaise
  split <;> simp

@[simp] theorem Dev.loadOne_sealed (d : Dev) (a : Agent) (rd : Nat) (flt : Bool) (size th : Nat) (va : Word) (h : Hit) :
    (d.loadOne a rd flt size th va h).1.sealed = d.sealed := by
  unfold Dev.loadOne
  dsimp only
  (repeat' split) <;> simp

@[simp] theorem Dev.storeOne_sealed (d : Dev) (a : Agent) (th : Nat) (va : Word) (bs : List Byte) (h : Hit) :
    (d.storeOne a th va bs h).1.sealed = d.sealed := by
  unfold Dev.storeOne
  split <;> simp

@[simp] theorem Dev.amoOne_sealed (d : Dev) (a : Agent) (rd op size place th : Nat) (va src cmp : Word) (h : Hit) :
    (d.amoOne a rd op size place th va src cmp h).1.sealed = d.sealed := by
  unfold Dev.amoOne
  dsimp only
  (repeat' split) <;> simp

@[simp] theorem Dev.each_sealed {f : Dev → Nat → Hit → Dev × Bool} (hf : ∀ d th h, (f d th h).1.sealed = d.sealed) (l : List (Nat × Hit)) (d : Dev) :
    (Dev.each f l d).1.sealed = d.sealed := by
  induction l generalizing d with
  | nil => rfl
  | cons x l ih => simp [Dev.each, ih, hf]

@[simp] theorem Dev.memInsn_sealed {act : Dev → Nat → Hit → Dev × Bool} (hact : ∀ d th h, (act d th h).1.sealed = d.sealed) (d : Dev) (a : Agent) (w : Nat)
    (ok : Bool) (xs : List Nat) (va : Nat → Word) (space n : Nat) (write whole : Bool) :
    (d.memInsn a w ok xs va space n write whole act).sealed = d.sealed := by
  refine Dev.insn_sealed (fun e => ?_) d a 4
  dsimp only
  split
  · simp
  · split
    · rfl
    · split <;> simp [hact]

@[simp] theorem Dev.ld_sealed (d : Dev) (a : Agent) (rd rs1 size space : Nat) (off : BitVec 11) :
    (d.ld a rd rs1 size space off).sealed = d.sealed := by simp [Dev.ld]

@[simp] theorem Dev.fld_sealed (d : Dev) (a : Agent) (rd rs1 size space : Nat) (off : BitVec 11) :
    (d.fld a rd rs1 size space off).sealed = d.sealed := by simp [Dev.fld]

@[simp] theorem Dev.st_sealed (d : Dev) (a : Agent) (rd rs1 size space : Nat) (off : BitVec 11) :
    (d.st_ a rd rs1 size space off).sealed = d.sealed := by simp [Dev.st_]

@[simp] theorem Dev.fst_sealed (d : Dev) (a : Agent) (rd rs1 size space : Nat) (off : BitVec 11) :
    (d.fst_ a rd rs1 size space off).sealed = d.sealed := by simp [Dev.fst_]

@[simp] theorem Dev.amo_sealed (d : Dev) (a : Agent) (rd rs1 rs2 fn : Nat) : (d.amo a rd rs1 rs2 fn).sealed = d.sealed := by simp [Dev.amo]

@[simp] theorem Dev.agentResp_sealed (d : Dev) (a : Agent) (dst : Dest) (len : Nat) (va pa : Word) (status : Nat) (bs : List Byte) :
    (d.agentResp a dst len va pa status bs).sealed = d.sealed := by
  unfold Dev.agentResp
  (repeat' split) <;> simp

/-! ### System instructions of the Anvil cores (Machine/System.lean) -/

@[simp] theorem Dev.setAsr_sealed (d : Dev) (core n : Nat) (v : Word) : (d.setAsr core n v).sealed = d.sealed := by
  unfold Dev.setAsr
  split <;> simp

@[simp] theorem Dev.clearIpend_sealed (d : Dev) (core : Nat) (v : Word) : (d.clearIpend core v).sealed = d.sealed := by rfl

@[simp] theorem Dev.sysReg_sealed (d : Dev) (a : Agent) (op rd rs1 reg : Nat) : (d.sysReg a op rd rs1 reg).sealed = d.sealed := by
  refine Dev.insn_sealed (fun e => ?_) d a 4
  dsimp only
  split
  · (repeat' split) <;> simp
  · simp

@[simp] theorem Dev.monitor_sealed (d : Dev) (core : Nat) : (d.monitor core).sealed = d.sealed := by
  unfold Dev.monitor
  dsimp only
  split <;> simp

@[simp] theorem Dev.sysBare_sealed {k : Nat → Dev → Dev} (hk : ∀ c e, (k c e).sealed = e.sealed) (d : Dev) (a : Agent) (op rd rs1 reg : Nat) :
    (d.sysBare a op rd rs1 reg k).sealed = d.sealed := by
  refine Dev.insn_sealed (fun e => ?_) d a 4
  split <;> simp [hk]

@[simp] theorem Dev.tcall_sealed (d : Dev) (a : Agent) (rd rs1 reg : Nat) : (d.tcall a rd rs1 reg).sealed = d.sealed := by simp [Dev.tcall]

@[simp] theorem Dev.tret_sealed (d : Dev) (a : Agent) (rd rs1 reg : Nat) : (d.tret a rd rs1 reg).sealed = d.sealed := by simp [Dev.tret]

@[simp] theorem Dev.wfiInsn_sealed (d : Dev) (a : Agent) (rd rs1 reg : Nat) : (d.wfiInsn a rd rs1 reg).sealed = d.sealed := by simp [Dev.wfiInsn]

@[simp] theorem Dev.breakInsn_sealed (d : Dev) (a : Agent) (rd rs1 reg : Nat) : (d.breakInsn a rd rs1 reg).sealed = d.sealed := by
  simp [Dev.breakInsn]

@[simp] theorem Dev.cmoLine_sealed (d : Dev) (op l : Nat) : (d.cmoLine op l).sealed = d.sealed := by rfl

@[simp] theorem Dev.cmoAt_sealed (d : Dev) (a : Agent) (core op : Nat) (va : Word) : (d.cmoAt a core op va).1.sealed = d.sealed := by
  unfold Dev.cmoAt
  dsimp only
  split <;> simp

@[simp] theorem Dev.cmo_sealed (d : Dev) (a : Agent) (op rd rs1 rs2 : Nat) : (d.cmo a op rd rs1 rs2).sealed = d.sealed := by
  unfold Dev.cmo
  split <;> simp

@[simp] theorem Dev.cmoRange_sealed (a : Agent) (core op base k i : Nat) (d : Dev) : (Dev.cmoRange a core op base k i d).1.sealed = d.sealed := by
  induction k generalizing i d with
  | zero => rfl
  | succ k ih => simp [Dev.cmoRange, ih]

@[simp] theorem Dev.cmor_sealed (d : Dev) (a : Agent) (rd rs1 : Nat) (imm : BitVec 42) : (d.cmor a rd rs1 imm).sealed = d.sealed := by
  unfold Dev.cmor
  split <;> simp

/-! ### The vector unit (Machine/Vector.lean) -/

@[simp] theorem Dev.vecInsn_sealed {k : Nat → Dev → Dev} (hk : ∀ c e, (k c e).sealed = e.sealed) (d : Dev) (a : Agent) (len w : Nat) (ok : Bool) :
    (d.vecInsn a len w ok k).sealed = d.sealed := by
  refine Dev.insn_sealed (fun e => ?_) d a len
  split <;> simp [hk]

@[simp] theorem Dev.vectorOp_sealed (d : Dev) (a : Agent) (vd vs1 vs2 msk : Nat) (z : Bool) (vf vop : Nat) :
    (d.vectorOp a vd vs1 vs2 msk z vf vop).sealed = d.sealed := by simp [Dev.vectorOp]

@[simp] theorem Dev.readRuns_sealed (a : Agent) (x : Acc) (cached : Bool) (l : List (Nat × Nat)) (d : Dev) :
    (Dev.readRuns a x cached l d).1.sealed = d.sealed := by
  induction l generalizing d with
  | nil => rfl
  | cons y l ih =>
    unfold Dev.readRuns
    dsimp only
    split
    · simp
    · split <;> simp [ih]

@[simp] theorem Dev.writeRuns_sealed (a : Agent) (x : Acc) (cached : Bool) (va : Word) (v : List Byte) (l : List (Nat × Nat)) (d : Dev) :
    (Dev.writeRuns a x cached va v l d).1.sealed = d.sealed := by
  induction l generalizing d with
  | nil => rfl
  | cons y l ih =>
    unfold Dev.writeRuns
    dsimp only
    split <;> simp [ih]

@[simp] theorem Dev.nextIdle_sealed (d : Dev) (a : Agent) (len : Nat) : (d.nextIdle a len).sealed = d.sealed := by simp [Dev.nextIdle]

@[simp] theorem Dev.vld_sealed (d : Dev) (a : Agent) (vd rs1 msk : Nat) (z rsv : Bool) (off : BitVec 11) :
    (d.vld a vd rs1 msk z rsv off).sealed = d.sealed := by
  refine Dev.vecInsn_sealed (fun core e => ?_) d a 4 _ _
  dsimp only
  split
  · simp
  · simp
  · split <;> simp
  · simp

@[simp] theorem Dev.vst_sealed (d : Dev) (a : Agent) (vd rs1 msk : Nat) (z rsv : Bool) (off : BitVec 11) :
    (d.vst a vd rs1 msk z rsv off).sealed = d.sealed := by
  refine Dev.vecInsn_sealed (fun core e => ?_) d a 4 _ _
  dsimp only
  split
  · simp
  · simp only [Dev.nextIdle_sealed]
    exact (Dev.sealed_foldl_fst (fun p x => by simp) _ _).trans (by simp)
  · split <;> simp
  · simp

@[simp] theorem Dev.strided_sealed {act : Nat → (Nat → Word) → Dev → Nat → Hit → Dev × Bool} (hact : ∀ c va d th h, (act c va d th h).1.sealed = d.sealed)
    (d : Dev) (a : Agent) (lop rd rs1 : Nat) (imm : BitVec 42) (write : Bool) : (d.strided a lop rd rs1 imm write act).sealed = d.sealed := by
  refine Dev.vecInsn_sealed (fun c e => ?_) d a 8 _ true
  dsimp only
  split <;> simp [hact]

@[simp] theorem Dev.vlds_sealed (d : Dev) (a : Agent) (vd rs1 : Nat) (imm : BitVec 42) : (d.vlds a vd rs1 imm).sealed = d.sealed := by
  refine Dev.strided_sealed (fun core va e i h => ?_) d a 0x11 vd rs1 imm false
  dsimp only
  split
  · simp
  · split <;> simp
  · rfl

@[simp] theorem Dev.vsts_sealed (d : Dev) (a : Agent) (vd rs1 : Nat) (imm : BitVec 42) : (d.vsts a vd rs1 imm).sealed = d.sealed := by
  refine Dev.strided_sealed (fun core va e i h => ?_) d a 0x12 vd rs1 imm true
  dsimp only
  split <;> simp

/-! ### The TILE instructions (Machine/Smith.lean) -/

@[simp] theorem Dev.tileInsn_sealed (d : Dev) (a : Agent) (fn rd rs1 rs2 : Nat) (ok : Bool) (xs : List Nat) (k : Tile → Option Tile) :
    (d.tileInsn a fn rd rs1 rs2 ok xs k).sealed = d.sealed := by
  refine Dev.insn_sealed (fun e => ?_) d a 4
  split
  · split
    · simp
    · split
      · rfl
      · split <;> simp
  · simp

@[simp] theorem Dev.cissue_sealed (d : Dev) (a : Agent) (rd rs1 rs2 : Nat) : (d.cissue a rd rs1 rs2).sealed = d.sealed := by simp [Dev.cissue]

@[simp] theorem Dev.cvtInsn_sealed (d : Dev) (a : Agent) (rd rs1 rs2 : Nat) : (d.cvtInsn a rd rs1 rs2).sealed = d.sealed := by simp [Dev.cvtInsn]

@[simp] theorem Dev.wsplitInsn_sealed (d : Dev) (a : Agent) (rd rs1 rs2 : Nat) : (d.wsplitInsn a rd rs1 rs2).sealed = d.sealed := by
  simp [Dev.wsplitInsn]

@[simp] theorem Dev.bldInsn_sealed (d : Dev) (a : Agent) (rd rs1 rs2 : Nat) : (d.bldInsn a rd rs1 rs2).sealed = d.sealed := by simp [Dev.bldInsn]

@[simp] theorem Dev.swgInsn_sealed (d : Dev) (a : Agent) (rd rs1 rs2 : Nat) : (d.swgInsn a rd rs1 rs2).sealed = d.sealed := by simp [Dev.swgInsn]

@[simp] theorem Dev.sseedInsn_sealed (d : Dev) (a : Agent) (rd rs1 rs2 : Nat) : (d.sseedInsn a rd rs1 rs2).sealed = d.sealed := by
  simp [Dev.sseedInsn]

@[simp] theorem Dev.tlaunchInsn_sealed (d : Dev) (a : Agent) (rd rs1 rs2 : Nat) : (d.tlaunchInsn a rd rs1 rs2).sealed = d.sealed := by
  simp [Dev.tlaunchInsn]

@[simp] theorem Dev.waitInsn_sealed (d : Dev) (a : Agent) (rd rs1 rs2 : Nat) : (d.waitInsn a rd rs1 rs2).sealed = d.sealed := by simp [Dev.waitInsn]

@[simp] theorem Dev.vrdInsn_sealed (d : Dev) (a : Agent) (rd rs1 rs2 : Nat) : (d.vrdInsn a rd rs1 rs2).sealed = d.sealed := by simp [Dev.vrdInsn]

@[simp] theorem Dev.vwrInsn_sealed (d : Dev) (a : Agent) (rd rs1 rs2 : Nat) : (d.vwrInsn a rd rs1 rs2).sealed = d.sealed := by simp [Dev.vwrInsn]

@[simp] theorem Dev.kendInsn_sealed (d : Dev) (a : Agent) (rd rs1 rs2 : Nat) : (d.kendInsn a rd rs1 rs2).sealed = d.sealed := by simp [Dev.kendInsn]

/-! ### The instructions of thread groups (Machine/Threads.lean) -/

@[simp] theorem Dev.groupInsn_sealed (d : Dev) (a : Agent) (w : Nat) (ok : Bool) (k : Group → Except Exc Group) (pushes : Nat) :
    (d.groupInsn a w ok k pushes).sealed = d.sealed := by
  refine Dev.insn_sealed (fun e => ?_) d a 4
  split
  · split
    · simp
    · split <;> simp
  · simp

@[simp] theorem Dev.mbr_sealed (d : Dev) (a : Agent) (cond mc zf : Nat) (off : BitVec 16) : (d.mbr a cond mc zf off).sealed = d.sealed := by
  unfold Dev.mbr
  split <;> simp

@[simp] theorem Dev.cbar_sealed (d : Dev) (a : Agent) (rd rs1 rs2 : Nat) : (d.cbar a rd rs1 rs2).sealed = d.sealed := by
  unfold Dev.cbar
  split <;> simp

@[simp] theorem Dev.gend_sealed (d : Dev) (a : Agent) (rd rs1 rs2 : Nat) : (d.gend a rd rs1 rs2).sealed = d.sealed := by
  unfold Dev.gend
  split <;> simp

/-! ### Sequences, steps and billets (Machine/Serving.lean) -/

/-- A run of the Tongs keeps the sealed flash f. -/
def Tm.Keeps {α : Type} (f : Flash) (m : Tm α) : Prop := ∀ d, d.sealed = f → (m.run d).2.sealed = f

@[simp] theorem Tm.keeps_pure {α : Type} (f : Flash) (a : α) : (pure a : Tm α).Keeps f := fun _ hd => hd

@[simp] theorem Tm.keeps_fail {α : Type} (f : Flash) (st : Nat) : (Tm.fail st : Tm α).Keeps f := fun _ hd => hd

@[simp] theorem Tm.keeps_get (f : Flash) : (get : Tm Dev).Keeps f := fun _ hd => hd

@[simp] theorem Tm.keeps_lift {α : Type} (f : Flash) {g : Dev → Dev × Except (Option Nat) α} (hg : ∀ d, (g d).1.sealed = d.sealed) : (Tm.lift g).Keeps f :=
  fun d hd => (hg d).trans hd

@[simp] theorem Tm.keeps_modify (f : Flash) {g : Dev → Dev} (hg : ∀ d, (g d).sealed = d.sealed) : (modify g : Tm Unit).Keeps f :=
  fun d hd => (hg d).trans hd

theorem Tm.keeps_set {f : Flash} {e : Dev} (he : e.sealed = f) : (set e : Tm Unit).Keeps f := fun _ _ => he

theorem Tm.run_bind {α β : Type} (m : Tm α) (k : α → Tm β) (d : Dev) :
    (m >>= k).run d = match m.run d with | (.ok a, e) => (k a).run e | (.error s, e) => (.error s, e) := by
  change (ExceptT.run (m >>= k)).run d = _
  rw [ExceptT.run_bind, StateT.run_bind]
  change _ = match (ExceptT.run m).run d with | (.ok a, e) => (k a).run e | (.error s, e) => (.error s, e)
  rcases (ExceptT.run m).run d with ⟨x | a, e⟩ <;> rfl

@[simp] theorem Tm.keeps_bind {α β : Type} {f : Flash} {m : Tm α} {k : α → Tm β} (hm : m.Keeps f) (hk : ∀ a, (k a).Keeps f) : (m >>= k).Keeps f := by
  intro d hd
  have h := hm d hd
  rw [Tm.run_bind]
  generalize m.run d = r at h
  obtain ⟨x | a, e⟩ := r
  · exact h
  · exact hk a e h

theorem Tm.keeps_get_bind {β : Type} {f : Flash} {k : Dev → Tm β} (hk : ∀ d, d.sealed = f → (k d).Keeps f) : ((get : Tm Dev) >>= k).Keeps f := by
  intro d hd
  exact hk d hd d hd

@[simp] theorem Tm.keeps_map {α β : Type} {f : Flash} {m : Tm α} (g : α → β) (hm : m.Keeps f) : (g <$> m).Keeps f :=
  Tm.keeps_bind hm fun a => Tm.keeps_pure f (g a)

@[simp] theorem Tm.keeps_ite {α : Type} {f : Flash} {c : Prop} [Decidable c] {m k : Tm α} (hm : m.Keeps f) (hk : k.Keeps f) :
    (if c then m else k).Keeps f := by
  split <;> assumption

@[simp] theorem Tm.keeps_mapM {α β : Type} {f : Flash} {k : α → Tm β} (hk : ∀ a, (k a).Keeps f) (l : List α) : (l.mapM k).Keeps f := by
  induction l with
  | nil => simp
  | cons x l ih => simp [hk, ih]

@[simp] theorem Tm.keeps_forM {α : Type} {f : Flash} {k : α → Tm PUnit} (hk : ∀ a, (k a).Keeps f) (l : List α) : Tm.Keeps f (forM l k) := by
  induction l with
  | nil => simp
  | cons x l ih => simp [hk, ih]

@[simp] theorem Dev.tongsRun_sealed (d : Dev) {m : Tm Unit} {fail : Nat → Dev → Dev} (hm : m.Keeps d.sealed) (hf : ∀ st e, (fail st e).sealed = e.sealed) :
    (d.tongsRun m fail).sealed = d.sealed := by
  have h := hm d rfl
  unfold Dev.tongsRun
  split
  next e he => simpa [he] using h
  · simp
  · simp [hf]

@[simp] theorem tgAcc_keeps (f : Flash) (n : Nat) (a : Acct) (va len : Nat) (write : Bool) : (tgAcc n a va len write).Keeps f := by
  refine Tm.keeps_lift f fun d => ?_
  dsimp only
  split
  · simp
  · simp
  · simp

@[simp] theorem tgRead_keeps (f : Flash) (n : Nat) (a : Acct) (va len : Nat) : (tgRead n a va len).Keeps f :=
  Tm.keeps_bind (tgAcc_keeps f n a va len false) fun _ => Tm.keeps_lift f fun d => by simp

@[simp] theorem tgWrite_keeps (f : Flash) (n : Nat) (a : Acct) (va : Nat) (bs : List Byte) : (tgWrite n a va bs).Keeps f :=
  Tm.keeps_bind (tgAcc_keeps f n a va bs.length true) fun _ => Tm.keeps_modify f fun d => by simp

@[simp] theorem tgWord_keeps (f : Flash) (n : Nat) (a : Acct) (va v : Nat) : (tgWord n a va v).Keeps f := tgWrite_keeps f n a va _

@[simp] theorem readSeq_keeps (f : Flash) (n : Nat) (a : Acct) (t : Tng) (slot : Nat) : (readSeq n a t slot).Keeps f :=
  Tm.keeps_bind (tgRead_keeps f n a _ 64) fun _ => Tm.keeps_pure f _

@[simp] theorem tmDone_keeps (f : Flash) (r : CmdRef) (st : Nat) : (tmDone r st).Keeps f := Tm.keeps_modify f fun d => by simp

@[simp] theorem Dev.tongsErr_sealed (d : Dev) (c : Cmd) (rsafe : Bool) (st : Nat) : (d.tongsErr c rsafe st).sealed = d.sealed := by
  simp [Dev.tongsErr]

@[simp] theorem Dev.tongsFail_sealed (d : Dev) (c : Cmd) (st : Nat) : (d.tongsFail c st).sealed = d.sealed := by simp [Dev.tongsFail]

theorem admitTm_keeps (f : Flash) (c : Cmd) (t : Tng) : (admitTm c t).Keeps f := by
  refine Tm.keeps_ite (by simp) (Tm.keeps_bind (by simp) fun e => Tm.keeps_ite (by simp) ?_)
  iterate 7 refine Tm.keeps_bind (tgWord_keeps f _ _ _ _) fun _ => ?_
  exact Tm.keeps_bind (by simp) (by simp)

@[simp] theorem Dev.admitGo_sealed (d : Dev) (r : CmdRef) : (d.admitGo r).sealed = d.sealed := by
  unfold Dev.admitGo
  split
  · exact tongsRun_sealed d (admitTm_keeps _ _ _) (by simp)
  · rfl

@[simp] theorem Dev.admitCmd_sealed (d : Dev) (r : CmdRef) : (d.admitCmd r).sealed = d.sealed := by
  unfold Dev.admitCmd
  split <;> simp

theorem retireTm_keeps (f : Flash) (c : Cmd) : (retireTm c).Keeps f :=
  Tm.keeps_bind (by simp) fun d => Tm.keeps_ite (by simp) <| Tm.keeps_bind (by simp) fun e => Tm.keeps_ite (by simp) <|
    Tm.keeps_bind (by simp) fun _ => Tm.keeps_bind (by simp) fun _ => Tm.keeps_ite (by simp) <|
      Tm.keeps_bind (by simp) fun _ => Tm.keeps_bind (by simp) (by simp)

@[simp] theorem Dev.retireGo_sealed (d : Dev) (r : CmdRef) : (d.retireGo r).sealed = d.sealed := by
  unfold Dev.retireGo
  split
  · exact Dev.ite_sealed (by simp) (tongsRun_sealed d (retireTm_keeps _ _) (by simp))
  · rfl

@[simp] theorem Dev.retire_sealed (d : Dev) (r : CmdRef) : (d.retire r).sealed = d.sealed := by
  unfold Dev.retire
  split <;> simp

@[simp] theorem Dev.stepDone_sealed (d : Dev) (r : CmdRef) (st : Nat) : (d.stepDone r st).sealed = d.sealed := by
  unfold Dev.stepDone
  split <;> simp

theorem allocAll_keeps (f : Flash) (c : Cmd) (t : Tng) (it : BItem) (l : List (Nat × Nat)) : (allocAll c t it l).Keeps f := by
  induction l generalizing t with
  | nil => exact Tm.keeps_pure f true
  | cons x l ih =>
    refine Tm.keeps_bind (by simp) fun d => Tm.keeps_ite (ih _) ?_
    split
    · simp
    · exact Tm.keeps_bind (by simp) fun _ => Tm.keeps_bind (by simp) fun _ => ih _

theorem allocItems_keeps (f : Flash) (c : Cmd) (t : Tng) (l : List BItem) : (allocItems c t l).Keeps f := by
  induction l with
  | nil => exact Tm.keeps_pure f _
  | cons it l ih => exact Tm.keeps_bind (allocAll_keeps f c t it _) fun b => Tm.keeps_ite (Tm.keeps_bind ih (by simp)) (by simp)

@[simp] theorem readNode_keeps (f : Flash) (c : Cmd) (graph succ i : Nat) : (readNode c graph succ i).Keeps f :=
  Tm.keeps_bind (by simp) fun b => Tm.keeps_bind (by simp) (by simp)

theorem stepTm_keeps (f : Flash) (c : Cmd) (t : Tng) : (stepTm c t).Keeps f := by
  refine Tm.keeps_bind (by simp) fun d => Tm.keeps_bind (by simp) fun es => Tm.keeps_bind (allocItems_keeps f c t _) fun r => ?_
  refine Tm.keeps_bind (by simp) fun _ => Tm.keeps_bind (by simp) fun _ => Tm.keeps_ite (by simp) ?_
  exact Tm.keeps_bind (by simp) fun h => Tm.keeps_ite (by simp) (Tm.keeps_bind (by simp) (by simp))

@[simp] theorem Dev.stepGo_sealed (d : Dev) (r : CmdRef) : (d.stepGo r).sealed = d.sealed := by
  unfold Dev.stepGo
  split
  · rfl
  · exact ite_sealed rfl (ite_sealed (by simp) (ite_sealed (by simp) (tongsRun_sealed d (stepTm_keeps _ _ _) (by simp))))

@[simp] theorem Dev.step_sealed (d : Dev) (r : CmdRef) : (d.step r).sealed = d.sealed := by
  unfold Dev.step
  split <;> simp

@[simp] theorem Dev.setNode_sealed (d : Dev) (n i : Nat) (f : NodeRun → NodeRun) : (d.setNode n i f).sealed = d.sealed := by rfl

theorem finishItem_keeps (f : Flash) (c : Cmd) (t : Tng) (batch i : Nat) (it : BItem) : (finishItem c t batch i it).Keeps f := by
  refine Tm.keeps_bind (by simp) fun e => Tm.keeps_bind (by simp) fun _ => Tm.keeps_bind (by simp) fun d => ?_
  refine Tm.keeps_bind (by simp) fun _ => Tm.keeps_bind (by simp) fun em => Tm.keeps_bind (by simp) fun l => ?_
  split <;> simp

theorem finishTm_keeps (f : Flash) (c : Cmd) (t : Tng) (s : StepRun) (st : Nat) : (finishTm c t s st).Keeps f := by
  refine Tm.keeps_bind (Tm.keeps_forM (fun i => ?_) _) (by simp)
  split
  · exact finishItem_keeps f c t _ i _
  · simp

@[simp] theorem Dev.settleStep_sealed (d : Dev) (n : Nat) : (d.settleStep n).sealed = d.sealed := by
  unfold Dev.settleStep
  split
  · rfl
  · split
    · rfl
    · refine ite_sealed rfl (ite_sealed (by simp) (ite_sealed (by simp) (ite_sealed ?_ (ite_sealed rfl (by simp)))))
      exact tongsRun_sealed d (finishTm_keeps _ _ _ _ _) (by simp)

@[simp] theorem Dev.dropSpans_sealed (d : Dev) (n i : Nat) : (d.dropSpans n i).sealed = d.sealed := by rfl

@[simp] theorem Dev.nodeDone_sealed (d : Dev) (n i st : Nat) : (d.nodeDone n i st).sealed = d.sealed := by
  unfold Dev.nodeDone
  (repeat' split) <;> simp

theorem Dev.sendSpan_sealed {d e : Dev} {n i item sp tries : Nat} {bs : List Nat} (h : d.sendSpan n i item sp tries bs = some e) : e.sealed = d.sealed := by
  unfold Dev.sendSpan at h
  split at h
  · simp at h
  · obtain rfl := Option.some.inj h
    simp

theorem attendTm_keeps (f : Flash) (c : Cmd) (t : Tng) (s : StepRun) (x : NodeRun) (i : Nat) : (attendTm c t s x i).Keeps f := by
  refine Tm.keeps_bind (by simp) fun b => Tm.keeps_get_bind fun d hd => Tm.keeps_ite (by simp) ?_
  dsimp only
  split
  next e he =>
    refine Tm.keeps_set ?_
    rw [Dev.setNode_sealed, ← hd]
    refine foldl_bind_keeps Dev.sealed (fun k u v hv => ?_) _ he
    split at hv
    · exact Dev.sendSpan_sealed hv
    · exact congrArg Dev.sealed (Option.some.inj hv).symm
  · simp

@[simp] theorem Dev.nodeStart_sealed (d : Dev) (n i : Nat) : (d.nodeStart n i).sealed = d.sealed := by
  unfold Dev.nodeStart
  split
  · rfl
  · split
    · refine ite_sealed rfl (ite_sealed (ite_sealed (by simp) ?_) (ite_sealed ?_ (by simp)))
      · split <;> simp
      · exact tongsRun_sealed d (attendTm_keeps _ _ _ _ _ _) (by simp)
    · rfl

@[simp] theorem bilRead_keeps (f : Flash) (n : Nat) (a : Acct) (t : Tng) (x : Option Billet) : (bilRead n a t x).Keeps f := by
  cases x with
  | none => simp [bilRead]
  | some x => exact Tm.keeps_bind (by simp) fun d => Tm.keeps_ite (by simp) (Tm.keeps_lift f fun d => by simp)

theorem spanTm_keeps (f : Flash) (c : Cmd) (t : Tng) (a : Attend) (it : BItem) (sp : Nat) : (spanTm c t a it sp).Keeps f :=
  Tm.keeps_bind (by simp) fun d => Tm.keeps_bind (Tm.keeps_mapM (fun b => by simp) _) fun bs =>
    Tm.keeps_bind (Tm.keeps_forM (fun j => Tm.keeps_bind (by simp) (by simp)) _) (by simp)

@[simp] theorem Dev.span_sealed (d : Dev) (n i item sp : Nat) : (d.span n i item sp).sealed = d.sealed := by
  unfold Dev.span
  split
  · rfl
  · split
    · simp
    · split
      · refine ite_sealed rfl (ite_sealed (by simp) (ite_sealed (by simp) ?_))
        exact tongsRun_sealed d (Tm.keeps_bind (spanTm_keeps _ _ _ _ _ _) (by simp)) (by simp)
      · simp

@[simp] theorem Dev.nodeComplete_sealed (d : Dev) (n i : Nat) : (d.nodeComplete n i).sealed = d.sealed := by
  unfold Dev.nodeComplete
  (repeat' split) <;> simp

@[simp] theorem Dev.stepCancel_sealed (d : Dev) (c : Cmd) : (d.stepCancel c).sealed = d.sealed := by
  unfold Dev.stepCancel
  split
  · simp
  · split
    · rfl
    · simp only [Dev.settleStep_sealed]
      exact Dev.sealed_foldl (fun d i => by split <;> simp) _ d

@[simp] theorem Dev.msgFails_sealed (d : Dev) (m : Msg) : (d.msgFails m).sealed = d.sealed := by
  unfold Dev.msgFails
  split <;> simp

@[simp] theorem Dev.reResolve_sealed (d : Dev) : d.reResolve.sealed = d.sealed := by
  unfold Dev.reResolve
  split
  · rfl
  · refine ite_sealed rfl ?_
    extract_lets _ off back
    have hoff : off.sealed = d.sealed := by simp [off]
    have hback : ∀ e, (back e).sealed = e.sealed := fun e => by simp [back]
    clear_value off back
    split
    · refine ite_sealed (by simp [hoff]) (ite_sealed (by simp [hoff]) ?_)
      dsimp only
      split <;> simp [hback, hoff]
    · split
      · exact hoff
      · split
        · refine ite_sealed hoff (ite_sealed (by simp [hoff]) (sealed_getD (fun e he => ?_) ?_))
          · simp [sendSpan_sealed he, hoff]
          · simp [hback, hoff]
        · exact hoff

/-! ### Moves between levels (Machine/Migrate.lean) -/

@[simp] theorem Dev.heatDecay_sealed (d : Dev) : d.heatDecay.sealed = d.sealed := by simp [Dev.heatDecay]

@[simp] theorem Dev.bilRaw_sealed (d : Dev) (n : Nat) (t : Tng) (x : Billet) : (d.bilRaw n t x).1.sealed = d.sealed := by simp [Dev.bilRaw]

theorem swapHandles_keeps (f : Flash) (n : Nat) (t : Tng) (l : List (Billet × Nat × Nat)) : (swapHandles n t l).Keeps f := by
  induction l with
  | nil => simp [swapHandles]
  | cons x l ih =>
    exact Tm.keeps_bind (by simp) fun e => Tm.keeps_bind (by simp) fun old => Tm.keeps_ite (by simp) (Tm.keeps_bind (by simp) fun _ => ih)

@[simp] theorem Dev.moveBillets_sealed (d : Dev) (n : Nat) (ms : List (Billet × Nat × Nat)) : (d.moveBillets n ms).sealed = d.sealed := by
  unfold Dev.moveBillets
  refine ite_sealed rfl ?_
  extract_lets d1 d2
  have h2 : d2.sealed = d.sealed := by
    simp only [d2, d1, setServing_sealed]
    exact (sealed_foldl (by simp) _ _).trans (sealed_foldl_fst (by simp) _ _)
  clear_value d2
  have h := swapHandles_keeps d.sealed n (d.serving n) ms d2 h2
  split
  next e he => simpa [he] using h
  · rfl

@[simp] theorem Dev.billetMove_sealed (d : Dev) (n i level : Nat) : (d.billetMove n i level).sealed = d.sealed := by
  unfold Dev.billetMove
  dsimp only
  (repeat' split) <;> simp

@[simp] theorem Dev.swapPages_sealed (d : Dev) (n : Nat) (x y : PoolPage) : (d.swapPages n x y).sealed = d.sealed := by simp [Dev.swapPages]

@[simp] theorem Dev.pageMove_sealed (d : Dev) (n va frame : Nat) : (d.pageMove n va frame).sealed = d.sealed := by
  unfold Dev.pageMove
  (repeat' split) <;> simp

/-! ### Cancel marks (Machine/Cancel.lean) -/

@[simp] theorem Dev.cancelTile_sealed (d : Dev) (c : Cmd) (k : Nat) : (d.cancelTile c k).sealed = d.sealed := by
  unfold Dev.cancelTile
  split <;> simp

@[simp] theorem Dev.cancelCmd_sealed (d : Dev) (c : Cmd) : (d.cancelCmd c).sealed = d.sealed := by
  unfold Dev.cancelCmd
  split <;> simp

@[simp] theorem Dev.cancelArrives_sealed (d : Dev) (r : CmdRef) (u : Option TileRef) : (d.cancelArrives r u).sealed = d.sealed := by
  unfold Dev.cancelArrives
  (repeat' split) <;> simp

/-! ### Packets that arrive and the time base (Machine/Fabric.lean) -/

@[simp] theorem Dev.answer_sealed (d : Dev) (p : Packet) (status : Nat) (bs : List Byte) : (d.answer p status bs).sealed = d.sealed := by
  simp [Dev.answer]

@[simp] theorem Dev.readAt_sealed (d : Dev) (p : Packet) : (d.readAt p).1.sealed = d.sealed := by
  unfold Dev.readAt
  dsimp only
  split <;> simp

@[simp] theorem Dev.writeAt_sealed (d : Dev) (p : Packet) : (d.writeAt p).1.sealed = d.sealed := by
  unfold Dev.writeAt
  dsimp only
  (repeat' split) <;> simp

@[simp] theorem Dev.amoAt_sealed (d : Dev) (p : Packet) : (d.amoAt p).1.sealed = d.sealed := by
  unfold Dev.amoAt
  dsimp only
  (repeat' split) <;> simp

@[simp] theorem Dev.credreqAt_sealed (d : Dev) (p : Packet) : (d.credreqAt p).1.sealed = d.sealed := by
  unfold Dev.credreqAt
  dsimp only
  (repeat' split) <;> simp

@[simp] theorem Dev.take_sealed (d : Dev) (p : Packet) : (d.take p).1.sealed = d.sealed := by
  unfold Dev.take
  split <;> simp

@[simp] theorem Dev.syncRefused_sealed (d : Dev) (r : CmdRef) (st : Nat) : (d.syncRefused r st).sealed = d.sealed := by
  unfold Dev.syncRefused
  split <;> simp

@[simp] theorem Dev.respAt_sealed (d : Dev) (p : Packet) : (d.respAt p).sealed = d.sealed := by
  unfold Dev.respAt
  dsimp only
  (repeat' split) <;> simp

@[simp] theorem Dev.credgntAt_sealed (d : Dev) (p : Packet) : (d.credgntAt p).sealed = d.sealed := by
  unfold Dev.credgntAt
  dsimp only
  split <;> simp

@[simp] theorem Dev.sendTime_sealed (d : Dev) (pkg typ : Nat) (data : List Byte) : (d.sendTime pkg typ data).sealed = d.sealed := by
  unfold Dev.sendTime
  split <;> simp

@[simp] theorem Dev.timeSend_sealed (d : Dev) : d.timeSend.sealed = d.sealed := by simp [Dev.timeSend]

@[simp] theorem Dev.offsetIs_sealed (d : Dev) (o : ℤ) : (d.offsetIs o).sealed = d.sealed := by rfl

@[simp] theorem Dev.timeAt_sealed (d : Dev) (p : Packet) : (d.timeAt p).sealed = d.sealed := by
  unfold Dev.timeAt
  dsimp only
  split <;> simp

@[simp] theorem Dev.tick_sealed (d : Dev) : d.tick.sealed = d.sealed := by simp [Dev.tick]

@[simp] theorem Dev.departAt_sealed (d : Dev) (p : Packet) : (d.departAt p).sealed = d.sealed := by simp [Dev.departAt]

@[simp] theorem Dev.jobresetAt_sealed (d : Dev) (p : Packet) : (d.jobresetAt p).sealed = d.sealed := by simp [Dev.jobresetAt]

@[simp] theorem Dev.routeAt_sealed (d : Dev) (p : Packet) : (d.routeAt p).sealed = d.sealed := by simp [Dev.routeAt]

@[simp] theorem Dev.actPkt_sealed (d : Dev) (p : Packet) : (d.actPkt p).1.sealed = d.sealed := by
  unfold Dev.actPkt
  split <;> simp

@[simp] theorem Dev.streamGo_sealed (key k : Nat) (d : Dev) : (Dev.streamGo key k d).sealed = d.sealed := by
  induction k generalizing d with
  | zero => rfl
  | succ k ih =>
    unfold Dev.streamGo
    dsimp only
    split
    · rfl
    · split <;> simp [ih]

@[simp] theorem Dev.fabRetry_sealed (d : Dev) : d.fabRetry.sealed = d.sealed := by simp [Dev.fabRetry]

@[simp] theorem Dev.arrive_sealed (d : Dev) (p : Packet) : (d.arrive p).sealed = d.sealed := by simp [Dev.arrive]

@[simp] theorem Dev.arriveKind_sealed (d : Dev) (k : Nat) (p : Packet) : (d.arriveKind k p).sealed = d.sealed := by simp [Dev.arriveKind]

@[simp] theorem Dev.flitFields_sealed (d : Dev) (r : LinkRef) (f : List Byte) : (d.flitFields r f).sealed = d.sealed := by
  unfold Dev.flitFields
  split <;> simp

@[simp] theorem Dev.flitNak_sealed (d : Dev) (r : LinkRef) (l : Link) : (d.flitNak r l).sealed = d.sealed := by rfl

@[simp] theorem Dev.flitIn_sealed (d : Dev) (r : LinkRef) (f : List Byte) : (d.flitIn r f).sealed = d.sealed := by
  unfold Dev.flitIn
  split <;> simp

@[simp] theorem Dev.linkRetrain_sealed (d : Dev) (r : LinkRef) (ls : List LaneInfo) : (d.linkRetrain r ls).sealed = d.sealed := by
  simp [Dev.linkRetrain]

/-! ### Scrubbing and error rates (Machine/Scrub.lean) -/

@[simp] theorem Dev.siteWithdrawal_sealed (d : Dev) (deep : Bool) (site : Nat) : (d.siteWithdrawal deep site).sealed = d.sealed := by
  simp [Dev.siteWithdrawal]

@[simp] theorem Dev.errorRate_sealed (d : Dev) (deep : Bool) (site : Nat) : (d.errorRate deep site).sealed = d.sealed := by simp [Dev.errorRate]

@[simp] theorem Dev.scrub_sealed (d : Dev) (deep : Bool) (site block : Nat) (r : ScrubResult) : (d.scrub deep site block r).sealed = d.sealed := by
  unfold Dev.scrub
  dsimp only
  (repeat' split) <;> simp

@[simp] theorem Dev.itrExpiry_sealed (d : Dev) (qk : Nat) : (d.itrExpiry qk).sealed = d.sealed := by simp [Dev.itrExpiry]

@[simp] theorem Dev.bar2Size_sealed (d : Dev) (log : Nat) (mse : Bool) : (d.bar2Size log mse).sealed = d.sealed := by simp [Dev.bar2Size]

@[simp] theorem Dev.tngReqOf_sealed (d : Dev) (kind : Nat) (v : Word) : (d.tngReqOf kind v).sealed = d.sealed := by simp [Dev.tngReqOf]

end Sys2Proof.Machine

/-! The image slots (R297, R298): SLOT_WRITE refuses the primary slot, BOOTSEL makes a slot primary, and no command changes the slot that is primary. -/

namespace Sys2Proof.Machine

open Sys2Proof

/-! ### Slots and sealed flash -/

theorem Dev.slot_of_sealed {d e : Dev} (h : e.sealed = d.sealed) (b : Bool) : e.flash.slot b = d.flash.slot b := by
  have ha : e.sealed.slotA = d.sealed.slotA := by rw [h]
  have hb : e.sealed.slotB = d.sealed.slotB := by rw [h]
  cases b
  · exact ha
  · exact hb

/-! ### What a management request does (R410 to R412) -/

theorem p4_of_shed {d : Dev} (hl : d.pkg.level < 2) (k : Dev → Dev × Nat × List Byte) : p4 k d = k d := if_neg (by omega)

theorem authed_of_session {d : Dev} (ha : d.st.mgmtSpdm = false ∨ d.bell.auth = true) (k : Dev → Dev × Nat × List Byte) : authed k d = k d :=
  if_neg (by rcases ha with ha | ha <;> simp [ha])

theorem Dev.bmp_of_heard {d : Dev} {h : BmpHdr} {hw : Bool} (hh : d.heard h hw) (typ : Nat) (k : Dev → Dev × Nat × List Byte) :
    Dev.answered (d.bmp h typ hw k) (k d).1 typ h (k d).2.1 (k d).2.2 ∧ (d.bmp h typ hw k).flash = (k d).1.flash := by
  obtain ⟨⟨hst, hosc⟩, hup, hfresh, hver⟩ := hh
  have hport : ¬(d.start.stage = .off ∨ d.pwr.osc = true ∨ ((!hw) = true ∧ (!d.bellowsUp) = true)) := by
    rcases hup with rfl | hup <;> simp_all
  have hnew : (d.bell.seen.find? fun e => e.1 = h.src && e.2.1 == h.seq.toNat && decide (d.now < e.2.2.1 + 1000000000)) = none := by
    refine List.find?_eq_none.mpr fun e he hx => ?_
    simp only [Bool.and_eq_true, decide_eq_true_eq, beq_iff_eq] at hx
    obtain ⟨⟨hsrc, hseq⟩, hnow⟩ := hx
    exact absurd (hfresh e he hsrc hseq) (Nat.not_le.mpr hnow)
  unfold Dev.bmp
  rw [if_neg hport, hnew]
  simp only [hver, ne_eq, not_true_eq_false, if_false]
  exact ⟨rfl, rfl⟩

/-! ### Writes to a slot (R298) -/

/-- The slot that a bit of the boot record names (R297). -/
def bootSlot (b : Bool) : Slot := if b then Slot.b else Slot.a

@[simp] theorem bootSlot_ne_factory (b : Bool) : bootSlot b ≠ .factory := by cases b <;> decide

@[simp] theorem bootSlot_eq_b (b : Bool) : bootSlot b = .b ↔ b = true := by cases b <;> decide

/-- Flash with bytes written to a slot. -/
def Flash.putSlot (f : Flash) (b : Bool) (off : Nat) (bs : List Byte) : Flash :=
  if b then { f with slotB := SMap.putBytes 0xFF f.slotB off bs } else { f with slotA := SMap.putBytes 0xFF f.slotA off bs }

theorem Flash.putSlot_frame (f : Flash) (b : Bool) (off : Nat) (bs : List Byte) :
    f.putSlot b off bs = { f with slotA := (f.putSlot b off bs).slotA, slotB := (f.putSlot b off bs).slotB } := by
  cases b <;> rfl

theorem Flash.putSlot_other (f : Flash) (b : Bool) (off : Nat) (bs : List Byte) : (f.putSlot b off bs).slot (!b) = f.slot (!b) := by
  cases b <;> rfl

theorem Flash.putSlot_same (f : Flash) (b : Bool) (off : Nat) (bs : List Byte) :
    (f.putSlot b off bs).slot b = SMap.putBytes 0xFF (f.slot b) off bs := by
  cases b <;> rfl

theorem SMap.get_putBytes_in (v : Byte) (m : SMap Byte) (off : Nat) (bs : List Byte) {i : Nat} (hi : i < bs.length) :
    SMap.get v (SMap.putBytes v m off bs) (off + i) = nthD 0 bs i := by
  induction bs generalizing m off i with
  | nil => cases hi
  | cons x bs ih =>
    cases i with
    | zero => rw [SMap.putBytes, SMap.get_putBytes_out v _ _ _ (by omega), Nat.add_zero, SMap.get_put_self]; rfl
    | succ i =>
      have h := ih (SMap.put v m off x) (off + 1) (Nat.lt_of_succ_lt_succ hi)
      rw [SMap.putBytes, show off + (i + 1) = off + 1 + i by omega, h]
      rfl

theorem placed_putBytes (v : Byte) (m : SMap Byte) (off : Nat) (bs : List Byte) : placed v m (SMap.putBytes v m off bs) off bs := by
  intro a
  split
  next ha =>
    have h := SMap.get_putBytes_in v m off bs (i := a - off) (by omega)
    rwa [Nat.add_sub_cancel' ha.1] at h
  next ha => exact SMap.get_putBytes_out v m off bs (by omega)

/-- What SLOT_WRITE does once its class and session let it. -/
def slotWriteBody (s : Slot) (off : Nat) (bs : List Byte) (d : Dev) : Dev × Nat × List Byte :=
  if s = .factory ∨ 1024 < bs.length ∨ slotSize < off + bs.length then (d, bBadmsg, [])
  else if d.flash.primary = decide (s = .b) then (d, bDenied, [])
  else ({ d with flash := d.flash.putSlot (decide (s = .b)) off bs }, bOk, [])

theorem Dev.slotWrite_eq (d : Dev) (h : BmpHdr) (s : Slot) (off : Nat) (bs : List Byte) :
    d.slotWrite h s off bs = d.bmp h 0x10 false (p4 (authed (slotWriteBody s off bs))) := by
  cases s <;> rfl

theorem bootSlot_inRange (b : Bool) {off : Nat} {bs : List Byte} (hn : bs.length ≤ 1024) (ho : off + bs.length ≤ 2 ^ 24) :
    ¬(bootSlot b = .factory ∨ 1024 < bs.length ∨ slotSize < off + bs.length) := by
  simp only [bootSlot_ne_factory, slotSize, false_or]
  omega

theorem slotWriteBody_of_primary {d : Dev} {b : Bool} (hp : d.flash.primary = b) {off : Nat} {bs : List Byte}
    (hn : bs.length ≤ 1024) (ho : off + bs.length ≤ 2 ^ 24) : slotWriteBody (bootSlot b) off bs d = (d, bDenied, []) := by
  rw [slotWriteBody, if_neg (bootSlot_inRange b hn ho), if_pos (by simp [hp])]

theorem slotWriteBody_of_other {d : Dev} {b : Bool} (hp : d.flash.primary = !b) {off : Nat} {bs : List Byte}
    (hn : bs.length ≤ 1024) (ho : off + bs.length ≤ 2 ^ 24) : slotWriteBody (bootSlot b) off bs d = ({ d with flash := d.flash.putSlot b off bs }, bOk, []) := by
  rw [slotWriteBody, if_neg (bootSlot_inRange b hn ho), if_neg (by simp [hp])]
  simp

theorem slotWriteBody_keepsPrimary (s : Slot) (off : Nat) (bs : List Byte) (d : Dev) :
    (slotWriteBody s off bs d).1.flash.slot d.flash.primary = d.flash.slot d.flash.primary := by
  unfold slotWriteBody
  split
  · rfl
  · split
    · rfl
    next hp =>
      rw [Bool.eq_not_of_ne hp]
      exact Flash.putSlot_other _ _ off bs

/-- A write to the primary slot is refused, whatever the shed level, the session and the range (R298, R407, R412). -/
theorem slotWrite_primary_refused {d : Dev} {b : Bool} (hp : d.flash.primary = b) (off : Nat) (bs : List Byte) :
    ∃ x st, p4 (authed (slotWriteBody (bootSlot b) off bs)) d = (x, st, []) ∧ st ≠ 0 ∧ x.flash = d.flash := by
  unfold p4
  split
  · exact ⟨_, _, rfl, by decide, rfl⟩
  · unfold authed
    split
    · exact ⟨_, _, rfl, by decide, rfl⟩
    · unfold slotWriteBody
      split
      · exact ⟨_, _, rfl, by decide, rfl⟩
      · rw [if_pos (by simp [hp])]
        exact ⟨_, _, rfl, by decide, rfl⟩

/-! ### BOOTSEL (R297) -/

/-- Flash with a slot made primary: the older copy of the boot record is overwritten. -/
def Flash.select (f : Flash) (b : Bool) : Flash :=
  let n := max (if f.boot0.2.2 then f.boot0.2.1 else 0) (if f.boot1.2.2 then f.boot1.2.1 else 0) + 1
  if !f.boot0.2.2 || (f.boot1.2.2 && decide (f.boot0.2.1 < f.boot1.2.1)) then { f with boot0 := (b, n, true) } else { f with boot1 := (b, n, true) }

theorem Flash.select_frame (f : Flash) (b : Bool) : f.select b = { f with boot0 := (f.select b).boot0, boot1 := (f.select b).boot1 } := by
  unfold Flash.select
  dsimp only
  split <;> rfl

theorem Flash.select_slot (f : Flash) (b c : Bool) : (f.select b).slot c = f.slot c := by
  rw [Flash.select_frame]
  rfl

theorem Flash.select_primary (f : Flash) (b : Bool) : (f.select b).primary = b := by
  obtain ⟨s0, n0, v0, hf0⟩ : ∃ s n v, f.boot0 = (s, n, v) := ⟨_, _, _, rfl⟩
  obtain ⟨s1, n1, v1, hf1⟩ : ∃ s n v, f.boot1 = (s, n, v) := ⟨_, _, _, rfl⟩
  unfold Flash.select
  simp only [hf0, hf1]
  cases v0 <;> cases v1
  · simp [Flash.primary]
  · simp [Flash.primary]
  · simp [Flash.primary]
  · by_cases hn : n0 < n1
    · have hnew : ¬max n0 n1 + 1 < n1 := by omega
      simp [Flash.primary, hn, hnew]
    · simp [Flash.primary, hn]

/-- What BOOTSEL does once its class and session let it. -/
def bootselBody (s : Slot) (d : Dev) : Dev × Nat × List Byte :=
  if s = .factory then (d, bBadmsg, [])
  else match d.checkSlot (decide (s = .b)) with
    | .error _ => (d, bDenied, [])
    | .ok _ => ({ d with flash := d.flash.select (decide (s = .b)) }, bOk, [])

theorem Dev.bootsel_eq (d : Dev) (h : BmpHdr) (s : Slot) : d.bootsel h s = d.bmp h 0x12 false (p4 (authed (bootselBody s))) := by
  rfl

theorem bootselBody_of_error {d : Dev} {b : Bool} {r : ImgErr} (hc : d.checkSlot b = .error r) : bootselBody (bootSlot b) d = (d, bDenied, []) := by
  simp [bootselBody, hc]

theorem bootselBody_of_ok {d : Dev} {b : Bool} {r : Struct} (hc : d.checkSlot b = .ok r) :
    bootselBody (bootSlot b) d = ({ d with flash := d.flash.select b }, bOk, []) := by
  simp [bootselBody, hc]

theorem bootselBody_keepsSlots (s : Slot) (d : Dev) (c : Bool) : (bootselBody s d).1.flash.slot c = d.flash.slot c := by
  unfold bootselBody
  split
  · rfl
  · split
    · rfl
    · exact Flash.select_slot _ _ c

/-! ### What the answered messages leave of the slots -/

theorem Dev.slotWrite_keepsPrimary (d : Dev) (h : BmpHdr) (s : Slot) (off : Nat) (bs : List Byte) :
    (d.slotWrite h s off bs).flash.slot d.flash.primary = d.flash.slot d.flash.primary := by
  rw [Dev.slotWrite_eq]
  have hbody := slotWriteBody_keepsPrimary s off bs d
  exact bmp_keeps (·.slot d.flash.primary) (p4_keeps (·.slot d.flash.primary) (authed_keeps (·.slot d.flash.primary) hbody)) h 0x10 false

theorem Dev.bootsel_keepsSlots (d : Dev) (h : BmpHdr) (s : Slot) (c : Bool) : (d.bootsel h s).flash.slot c = d.flash.slot c := by
  rw [Dev.bootsel_eq]
  exact bmp_keeps (·.slot c) (p4_keeps (·.slot c) (authed_keeps (·.slot c) (bootselBody_keepsSlots s d c))) h 0x12 false

theorem Dev.fwWrite_keepsSlots (d : Dev) (h : BmpHdr) (off : Nat) (bs : List Byte) (c : Bool) :
    (d.fwWrite h off bs).flash.slot c = d.flash.slot c := by
  refine bmp_keeps (·.slot c) (p4_keeps (·.slot c) ?_) h 0x14 false
  split
  · rfl
  · dsimp only
    split <;> rfl

theorem Dev.keyInstall_keepsSlots (d : Dev) (h : BmpHdr) (key : BitVec 256) (sig : List Byte) (c : Bool) :
    (d.keyInstall h key sig).flash.slot c = d.flash.slot c := by
  refine bmp_keeps (·.slot c) ?_ h 0x18 false
  extract_lets ok
  clear_value ok
  split <;> rfl

/-! ### The answers of the two messages -/

theorem Dev.bmp_answers {d : Dev} {h : BmpHdr} (hh : d.heard h false) (hl : d.pkg.level < 2)
    (ha : d.st.mgmtSpdm = false ∨ d.bell.auth = true) (k : Dev → Dev × Nat × List Byte) (typ : Nat) :
    Dev.answered (d.bmp h typ false (p4 (authed k))) (k d).1 typ h (k d).2.1 (k d).2.2 := by
  have hk := (Dev.bmp_of_heard hh typ (p4 (authed k))).1
  rwa [p4_of_shed hl, authed_of_session ha] at hk

theorem exec_slotWrite (h : BmpHdr) (s : Slot) (off : Nat) (bs : List Byte) (d : Dev) (q : List Instr) :
    exec (.slotWrite h s off bs) ⟨d, q⟩ = .next ⟨d.bmp h 0x10 false (p4 (authed (slotWriteBody s off bs))), q⟩ := by
  rw [← Dev.slotWrite_eq]
  rfl

theorem exec_bootsel (h : BmpHdr) (s : Slot) (d : Dev) (q : List Instr) :
    exec (.bootsel h s) ⟨d, q⟩ = .next ⟨d.bmp h 0x12 false (p4 (authed (bootselBody s))), q⟩ := by
  rw [← Dev.bootsel_eq]
  rfl

/-! ### Every command -/

theorem sealed_of_next {d e : Dev} {q : List Instr} {s : State} (he : e.sealed = d.sealed)
    (h : (Host.Outcome.next ⟨e, q⟩ : Host.Outcome State Fault Refusal) = .next s) : s.dev.sealed = d.sealed := by
  obtain rfl := Host.Outcome.next.inj h
  exact he

/-- The messages that rewrite a slot, the boot record, the firmware or the key are taken one by one; every other command keeps sealed flash. -/
theorem exec_keepsPrimary {i : Instr} {d : Dev} {q : List Instr} {s : State} (h : exec i ⟨d, q⟩ = .next s) :
    s.dev.flash.slot d.flash.primary = d.flash.slot d.flash.primary := by
  cases i
  case slotWrite hdr slot off bs =>
    obtain rfl := Host.Outcome.next.inj h
    exact d.slotWrite_keepsPrimary hdr slot off bs
  case bootsel hdr slot =>
    obtain rfl := Host.Outcome.next.inj h
    exact d.bootsel_keepsSlots hdr slot _
  case fwWrite hdr off bs =>
    obtain rfl := Host.Outcome.next.inj h
    exact d.fwWrite_keepsSlots hdr off bs _
  case keyInstall hdr key sig =>
    obtain rfl := Host.Outcome.next.inj h
    exact d.keyInstall_keepsSlots hdr key sig _
  case inputOutOfRange mv us =>
    change (if beyondMax mv us then _ else _) = _ at h
    split at h
    · cases h
    · exact Dev.slot_of_sealed (sealed_of_next (d.inputOut_sealed mv us) h) _
  all_goals
    refine Dev.slot_of_sealed (sealed_of_next ?_ h) _
    simp

theorem step_keepsPrimary {s s' : State} (h : step s = .next s') : s'.dev.flash.slot s.dev.flash.primary = s.dev.flash.slot s.dev.flash.primary := by
  obtain ⟨d, _ | ⟨i, q⟩⟩ := s
  · exact Dev.slot_of_sealed (sealed_of_next d.tick_sealed h) _
  · exact exec_keepsPrimary h

/-! ### The obligation -/

/-- Settles O45: only SLOT_WRITE rewrites a slot, and it refuses the primary one; every other operation of the machine keeps sealed flash. -/
theorem primarySlotIsNeverWritten : Obligations.PrimarySlotIsNeverWritten := by
  refine ⟨fun h d bs off b q hh => ⟨fun hp => ?_, fun hl ha => ⟨fun hn ho => ⟨fun hp => ?_, fun hp => ?_⟩, fun r hc => ?_, fun r hc => ?_⟩⟩,
    fun s s' => step_keepsPrimary⟩
  · obtain ⟨x, st, hk, hst, hx⟩ := slotWrite_primary_refused hp off bs
    obtain ⟨hans, hf⟩ := Dev.bmp_of_heard hh 0x10 (p4 (authed (slotWriteBody (bootSlot b) off bs)))
    rw [hk] at hans hf
    exact ⟨_, x, st, exec_slotWrite h (bootSlot b) off bs d q, hans, hst, hf.trans hx⟩
  · have hans := Dev.bmp_answers hh hl ha (slotWriteBody (bootSlot b) off bs) 0x10
    rw [slotWriteBody_of_primary hp hn ho] at hans
    exact ⟨_, exec_slotWrite h (bootSlot b) off bs d q, hans⟩
  · have hans := Dev.bmp_answers hh hl ha (slotWriteBody (bootSlot b) off bs) 0x10
    rw [slotWriteBody_of_other hp hn ho] at hans
    refine ⟨_, d.flash.putSlot b off bs, exec_slotWrite h (bootSlot b) off bs d q, hans, d.flash.putSlot_frame b off bs, d.flash.putSlot_other b off bs, ?_⟩
    rw [Flash.putSlot_same]
    exact placed_putBytes 0xFF _ off bs
  · have hans := Dev.bmp_answers hh hl ha (bootselBody (bootSlot b)) 0x12
    rw [bootselBody_of_error hc] at hans
    exact ⟨_, exec_bootsel h (bootSlot b) d q, hans⟩
  · have hans := Dev.bmp_answers hh hl ha (bootselBody (bootSlot b)) 0x12
    rw [bootselBody_of_ok hc] at hans
    exact ⟨_, d.flash.select b, exec_bootsel h (bootSlot b) d q, hans, d.flash.select_frame b, d.flash.select_primary b⟩

end Sys2Proof.Machine
